-- ==== Sys2Proof/Word.lean ====
section
/-!
DEFINITION. The words of the machine: a scalar register (R28), an instruction word (R78) and a byte.
-/
namespace Sys2Proof

/-- A 64-bit word: a scalar register, a control register, an address. -/
abbrev Word := BitVec 64
/-- One byte of memory. -/
abbrev Byte := BitVec 8

end Sys2Proof
end

