-- ==== Sys2Proof/Config.lean ====
section
/-!
DEFINITION. What the spec leaves open: free values, one opaque constant each. Nothing in Lean can evaluate one or prove a
value of it; a statement that holds, holds for every value.
-/
namespace Sys2Proof.Config

/-- R248: the way of a full L1D set that gives up its line; applied to the state's counter of free values. -/
opaque victimWay : Nat → Nat
/-- R124: 256 bits of the conditioned entropy source; applied to the state's counter of free values. -/
opaque entropy : Nat → BitVec 256
/-- R356, R370: the SHA-384 digest of bytes, which FIPS 180-4 defines and the spec only names. -/
opaque sha384 : List Byte → BitVec 384
/-- R357: ECDSA P-384 verification of a signature over a digest, which FIPS 186-5 defines: PUB, digest, SIG. -/
opaque ecdsaVerify : List Byte → BitVec 384 → List Byte → Bool
/-- R357: the four fused key digests, their revocation fuses, and the fused minimum SVN of an image kind. -/
opaque fusedKeyDigest : Nat → BitVec 384
opaque keyRevoked : Nat → Bool
opaque fusedMinSvn : Nat → Nat
/-- R369: the bytes of the SPDM response of the device to GET_VERSION, GET_CAPABILITIES, NEGOTIATE_ALGORITHMS and CHALLENGE, which
SPDM 1.2 lays out: from the request's bytes, the measurements at index 2 and 3, and the state's counter of free values (nonces
and signatures differ from one to the next). -/
opaque spdmResponse : List Byte → BitVec 384 → BitVec 384 → Nat → List Byte
/-- R368: the certificate chain of the device identity key, in slot 0. -/
opaque certificateChain : List Byte
/-- R370: the digest of the boot logic, index 1, fixed at manufacture. -/
opaque bootMeasure : BitVec 384
/-- R370: the 32-byte nonce of a MEASUREMENTS response, and the signature of the device identity key over bytes; applied to the
state's counter of free values. -/
opaque spdmNonce : Nat → List Byte
opaque spdmSignature : List Byte → Nat → List Byte
/-- R141: which of the results the error bound admits VSFU delivers: function, TYPE code, operand code. -/
opaque sfuPick : Nat → Nat → Nat → Nat
/-- R160: the same for the exponentials of VSOFT: TYPE code of the result, code of the element, code of the maximum. -/
opaque expPick : Nat → Nat → Nat → Nat
/-- R159: the same for VRLOG: TYPE code, and the active elements with their indices. -/
opaque rlogPick : Nat → List (Nat × Nat) → Nat
/-- R162: how far the cosine (false) and the sine (true) of an angle are from exact, in units below 2^-40. -/
opaque ropePick : Nat → Bool → Nat
/-- R236: which child a prefix that ends within a page follows, where several match it as far; applied to the state's
counter of free values. -/
opaque atollPick : Nat → Nat

/-- R365: the spare rows of one array of a core's SRAM, a number the spec does not state. -/
opaque spareRows : Nat
/-- R363: the channel and row of a line within its slot of LPDDR-6, whose channels and rows the spec does not lay out; applied to the
line's number within the slot. -/
opaque lpddrRow : Nat → BitVec 15

end Sys2Proof.Config
end

