-- ==== Sys2Proof/Syntax.lean ====
section
/-!
DEFINITION. The syntax: one constructor of `Instr` per row of the opcode table. The first 296 are the encoded
instructions of R82-R84; the fields of a constructor are the operand fields of its encoding (R79), from the highest
bit to the lowest, under the table's one-letter names:
`c` convoy bit (R81), `k` mask or token in [24:22], `b`, `a`, `d` the register fields, `i` immediate, `o` offset,
`s` scope code or register, `m` rounding mode or tile mode, `f` FP32/FP64 or stream, `q` token, `r` destination token,
`h` handle or shift amount, `t` TYPE code or transposed form, `z` tile, `x` `y` `p` form bits, `w` width code.
The last 82 are the steps of the device and of the outside world; their fields are what that agent chooses or supplies.
-/
namespace Sys2Proof

/-- The slots one member of a gang is given (R304): its member number, its spanned cores, slice 0 first, and the slot
number it takes on each of them. Core c of Isle i is number 64i + c. -/
structure Place where
  member : Nat
  cores : List Nat
  slot : Nat
  deriving DecidableEq, Repr

/-- A Vuripen message (R337, R342): its header flit, byte +0 in [7:0], and its data, one 64-bit word and its poison bit
at a time. -/
structure Message where
  header : BitVec 512
  data : List (BitVec 64 × Bool)
  deriving DecidableEq, Repr

/-- A hash version (R260): its number, the rows of M_v and the constant k_v. -/
structure HashVersion where
  version : Nat
  rows : List (BitVec 15)
  const : BitVec 15
  deriving DecidableEq, Repr

/-- A supervisor hart as the service firmware starts it (R357): its Isle, its entry address and its trap vector (R253). -/
structure HartStart where
  isle : Nat
  pc : BitVec 64
  tvec : BitVec 64
  deriving DecidableEq, Repr

/-- A place the scrubber reads (R363, R364, log 21): a 64-byte line of main memory at a physical address; a 64-bit word of a core's region at its offset, of a mask, of a scalar register, of an L1D line or of a
stream's strip; a word of a vector register, slice by slice; an element of a tile; an instruction word of a core's cache; a translation a core holds;
a word of a core's interlock and engine structures; a lane. -/
inductive StoragePlace where
  | line (pa : Nat)
  | region (core off : Nat)
  | vector (core slot reg word : Nat)
  | mask (core slot reg word : Nat)
  | tile (core slot reg elem : Nat)
  | scalar (core slot reg : Nat)
  | l1d (core line word : Nat)
  | strip (core slot stream word : Nat)
  | icache (core key : Nat)
  | stc (core va : Nat)
  | engine (core word : Nat)
  | lane (core lane : Nat)
  deriving DecidableEq, Repr

/-- The instruction set and the device's other steps: one constructor per row of the opcode table. -/
inductive Instr where
  /-- ADD (R98): Writes the 64-bit wrapping sum of sa and sb to sd. -/
  | add (b : BitVec 5) (a : BitVec 5) (d : BitVec 5)
  /-- SUB (R98): Writes sa minus sb, wrapped to 64 bits, to sd. -/
  | sub (b : BitVec 5) (a : BitVec 5) (d : BitVec 5)
  /-- AND (R98): Writes the bitwise AND of sa and sb to sd. -/
  | and (b : BitVec 5) (a : BitVec 5) (d : BitVec 5)
  /-- OR (R98): Writes the bitwise OR of sa and sb to sd. -/
  | or (b : BitVec 5) (a : BitVec 5) (d : BitVec 5)
  /-- XOR (R98): Writes the bitwise XOR of sa and sb to sd. -/
  | xor (b : BitVec 5) (a : BitVec 5) (d : BitVec 5)
  /-- ANDN (R98): Writes sa AND NOT sb to sd. -/
  | andn (b : BitVec 5) (a : BitVec 5) (d : BitVec 5)
  /-- SLL (R98): Shifts sa left by sb[5:0] into sd. -/
  | sll (b : BitVec 5) (a : BitVec 5) (d : BitVec 5)
  /-- SRL (R98): Shifts sa right logically by sb[5:0] into sd. -/
  | srl (b : BitVec 5) (a : BitVec 5) (d : BitVec 5)
  /-- SRA (R98): Shifts sa right arithmetically by sb[5:0] into sd. -/
  | sra (b : BitVec 5) (a : BitVec 5) (d : BitVec 5)
  /-- MUL (R98): Writes the low 64 bits of sa times sb to sd. -/
  | mul (b : BitVec 5) (a : BitVec 5) (d : BitVec 5)
  /-- MULH (R98): Writes the high 64 bits of the signed 128-bit product to sd. -/
  | mulh (b : BitVec 5) (a : BitVec 5) (d : BitVec 5)
  /-- MULHU (R98): Writes the high 64 bits of the unsigned 128-bit product to sd. -/
  | mulhu (b : BitVec 5) (a : BitVec 5) (d : BitVec 5)
  /-- DIV (R99): Writes the signed quotient rounded toward zero, with fixed results for division by zero and overflow. -/
  | div (b : BitVec 5) (a : BitVec 5) (d : BitVec 5)
  /-- DIVU (R99): Writes the unsigned quotient, all ones for division by zero. -/
  | divu (b : BitVec 5) (a : BitVec 5) (d : BitVec 5)
  /-- REM (R99): Writes the signed remainder with the sign of sa. -/
  | rem (b : BitVec 5) (a : BitVec 5) (d : BitVec 5)
  /-- REMU (R99): Writes the unsigned remainder. -/
  | remu (b : BitVec 5) (a : BitVec 5) (d : BitVec 5)
  /-- MIN (R98): Writes the signed minimum of sa and sb. -/
  | min (b : BitVec 5) (a : BitVec 5) (d : BitVec 5)
  /-- MAX (R98): Writes the signed maximum of sa and sb. -/
  | max (b : BitVec 5) (a : BitVec 5) (d : BitVec 5)
  /-- MINU (R98): Writes the unsigned minimum of sa and sb. -/
  | minu (b : BitVec 5) (a : BitVec 5) (d : BitVec 5)
  /-- MAXU (R98): Writes the unsigned maximum of sa and sb. -/
  | maxu (b : BitVec 5) (a : BitVec 5) (d : BitVec 5)
  /-- SLT (R98): Writes 1 if sa is less than sb signed, else 0. -/
  | slt (b : BitVec 5) (a : BitVec 5) (d : BitVec 5)
  /-- SLTU (R98): Writes 1 if sa is less than sb unsigned, else 0. -/
  | sltu (b : BitVec 5) (a : BitVec 5) (d : BitVec 5)
  /-- CLZ (R98): Writes the count of leading zero bits of sa. -/
  | clz (a : BitVec 5) (d : BitVec 5)
  /-- CTZ (R98): Writes the count of trailing zero bits of sa. -/
  | ctz (a : BitVec 5) (d : BitVec 5)
  /-- POPC (R98): Writes the count of one bits of sa. -/
  | popc (a : BitVec 5) (d : BitVec 5)
  /-- ADDI (R100): Writes sa plus the sign-extended immediate. -/
  | addi (i : BitVec 15) (a : BitVec 5) (d : BitVec 5)
  /-- ANDI (R100): Writes sa AND the sign-extended immediate. -/
  | andi (i : BitVec 15) (a : BitVec 5) (d : BitVec 5)
  /-- ORI (R100): Writes sa OR the sign-extended immediate. -/
  | ori (i : BitVec 15) (a : BitVec 5) (d : BitVec 5)
  /-- XORI (R100): Writes sa XOR the sign-extended immediate. -/
  | xori (i : BitVec 15) (a : BitVec 5) (d : BitVec 5)
  /-- SLTI (R100): Writes 1 if sa is less than the immediate signed, else 0. -/
  | slti (i : BitVec 15) (a : BitVec 5) (d : BitVec 5)
  /-- SLLI (R101): Shifts sa left by an immediate amount. -/
  | slli (h : BitVec 6) (a : BitVec 5) (d : BitVec 5)
  /-- SRLI (R101): Shifts sa right logically by an immediate amount. -/
  | srli (h : BitVec 6) (a : BitVec 5) (d : BitVec 5)
  /-- SRAI (R101): Shifts sa right arithmetically by an immediate amount. -/
  | srai (h : BitVec 6) (a : BitVec 5) (d : BitVec 5)
  /-- LIH (R102): Writes the sign-extended 20-bit immediate times 4,096 to sd. -/
  | lih (i : BitVec 20) (d : BitVec 5)
  /-- ADDPC (R102): Writes pc plus the sign-extended immediate times 4 to sd. -/
  | addpc (i : BitVec 20) (d : BitVec 5)
  /-- LIW (R102): Long form that writes the sign-extended 32-bit second word to sd. -/
  | liw (d : BitVec 5) (i : BitVec 32)
  /-- FADD (R103): Adds two FP32 or FP64 scalars with one rounding. -/
  | fadd (f : Bool) (m : BitVec 3) (b : BitVec 5) (a : BitVec 5) (d : BitVec 5)
  /-- FSUB (R103): Subtracts two FP32 or FP64 scalars with one rounding. -/
  | fsub (f : Bool) (m : BitVec 3) (b : BitVec 5) (a : BitVec 5) (d : BitVec 5)
  /-- FMUL (R103): Multiplies two FP32 or FP64 scalars with one rounding. -/
  | fmul (f : Bool) (m : BitVec 3) (b : BitVec 5) (a : BitVec 5) (d : BitVec 5)
  /-- FFMA (R103): Computes sa times sb plus sd exactly and rounds once into sd. -/
  | ffma (f : Bool) (m : BitVec 3) (b : BitVec 5) (a : BitVec 5) (d : BitVec 5)
  /-- FDIV (R103): Divides two FP32 or FP64 scalars with one rounding. -/
  | fdiv (f : Bool) (m : BitVec 3) (b : BitVec 5) (a : BitVec 5) (d : BitVec 5)
  /-- FSQRT (R103): Writes the rounded square root of sa. -/
  | fsqrt (f : Bool) (m : BitVec 3) (a : BitVec 5) (d : BitVec 5)
  /-- FMIN (R103): Writes the minimum of two floats as R75 states. -/
  | fmin (f : Bool) (b : BitVec 5) (a : BitVec 5) (d : BitVec 5)
  /-- FMAX (R103): Writes the maximum of two floats as R75 states. -/
  | fmax (f : Bool) (b : BitVec 5) (a : BitVec 5) (d : BitVec 5)
  /-- FCMP_EQ (R104): Writes 1 when the two floats compare equal under IEEE comparison. -/
  | fcmpEq (f : Bool) (b : BitVec 5) (a : BitVec 5) (d : BitVec 5)
  /-- FCMP_LT (R104): Writes 1 when sa is less than sb under IEEE comparison. -/
  | fcmpLt (f : Bool) (b : BitVec 5) (a : BitVec 5) (d : BitVec 5)
  /-- FCMP_LE (R104): Writes 1 when sa is less than or equal to sb under IEEE comparison. -/
  | fcmpLe (f : Bool) (b : BitVec 5) (a : BitVec 5) (d : BitVec 5)
  /-- FCMP_UNORD (R104): Writes 1 when either operand is a NaN. -/
  | fcmpUnord (f : Bool) (b : BitVec 5) (a : BitVec 5) (d : BitVec 5)
  /-- FCVT_TOINT32 (R105): Converts a float to INT32, sign-extended. -/
  | fcvtToInt32 (f : Bool) (m : BitVec 3) (a : BitVec 5) (d : BitVec 5)
  /-- FCVT_TOUINT32 (R105): Converts a float to UINT32, zero-extended. -/
  | fcvtToUint32 (f : Bool) (m : BitVec 3) (a : BitVec 5) (d : BitVec 5)
  /-- FCVT_TOINT64 (R105): Converts a float to INT64. -/
  | fcvtToInt64 (f : Bool) (m : BitVec 3) (a : BitVec 5) (d : BitVec 5)
  /-- FCVT_TOUINT64 (R105): Converts a float to UINT64. -/
  | fcvtToUint64 (f : Bool) (m : BitVec 3) (a : BitVec 5) (d : BitVec 5)
  /-- FCVT_FROMINT32 (R105): Converts sa[31:0] read as INT32 to the float format. -/
  | fcvtFromInt32 (f : Bool) (m : BitVec 3) (a : BitVec 5) (d : BitVec 5)
  /-- FCVT_FROMUINT32 (R105): Converts sa[31:0] read as UINT32 to the float format. -/
  | fcvtFromUint32 (f : Bool) (m : BitVec 3) (a : BitVec 5) (d : BitVec 5)
  /-- FCVT_FROMINT64 (R105): Converts sa read as INT64 to the float format. -/
  | fcvtFromInt64 (f : Bool) (m : BitVec 3) (a : BitVec 5) (d : BitVec 5)
  /-- FCVT_FROMUINT64 (R105): Converts sa read as UINT64 to the float format. -/
  | fcvtFromUint64 (f : Bool) (m : BitVec 3) (a : BitVec 5) (d : BitVec 5)
  /-- FCVT_FP (R105): Converts between FP32 and FP64. -/
  | fcvtFp (f : Bool) (m : BitVec 3) (a : BitVec 5) (d : BitVec 5)
  /-- LD_B (R107): Loads one byte, sign-extended, after the checks of R106. -/
  | ldB (i : BitVec 15) (a : BitVec 5) (d : BitVec 5)
  /-- LD_H (R107): Loads two bytes, sign-extended. -/
  | ldH (i : BitVec 15) (a : BitVec 5) (d : BitVec 5)
  /-- LD_W (R107): Loads four bytes, sign-extended. -/
  | ldW (i : BitVec 15) (a : BitVec 5) (d : BitVec 5)
  /-- LD_D (R107): Loads eight bytes. -/
  | ldD (i : BitVec 15) (a : BitVec 5) (d : BitVec 5)
  /-- LD_BU (R107): Loads one byte, zero-extended. -/
  | ldBu (i : BitVec 15) (a : BitVec 5) (d : BitVec 5)
  /-- LD_HU (R107): Loads two bytes, zero-extended. -/
  | ldHu (i : BitVec 15) (a : BitVec 5) (d : BitVec 5)
  /-- LD_WU (R107): Loads four bytes, zero-extended. -/
  | ldWu (i : BitVec 15) (a : BitVec 5) (d : BitVec 5)
  /-- ST_B (R108): Stores the low byte of sb at sa plus the offset. -/
  | stB (o : BitVec 12) (b : BitVec 5) (a : BitVec 5)
  /-- ST_H (R108): Stores the low two bytes of sb. -/
  | stH (o : BitVec 12) (b : BitVec 5) (a : BitVec 5)
  /-- ST_W (R108): Stores the low four bytes of sb. -/
  | stW (o : BitVec 12) (b : BitVec 5) (a : BitVec 5)
  /-- ST_D (R108): Stores all eight bytes of sb. -/
  | stD (o : BitVec 12) (b : BitVec 5) (a : BitVec 5)
  /-- AMO_ADD (R109): Atomically adds sb to the 64-bit word at sa and returns the old value. -/
  | amoAdd (o : BitVec 2) (s : BitVec 4) (b : BitVec 5) (a : BitVec 5) (d : BitVec 5)
  /-- AMO_AND (R109): Atomically ANDs sb into the word and returns the old value. -/
  | amoAnd (o : BitVec 2) (s : BitVec 4) (b : BitVec 5) (a : BitVec 5) (d : BitVec 5)
  /-- AMO_OR (R109): Atomically ORs sb into the word and returns the old value. -/
  | amoOr (o : BitVec 2) (s : BitVec 4) (b : BitVec 5) (a : BitVec 5) (d : BitVec 5)
  /-- AMO_XOR (R109): Atomically XORs sb into the word and returns the old value. -/
  | amoXor (o : BitVec 2) (s : BitVec 4) (b : BitVec 5) (a : BitVec 5) (d : BitVec 5)
  /-- AMO_MIN (R109): Atomically stores the signed minimum and returns the old value. -/
  | amoMin (o : BitVec 2) (s : BitVec 4) (b : BitVec 5) (a : BitVec 5) (d : BitVec 5)
  /-- AMO_MAX (R109): Atomically stores the signed maximum and returns the old value. -/
  | amoMax (o : BitVec 2) (s : BitVec 4) (b : BitVec 5) (a : BitVec 5) (d : BitVec 5)
  /-- AMO_MINU (R109): Atomically stores the unsigned minimum and returns the old value. -/
  | amoMinu (o : BitVec 2) (s : BitVec 4) (b : BitVec 5) (a : BitVec 5) (d : BitVec 5)
  /-- AMO_MAXU (R109): Atomically stores the unsigned maximum and returns the old value. -/
  | amoMaxu (o : BitVec 2) (s : BitVec 4) (b : BitVec 5) (a : BitVec 5) (d : BitVec 5)
  /-- CAS (R110): Writes sb to the word if it equals sd, and returns the old word in sd. -/
  | cas (o : BitVec 2) (s : BitVec 4) (b : BitVec 5) (a : BitVec 5) (d : BitVec 5)
  /-- AMO_SWAP (R109): Atomically writes sb to the word and returns the old value. -/
  | amoSwap (o : BitVec 2) (s : BitVec 4) (b : BitVec 5) (a : BitVec 5) (d : BitVec 5)
  /-- BEQ (R112): Branches when sa equals sb. -/
  | beq (o : BitVec 12) (b : BitVec 5) (a : BitVec 5)
  /-- BNE (R112): Branches when sa differs from sb. -/
  | bne (o : BitVec 12) (b : BitVec 5) (a : BitVec 5)
  /-- BLT (R112): Branches when sa is less than sb signed. -/
  | blt (o : BitVec 12) (b : BitVec 5) (a : BitVec 5)
  /-- BGE (R112): Branches when sa is at least sb signed. -/
  | bge (o : BitVec 12) (b : BitVec 5) (a : BitVec 5)
  /-- BLTU (R112): Branches when sa is less than sb unsigned. -/
  | bltu (o : BitVec 12) (b : BitVec 5) (a : BitVec 5)
  /-- BGEU (R112): Branches when sa is at least sb unsigned. -/
  | bgeu (o : BitVec 12) (b : BitVec 5) (a : BitVec 5)
  /-- JAL (R113): Writes pc + 4 to sd and jumps by the word offset. -/
  | jal (o : BitVec 20) (d : BitVec 5)
  /-- JALR (R113): Jumps to sa plus the immediate and writes pc + 4 to sd. -/
  | jalr (i : BitVec 15) (a : BitVec 5) (d : BitVec 5)
  /-- CSRR (R114): Reads a control and status register into sd. -/
  | csrr (c : BitVec 10) (d : BitVec 5)
  /-- CSRW (R114): Writes sa to a control and status register under its access codes. -/
  | csrw (c : BitVec 10) (a : BitVec 5)
  /-- CSRX (R114): Reads a control and status register into sd and then writes sa to it. -/
  | csrx (c : BitVec 10) (a : BitVec 5) (d : BitVec 5)
  /-- ECALL (R118): Traps with cause ECALL. -/
  | ecall
  /-- EBREAK (R118): Traps with cause EBREAK. -/
  | ebreak
  /-- TRET (R117): Returns to TPC, restores the previous privilege and clears TACT. -/
  | tret
  /-- PAUSE (R121): Keeps the hart from issue selection for the next 32 clk. -/
  | pause
  /-- YIELD (R121): Resets the hart's age and places it last for the next selection. -/
  | yield
  /-- HEXIT (R129): Waits for earlier work, kills tokens, frees slots, exits the hart and counts the exit at the barrier. -/
  | hexit
  /-- GBAR (R127): Releases at GANG scope, arrives at the gang barrier and waits. -/
  | gbar
  /-- FENCE_SV (R120): Makes vector-agent accesses wait for earlier scalar-agent accesses at the scope and writes back dirty L1D lines. -/
  | fenceSv (s : BitVec 4)
  /-- FENCE_VS (R120): Makes scalar-agent accesses wait for earlier vector-agent accesses at the scope and invalidates stale L1D lines. -/
  | fenceVS (s : BitVec 4)
  /-- FENCE_VV (R120): Makes later vector-agent accesses wait for earlier ones at the scope. -/
  | fenceVV (s : BitVec 4)
  /-- FENCE_ALL (R120): Orders every access of both agents at the scope with both cache actions. -/
  | fenceAll (s : BitVec 4)
  /-- WAITW_EQ (R122): Reads the word bypassing L1D and waits until it equals sb, then acquires. -/
  | waitwEq (s : BitVec 4) (b : BitVec 5) (a : BitVec 5) (d : BitVec 5)
  /-- WAITW_NE (R122): Waits until the word differs from sb. -/
  | waitwNe (s : BitVec 4) (b : BitVec 5) (a : BitVec 5) (d : BitVec 5)
  /-- WAITW_GEU (R122): Waits until the word is at least sb unsigned. -/
  | waitwGeu (s : BitVec 4) (b : BitVec 5) (a : BitVec 5) (d : BitVec 5)
  /-- WAITW_LTU (R122): Waits until the word is below sb unsigned. -/
  | waitwLtu (s : BitVec 4) (b : BitVec 5) (a : BitVec 5) (d : BitVec 5)
  /-- WAITW_GE (R122): Waits until the word is at least sb signed. -/
  | waitwGe (s : BitVec 4) (b : BitVec 5) (a : BitVec 5) (d : BitVec 5)
  /-- WAITW_LT (R122): Waits until the word is below sb signed. -/
  | waitwLt (s : BitVec 4) (b : BitVec 5) (a : BitVec 5) (d : BitVec 5)
  /-- SPAWN (R125): Reads and validates a spawn record and posts it to the package spawn queue, returning a GANGID or a reject code. -/
  | spawn (a : BitVec 5) (d : BitVec 5)
  /-- VSETVL (R137): Grants VL as the least of the request, VLMAXC/w and BUDGET/w, performing the first-VSETVL clearing once. -/
  | vsetvl (w : BitVec 3) (a : BitVec 5) (d : BitVec 5)
  /-- VSETVL_X (R137): Grants exactly the requested VL, ignoring BUDGET, or traps NO_VL above VLMAX. -/
  | vsetvlX (w : BitVec 3) (a : BitVec 5) (d : BitVec 5)
  /-- VCFG (R138): Sets a vector register's tag from a scalar, clearing the sorted fields. -/
  | vcfg (b : BitVec 5) (d : BitVec 5)
  /-- VADD_VV (R139): Adds two vectors element by element. -/
  | vaddVV (c : Bool) (k : BitVec 3) (b : BitVec 5) (a : BitVec 5) (d : BitVec 5)
  /-- VADD_VS (R139): Adds a scalar to each element. -/
  | vaddVS (c : Bool) (k : BitVec 3) (b : BitVec 5) (a : BitVec 5) (d : BitVec 5)
  /-- VADD_VI (R139): Adds a 5-bit immediate to each integer element. -/
  | vaddVI (c : Bool) (k : BitVec 3) (i : BitVec 5) (a : BitVec 5) (d : BitVec 5)
  /-- VSUB_VV (R139): Subtracts two vectors element by element. -/
  | vsubVV (c : Bool) (k : BitVec 3) (b : BitVec 5) (a : BitVec 5) (d : BitVec 5)
  /-- VSUB_VS (R139): Subtracts a scalar from each element. -/
  | vsubVS (c : Bool) (k : BitVec 3) (b : BitVec 5) (a : BitVec 5) (d : BitVec 5)
  /-- VSUB_VI (R139): Subtracts an immediate from each integer element. -/
  | vsubVI (c : Bool) (k : BitVec 3) (i : BitVec 5) (a : BitVec 5) (d : BitVec 5)
  /-- VMUL_VV (R139): Multiplies two vectors element by element. -/
  | vmulVV (c : Bool) (k : BitVec 3) (b : BitVec 5) (a : BitVec 5) (d : BitVec 5)
  /-- VMUL_VS (R139): Multiplies each element by a scalar. -/
  | vmulVS (c : Bool) (k : BitVec 3) (b : BitVec 5) (a : BitVec 5) (d : BitVec 5)
  /-- VMULH_VV (R139): Writes the high half of each integer product of two vectors. -/
  | vmulhVV (c : Bool) (k : BitVec 3) (b : BitVec 5) (a : BitVec 5) (d : BitVec 5)
  /-- VMULH_VS (R139): Writes the high half of each integer product with a scalar. -/
  | vmulhVS (c : Bool) (k : BitVec 3) (b : BitVec 5) (a : BitVec 5) (d : BitVec 5)
  /-- VFMA_VV (R139): Computes vd + va × vb per element with one rounding. -/
  | vfmaVV (c : Bool) (k : BitVec 3) (b : BitVec 5) (a : BitVec 5) (d : BitVec 5)
  /-- VFMA_VS (R139): Computes vd + va × sb per element with one rounding. -/
  | vfmaVS (c : Bool) (k : BitVec 3) (b : BitVec 5) (a : BitVec 5) (d : BitVec 5)
  /-- VDIV_VV (R139): Divides two vectors element by element. -/
  | vdivVV (c : Bool) (k : BitVec 3) (b : BitVec 5) (a : BitVec 5) (d : BitVec 5)
  /-- VDIV_VS (R139): Divides each element by a scalar. -/
  | vdivVS (c : Bool) (k : BitVec 3) (b : BitVec 5) (a : BitVec 5) (d : BitVec 5)
  /-- VMIN_VV (R139): Writes the element-wise minimum of two vectors. -/
  | vminVV (c : Bool) (k : BitVec 3) (b : BitVec 5) (a : BitVec 5) (d : BitVec 5)
  /-- VMIN_VS (R139): Writes the minimum of each element and a scalar. -/
  | vminVS (c : Bool) (k : BitVec 3) (b : BitVec 5) (a : BitVec 5) (d : BitVec 5)
  /-- VMAX_VV (R139): Writes the element-wise maximum of two vectors. -/
  | vmaxVV (c : Bool) (k : BitVec 3) (b : BitVec 5) (a : BitVec 5) (d : BitVec 5)
  /-- VMAX_VS (R139): Writes the maximum of each element and a scalar. -/
  | vmaxVS (c : Bool) (k : BitVec 3) (b : BitVec 5) (a : BitVec 5) (d : BitVec 5)
  /-- VAND_VV (R139): Bitwise AND of two vectors. -/
  | vandVV (c : Bool) (k : BitVec 3) (b : BitVec 5) (a : BitVec 5) (d : BitVec 5)
  /-- VAND_VS (R139): Bitwise AND of each element with a scalar. -/
  | vandVS (c : Bool) (k : BitVec 3) (b : BitVec 5) (a : BitVec 5) (d : BitVec 5)
  /-- VAND_VI (R139): Bitwise AND of each element with an immediate. -/
  | vandVI (c : Bool) (k : BitVec 3) (i : BitVec 5) (a : BitVec 5) (d : BitVec 5)
  /-- VOR_VV (R139): Bitwise OR of two vectors. -/
  | vorVV (c : Bool) (k : BitVec 3) (b : BitVec 5) (a : BitVec 5) (d : BitVec 5)
  /-- VOR_VS (R139): Bitwise OR of each element with a scalar. -/
  | vorVS (c : Bool) (k : BitVec 3) (b : BitVec 5) (a : BitVec 5) (d : BitVec 5)
  /-- VOR_VI (R139): Bitwise OR of each element with an immediate. -/
  | vorVI (c : Bool) (k : BitVec 3) (i : BitVec 5) (a : BitVec 5) (d : BitVec 5)
  /-- VXOR_VV (R139): Bitwise XOR of two vectors. -/
  | vxorVV (c : Bool) (k : BitVec 3) (b : BitVec 5) (a : BitVec 5) (d : BitVec 5)
  /-- VXOR_VS (R139): Bitwise XOR of each element with a scalar. -/
  | vxorVS (c : Bool) (k : BitVec 3) (b : BitVec 5) (a : BitVec 5) (d : BitVec 5)
  /-- VXOR_VI (R139): Bitwise XOR of each element with an immediate. -/
  | vxorVI (c : Bool) (k : BitVec 3) (i : BitVec 5) (a : BitVec 5) (d : BitVec 5)
  /-- VSHL_VV (R139): Shifts each integer element left by the other vector's element. -/
  | vshlVV (c : Bool) (k : BitVec 3) (b : BitVec 5) (a : BitVec 5) (d : BitVec 5)
  /-- VSHL_VS (R139): Shifts each integer element left by a scalar. -/
  | vshlVS (c : Bool) (k : BitVec 3) (b : BitVec 5) (a : BitVec 5) (d : BitVec 5)
  /-- VSHL_VI (R139): Shifts each integer element left by an immediate. -/
  | vshlVI (c : Bool) (k : BitVec 3) (i : BitVec 5) (a : BitVec 5) (d : BitVec 5)
  /-- VSHR_VV (R139): Shifts each integer element right by the other vector's element. -/
  | vshrVV (c : Bool) (k : BitVec 3) (b : BitVec 5) (a : BitVec 5) (d : BitVec 5)
  /-- VSHR_VS (R139): Shifts each integer element right by a scalar. -/
  | vshrVS (c : Bool) (k : BitVec 3) (b : BitVec 5) (a : BitVec 5) (d : BitVec 5)
  /-- VSHR_VI (R139): Shifts each integer element right by an immediate. -/
  | vshrVI (c : Bool) (k : BitVec 3) (i : BitVec 5) (a : BitVec 5) (d : BitVec 5)
  /-- VLDEXP_VV (R139): Scales each float element by 2 to the integer element of vb. -/
  | vldexpVV (c : Bool) (k : BitVec 3) (b : BitVec 5) (a : BitVec 5) (d : BitVec 5)
  /-- VLDEXP_VS (R139): Scales each float element by 2 to a scalar power. -/
  | vldexpVS (c : Bool) (k : BitVec 3) (b : BitVec 5) (a : BitVec 5) (d : BitVec 5)
  /-- VLDEXP_VI (R139): Immediate form of VLDEXP; it traps TYPE_MISMATCH for float sources. -/
  | vldexpVI (c : Bool) (k : BitVec 3) (i : BitVec 5) (a : BitVec 5) (d : BitVec 5)
  /-- VSEL_VV (R142): Selects va where the mask is set and vb elsewhere. -/
  | vselVV (c : Bool) (k : BitVec 3) (b : BitVec 5) (a : BitVec 5) (d : BitVec 5)
  /-- VSEL_VS (R142): Selects va where the mask is set and a scalar elsewhere. -/
  | vselVS (c : Bool) (k : BitVec 3) (b : BitVec 5) (a : BitVec 5) (d : BitVec 5)
  /-- VSEL_VI (R142): Selects va where the mask is set and an immediate elsewhere. -/
  | vselVI (c : Bool) (k : BitVec 3) (i : BitVec 5) (a : BitVec 5) (d : BitVec 5)
  /-- VADC_VV (R145): Adds two vectors with carry-in and carry-out in the mask kc. -/
  | vadcVV (c : Bool) (k : BitVec 3) (b : BitVec 5) (a : BitVec 5) (d : BitVec 5)
  /-- VADC_VS (R145): Adds a scalar with carry-in and carry-out in the mask kc. -/
  | vadcVS (c : Bool) (k : BitVec 3) (b : BitVec 5) (a : BitVec 5) (d : BitVec 5)
  /-- VSBC_VV (R145): Subtracts two vectors with borrow-in and borrow-out in the mask kc. -/
  | vsbcVV (c : Bool) (k : BitVec 3) (b : BitVec 5) (a : BitVec 5) (d : BitVec 5)
  /-- VSBC_VS (R145): Subtracts a scalar with borrow-in and borrow-out in the mask kc. -/
  | vsbcVS (c : Bool) (k : BitVec 3) (b : BitVec 5) (a : BitVec 5) (d : BitVec 5)
  /-- VWADD_VV (R146): Widening add of two vectors into an even/odd pair. -/
  | vwaddVV (c : Bool) (k : BitVec 3) (b : BitVec 5) (a : BitVec 5) (d : BitVec 5)
  /-- VWADD_VS (R146): Widening add of a scalar into an even/odd pair. -/
  | vwaddVS (c : Bool) (k : BitVec 3) (b : BitVec 5) (a : BitVec 5) (d : BitVec 5)
  /-- VWMUL_VV (R146): Widening multiply of two vectors into a pair. -/
  | vwmulVV (c : Bool) (k : BitVec 3) (b : BitVec 5) (a : BitVec 5) (d : BitVec 5)
  /-- VWMUL_VS (R146): Widening multiply by a scalar into a pair. -/
  | vwmulVS (c : Bool) (k : BitVec 3) (b : BitVec 5) (a : BitVec 5) (d : BitVec 5)
  /-- VWFMA_VV (R146): Widening fused multiply-add into the pair. -/
  | vwfmaVV (c : Bool) (k : BitVec 3) (b : BitVec 5) (a : BitVec 5) (d : BitVec 5)
  /-- VWFMA_VS (R146): Widening fused multiply-add with a scalar into the pair. -/
  | vwfmaVS (c : Bool) (k : BitVec 3) (b : BitVec 5) (a : BitVec 5) (d : BitVec 5)
  /-- VSGN_VV (R139): Gives each float element of va the sign of vb. -/
  | vsgnVV (c : Bool) (k : BitVec 3) (b : BitVec 5) (a : BitVec 5) (d : BitVec 5)
  /-- VSGN_VS (R139): Gives each float element of va the sign of a scalar. -/
  | vsgnVS (c : Bool) (k : BitVec 3) (b : BitVec 5) (a : BitVec 5) (d : BitVec 5)
  /-- VABS (R140): Writes the absolute value of each element. -/
  | vabs (c : Bool) (k : BitVec 3) (a : BitVec 5) (d : BitVec 5)
  /-- VRND (R140): Rounds each float element to an integral value in the given mode. -/
  | vrnd (c : Bool) (k : BitVec 3) (m : BitVec 3) (a : BitVec 5) (d : BitVec 5)
  /-- VCVT (R148): Converts each element to another type of equal width. -/
  | vcvt (c : Bool) (k : BitVec 3) (t : BitVec 5) (a : BitVec 5) (d : BitVec 5)
  /-- VUNPACK (R149): Widens each element by 2 or 4 into a group of destination registers. -/
  | vunpack (c : Bool) (k : BitVec 3) (t : BitVec 5) (a : BitVec 5) (d : BitVec 5)
  /-- VSFU_RCP (R141): Computes the reciprocal of each float element. -/
  | vsfuRcp (c : Bool) (k : BitVec 3) (a : BitVec 5) (d : BitVec 5)
  /-- VSFU_RSQRT (R141): Computes the reciprocal square root of each element. -/
  | vsfuRsqrt (c : Bool) (k : BitVec 3) (a : BitVec 5) (d : BitVec 5)
  /-- VSFU_SQRT (R141): Computes the correctly rounded square root of each element. -/
  | vsfuSqrt (c : Bool) (k : BitVec 3) (a : BitVec 5) (d : BitVec 5)
  /-- VSFU_EXP2 (R141): Computes 2 to the power of each element. -/
  | vsfuExp2 (c : Bool) (k : BitVec 3) (a : BitVec 5) (d : BitVec 5)
  /-- VSFU_LOG2 (R141): Computes the base-2 logarithm of each element. -/
  | vsfuLog2 (c : Bool) (k : BitVec 3) (a : BitVec 5) (d : BitVec 5)
  /-- VSFU_SIN (R141): Computes sin(2πx) of each element. -/
  | vsfuSin (c : Bool) (k : BitVec 3) (a : BitVec 5) (d : BitVec 5)
  /-- VSFU_COS (R141): Computes cos(2πx) of each element. -/
  | vsfuCos (c : Bool) (k : BitVec 3) (a : BitVec 5) (d : BitVec 5)
  /-- VCMP_EQ_VV (R143): Writes a mask of equal elements. -/
  | vcmpEqVV (c : Bool) (k : BitVec 3) (b : BitVec 5) (a : BitVec 5) (d : BitVec 5)
  /-- VCMP_NE_VV (R143): Writes a mask of unequal elements. -/
  | vcmpNeVV (c : Bool) (k : BitVec 3) (b : BitVec 5) (a : BitVec 5) (d : BitVec 5)
  /-- VCMP_LT_VV (R143): Writes a mask of less-than elements. -/
  | vcmpLtVV (c : Bool) (k : BitVec 3) (b : BitVec 5) (a : BitVec 5) (d : BitVec 5)
  /-- VCMP_LE_VV (R143): Writes a mask of less-or-equal elements. -/
  | vcmpLeVV (c : Bool) (k : BitVec 3) (b : BitVec 5) (a : BitVec 5) (d : BitVec 5)
  /-- VCMP_GT_VV (R143): Writes a mask of greater-than elements. -/
  | vcmpGtVV (c : Bool) (k : BitVec 3) (b : BitVec 5) (a : BitVec 5) (d : BitVec 5)
  /-- VCMP_GE_VV (R143): Writes a mask of greater-or-equal elements. -/
  | vcmpGeVV (c : Bool) (k : BitVec 3) (b : BitVec 5) (a : BitVec 5) (d : BitVec 5)
  /-- VCMP_ORD_VV (R143): Writes a mask of ordered element pairs. -/
  | vcmpOrdVV (c : Bool) (k : BitVec 3) (b : BitVec 5) (a : BitVec 5) (d : BitVec 5)
  /-- VCMP_UNORD_VV (R143): Writes a mask of unordered element pairs. -/
  | vcmpUnordVV (c : Bool) (k : BitVec 3) (b : BitVec 5) (a : BitVec 5) (d : BitVec 5)
  /-- VCMP_EQ_VS (R143): Writes a mask of elements equal to a scalar. -/
  | vcmpEqVS (c : Bool) (k : BitVec 3) (b : BitVec 5) (a : BitVec 5) (d : BitVec 5)
  /-- VCMP_NE_VS (R143): Writes a mask of elements unequal to a scalar. -/
  | vcmpNeVS (c : Bool) (k : BitVec 3) (b : BitVec 5) (a : BitVec 5) (d : BitVec 5)
  /-- VCMP_LT_VS (R143): Writes a mask of elements less than a scalar. -/
  | vcmpLtVS (c : Bool) (k : BitVec 3) (b : BitVec 5) (a : BitVec 5) (d : BitVec 5)
  /-- VCMP_LE_VS (R143): Writes a mask of elements at most a scalar. -/
  | vcmpLeVS (c : Bool) (k : BitVec 3) (b : BitVec 5) (a : BitVec 5) (d : BitVec 5)
  /-- VCMP_GT_VS (R143): Writes a mask of elements greater than a scalar. -/
  | vcmpGtVS (c : Bool) (k : BitVec 3) (b : BitVec 5) (a : BitVec 5) (d : BitVec 5)
  /-- VCMP_GE_VS (R143): Writes a mask of elements at least a scalar. -/
  | vcmpGeVS (c : Bool) (k : BitVec 3) (b : BitVec 5) (a : BitVec 5) (d : BitVec 5)
  /-- VCMP_ORD_VS (R143): Writes a mask of elements ordered with a scalar. -/
  | vcmpOrdVS (c : Bool) (k : BitVec 3) (b : BitVec 5) (a : BitVec 5) (d : BitVec 5)
  /-- VCMP_UNORD_VS (R143): Writes a mask of elements unordered with a scalar. -/
  | vcmpUnordVS (c : Bool) (k : BitVec 3) (b : BitVec 5) (a : BitVec 5) (d : BitVec 5)
  /-- KAND (R144): Bitwise AND of two masks. -/
  | kand (c : Bool) (b : BitVec 5) (a : BitVec 5) (d : BitVec 5)
  /-- KOR (R144): Bitwise OR of two masks. -/
  | kor (c : Bool) (b : BitVec 5) (a : BitVec 5) (d : BitVec 5)
  /-- KXOR (R144): Bitwise XOR of two masks. -/
  | kxor (c : Bool) (b : BitVec 5) (a : BitVec 5) (d : BitVec 5)
  /-- KANDN (R144): ka AND NOT kb. -/
  | kandn (c : Bool) (b : BitVec 5) (a : BitVec 5) (d : BitVec 5)
  /-- KNOT (R144): Inverts a mask over [0, VL). -/
  | knot (c : Bool) (a : BitVec 5) (d : BitVec 5)
  /-- KSHL (R144): Shifts a mask up by one position. -/
  | kshl (c : Bool) (a : BitVec 5) (d : BitVec 5)
  /-- KSHR (R144): Shifts a mask down by one position. -/
  | kshr (c : Bool) (a : BitVec 5) (d : BitVec 5)
  /-- KPOPC (R144): Writes the count of ones of a mask to a scalar. -/
  | kpopc (c : Bool) (a : BitVec 5) (d : BitVec 5)
  /-- KFIRST (R144): Writes the lowest set position of a mask, or all ones, to a scalar. -/
  | kfirst (c : Bool) (a : BitVec 5) (d : BitVec 5)
  /-- KMOVS (R144): Writes the low bits of a scalar into a mask. -/
  | kmovs (c : Bool) (a : BitVec 5) (d : BitVec 5)
  /-- VZIP (R147): Interleaves an even/odd pair into element order. -/
  | vzip (c : Bool) (a : BitVec 5) (d : BitVec 5)
  /-- VUNZIP (R147): Splits element order into an even/odd pair. -/
  | vunzip (c : Bool) (a : BitVec 5) (d : BitVec 5)
  /-- VPACK2 (R150): Narrows two FP32 registers into one BF16 or FP16 register. -/
  | vpack2 (c : Bool) (y : Bool) (m : BitVec 3) (t : BitVec 5) (a : BitVec 5) (d : BitVec 5)
  /-- VPACK4 (R150): Narrows four FP32 registers into one FP8 or FP4 register. -/
  | vpack4 (c : Bool) (y : Bool) (m : BitVec 3) (t : BitVec 5) (a : BitVec 5) (d : BitVec 5)
  /-- VGATHER (R154): Gathers elements of va or the pair va, va+1 by index. -/
  | vgather (c : Bool) (k : BitVec 3) (b : BitVec 5) (a : BitVec 5) (d : BitVec 5)
  /-- VCOMPRESS (R155): Packs the active elements of each slice to its front. -/
  | vcompress (c : Bool) (k : BitVec 3) (a : BitVec 5) (d : BitVec 5)
  /-- VEXPAND (R155): Spreads leading elements to the active positions of each slice. -/
  | vexpand (c : Bool) (k : BitVec 3) (a : BitVec 5) (d : BitVec 5)
  /-- VMV (R151): Copies va into vd, keeping a sorted run when unmasked from 0. -/
  | vmv (c : Bool) (k : BitVec 3) (a : BitVec 5) (d : BitVec 5)
  /-- VIOTA (R151): Writes each element's count of earlier set mask bits in its slice. -/
  | viota (c : Bool) (k : BitVec 3) (d : BitVec 5)
  /-- VIDX (R151): Writes each element's global index. -/
  | vidx (c : Bool) (k : BitVec 3) (d : BitVec 5)
  /-- VSLIDEUP (R153): Slides each slice's elements up by an offset. -/
  | vslideup (c : Bool) (k : BitVec 3) (b : BitVec 5) (a : BitVec 5) (d : BitVec 5)
  /-- VSLIDEDN (R153): Slides each slice's elements down by an offset. -/
  | vslidedn (c : Bool) (k : BitVec 3) (b : BitVec 5) (a : BitVec 5) (d : BitVec 5)
  /-- VSLIDE1 (R153): Slides up by one and inserts a scalar at element 0 of each slice. -/
  | vslide1 (c : Bool) (k : BitVec 3) (b : BitVec 5) (a : BitVec 5) (d : BitVec 5)
  /-- VBCAST (R151): Writes a scalar into every active element. -/
  | vbcast (c : Bool) (k : BitVec 3) (b : BitVec 5) (d : BitVec 5)
  /-- VEXT (R152): Moves one element, chosen by a scalar index, into a scalar. -/
  | vext (c : Bool) (b : BitVec 5) (a : BitVec 5) (d : BitVec 5)
  /-- VINS (R152): Writes a scalar into one element chosen by a scalar index. -/
  | vins (c : Bool) (b : BitVec 5) (a : BitVec 5) (d : BitVec 5)
  /-- VXCHG (R156): Exchanges whole slices between spanned cores. -/
  | vxchg (b : BitVec 5) (a : BitVec 5) (d : BitVec 5)
  /-- VRSUM_O (R157): Ordered sum of active elements into a scalar. -/
  | vrsumO (c : Bool) (k : BitVec 3) (a : BitVec 5) (d : BitVec 5)
  /-- VRSUM_T (R158): Tree sum of active elements into a scalar. -/
  | vrsumT (c : Bool) (k : BitVec 3) (a : BitVec 5) (d : BitVec 5)
  /-- VRMAX (R157): Maximum of active elements into a scalar. -/
  | vrmax (c : Bool) (k : BitVec 3) (a : BitVec 5) (d : BitVec 5)
  /-- VRMIN (R157): Minimum of active elements into a scalar. -/
  | vrmin (c : Bool) (k : BitVec 3) (a : BitVec 5) (d : BitVec 5)
  /-- VRLOG (R159): Log-sum-exp of active elements into a scalar. -/
  | vrlog (c : Bool) (k : BitVec 3) (a : BitVec 5) (d : BitVec 5)
  /-- VMAXIDX (R157): Least index of the greatest active element under the key order. -/
  | vmaxidx (c : Bool) (k : BitVec 3) (a : BitVec 5) (d : BitVec 5)
  /-- VSOFT (R160): Performs one online-softmax step, updating s4k to s4k+2. -/
  | vsoft (c : Bool) (k : BitVec 3) (b : BitVec 5) (a : BitVec 5) (d : BitVec 5)
  /-- VRAND (R161): Fills active elements with ChaCha20 keystream bits and advances the counter. -/
  | vrand (c : Bool) (k : BitVec 3) (d : BitVec 5)
  /-- VROPE (R162): Rotates FP32 pairs by position times frequency in turns. -/
  | vrope (c : Bool) (k : BitVec 3) (b : BitVec 5) (a : BitVec 5) (d : BitVec 5)
  /-- VSORT (R169): Sorts va stably into vd, with payload in the .P form, and marks it sorted. -/
  | vsort (c : Bool) (x : Bool) (p : Bool) (a : BitVec 5) (d : BitVec 5)
  /-- VCHKS (R170): Writes the length of the longest in-order prefix to a scalar. -/
  | vchks (c : Bool) (x : Bool) (a : BitVec 5) (d : BitVec 5)
  /-- VLDS (R171): Loads a run, verifies its order and sets the sorted tag when it holds. -/
  | vlds (c : Bool) (q : BitVec 3) (y : Bool) (x : Bool) (p : Bool) (s : BitVec 5) (a : BitVec 5) (d : BitVec 5)
  /-- VMERGE_LO (R172): Writes the first n elements of the merge of two runs. -/
  | vmergeLo (c : Bool) (b : BitVec 5) (a : BitVec 5) (d : BitVec 5)
  /-- VMERGE_HI (R172): Writes the elements from n upward of the merge of two runs. -/
  | vmergeHi (c : Bool) (b : BitVec 5) (a : BitVec 5) (d : BitVec 5)
  /-- VMERGEC (R172): Low merge that also writes the count taken from va to a scalar. -/
  | vmergec (c : Bool) (s : BitVec 5) (b : BitVec 5) (a : BitVec 5) (d : BitVec 5)
  /-- VINTER (R173): Intersects two sorted runs. -/
  | vinter (c : Bool) (b : BitVec 5) (a : BitVec 5) (d : BitVec 5)
  /-- VUNIQ (R173): Keeps the first element of each group of equal keys. -/
  | vuniq (c : Bool) (a : BitVec 5) (d : BitVec 5)
  /-- VSREV (R173): Reverses a sorted run and flips its direction. -/
  | vsrev (c : Bool) (a : BitVec 5) (d : BitVec 5)
  /-- VCMX (R175): Compare-exchanges (value, index) pairs so the first pair holds the better. -/
  | vcmx (c : Bool) (k : BitVec 3) (a : BitVec 5) (d : BitVec 5)
  /-- VRANK_LB (R174): Counts run elements ahead of each probe. -/
  | vrankLb (c : Bool) (b : BitVec 5) (a : BitVec 5) (d : BitVec 5)
  /-- VRANK_UB (R174): Counts run elements ahead of or equal to each probe. -/
  | vrankUb (c : Bool) (b : BitVec 5) (a : BitVec 5) (d : BitVec 5)
  /-- VPART (R174): Counts run elements at most each probe in the key order. -/
  | vpart (c : Bool) (b : BitVec 5) (a : BitVec 5) (d : BitVec 5)
  /-- ZRCFG (R179): Configures every list of a ranked tile from a configuration word. -/
  | zrcfg (q : BitVec 3) (b : BitVec 5) (a : BitVec 5) (z : BitVec 3)
  /-- ZRPUSH (R180): Pushes key/index pairs into the list named by ZLIST. -/
  | zrpush (c : Bool) (k : BitVec 3) (a : BitVec 5) (z : BitVec 3)
  /-- ZRPUSH_L (R180): Pushes each key/index pair into the list named by vb. -/
  | zrpushL (c : Bool) (k : BitVec 3) (b : BitVec 5) (a : BitVec 5) (z : BitVec 3)
  /-- ZRMERGE (R185): Merges a stored list from memory into a tile list. -/
  | zrmerge (q : BitVec 3) (a : BitVec 5) (z : BitVec 3)
  /-- ZRST (R184): Stores a tile list in its stored form. -/
  | zrst (q : BitVec 3) (a : BitVec 5) (z : BitVec 3)
  /-- ZRREAD (R186): Reads a list out to a key/index pair and a mask. -/
  | zrread (k : BitVec 5) (a : BitVec 5) (z : BitVec 3)
  /-- ZRHDR (R187): Writes a list's header and sums to four scalars. -/
  | zrhdr (a : BitVec 5) (z : BitVec 3)
  /-- ZRTH (R188): Writes a list's local threshold key to a scalar. -/
  | zrth (a : BitVec 5) (z : BitVec 3)
  /-- VROUTE (R189): Assigns token slots to experts against capacity counters by atomics. -/
  | vroute (k : BitVec 3) (b : BitVec 5) (a : BitVec 5) (d : BitVec 5)
  /-- ZOP (R198): Adds the outer product of two operands into a tile. -/
  | zop (c : Bool) (k : BitVec 3) (b : BitVec 5) (a : BitVec 5) (z : BitVec 3)
  /-- ZOPS (R199): Outer product with block scales applied before one rounding. -/
  | zops (c : Bool) (k : BitVec 3) (b : BitVec 5) (a : BitVec 5) (z : BitVec 3)
  /-- ZPOP (R202): Adds integer dot products of plane operands into an INT tile. -/
  | zpop (c : Bool) (k : BitVec 3) (b : BitVec 5) (a : BitVec 5) (z : BitVec 3)
  /-- ZMOVV (R204): Moves raw tile elements of a row or column to a vector pair. -/
  | zmovv (c : Bool) (k : BitVec 3) (d : BitVec 5) (a : BitVec 5) (m : BitVec 2) (z : BitVec 3)
  /-- ZMOVZ (R204): Moves raw elements from a vector pair into a tile row or column. -/
  | zmovz (c : Bool) (k : BitVec 3) (d : BitVec 5) (a : BitVec 5) (m : BitVec 2) (z : BitVec 3)
  /-- ZCVT (R205): Converts a tile row or column into vd's type. -/
  | zcvt (c : Bool) (k : BitVec 3) (d : BitVec 5) (a : BitVec 5) (m : BitVec 2) (z : BitVec 3)
  /-- ZCVT_SC (R205): Converts a tile row or column with a scalar scale. -/
  | zcvtSc (c : Bool) (k : BitVec 3) (d : BitVec 5) (a : BitVec 5) (m : BitVec 2) (z : BitVec 3)
  /-- ZROWSTAT (R206): Writes max, sum and sum of squares of tile lines into three FP32 registers. -/
  | zrowstat (c : Bool) (k : BitVec 3) (d : BitVec 5) (a : BitVec 5) (m : BitVec 2) (z : BitVec 3)
  /-- ZCLR (R195): Clears a tile and sets it numeric or ranked. -/
  | zclr (m : Bool) (z : BitVec 3)
  /-- ZWAIT (R196): Waits until no matrix-queue operation owns the tile and writes its status. -/
  | zwait (a : BitVec 5) (z : BitVec 3)
  /-- ZLD (R207): Loads a block of a tensor through a handle into a tile. -/
  | zld (b : BitVec 5) (h : BitVec 4) (t : Bool) (z : BitVec 3)
  /-- ZST (R207): Stores a block of a tile into a tensor through a handle. -/
  | zst (b : BitVec 5) (h : BitVec 4) (t : Bool) (z : BitVec 3)
  /-- PCVT (R201): Converts INT8, INT16 or FP32 elements into a plane type. -/
  | pcvt (c : Bool) (y : Bool) (x : Bool) (p : BitVec 4) (k : BitVec 3) (b : BitVec 5) (a : BitVec 5) (d : BitVec 5)
  /-- GTSCFG (R209): Reads group records and replaces the gang's tile scheduler state. -/
  | gtscfg (q : BitVec 3) (b : BitVec 5) (a : BitVec 5)
  /-- GTSNEXT (R211): Takes the gang's next tile item and writes it to four scalars. -/
  | gtsnext (a : BitVec 5)
  /-- VPROBE (R214): Translates and pins a range into a probe token, entering SWAPPED on a fault. -/
  | vprobe (b : BitVec 5) (a : BitVec 5) (q : BitVec 3)
  /-- VPROBE_FF (R214): Probes a range, trimming it at the first unmapped page. -/
  | vprobeFf (b : BitVec 5) (a : BitVec 5) (q : BitVec 3)
  /-- VUNPIN (R215): Releases a token's pins and makes it dead. -/
  | vunpin (q : BitVec 3)
  /-- VLD (R218): Loads unit-stride or strided elements through a token. -/
  | vld (c : Bool) (q : BitVec 3) (k : BitVec 3) (b : BitVec 5) (a : BitVec 5) (d : BitVec 5)
  /-- VST (R218): Stores unit-stride or strided elements through a token. -/
  | vst (c : Bool) (q : BitVec 3) (k : BitVec 3) (b : BitVec 5) (a : BitVec 5) (d : BitVec 5)
  /-- VLDX (R219): Loads elements at byte offsets given by vb. -/
  | vldx (c : Bool) (q : BitVec 3) (k : BitVec 3) (b : BitVec 5) (a : BitVec 5) (d : BitVec 5)
  /-- VSTX (R219): Stores elements at byte offsets given by vb. -/
  | vstx (c : Bool) (q : BitVec 3) (k : BitVec 3) (b : BitVec 5) (a : BitVec 5) (d : BitVec 5)
  /-- VAMO_ADD (R220): Per-element atomic add at indexed addresses, returning old values. -/
  | vamoAdd (c : Bool) (q : BitVec 3) (k : BitVec 3) (b : BitVec 5) (a : BitVec 5) (d : BitVec 5)
  /-- VAMO_AND (R220): Per-element atomic AND. -/
  | vamoAnd (c : Bool) (q : BitVec 3) (k : BitVec 3) (b : BitVec 5) (a : BitVec 5) (d : BitVec 5)
  /-- VAMO_OR (R220): Per-element atomic OR. -/
  | vamoOr (c : Bool) (q : BitVec 3) (k : BitVec 3) (b : BitVec 5) (a : BitVec 5) (d : BitVec 5)
  /-- VAMO_XOR (R220): Per-element atomic XOR. -/
  | vamoXor (c : Bool) (q : BitVec 3) (k : BitVec 3) (b : BitVec 5) (a : BitVec 5) (d : BitVec 5)
  /-- VAMO_MIN (R220): Per-element atomic signed minimum. -/
  | vamoMin (c : Bool) (q : BitVec 3) (k : BitVec 3) (b : BitVec 5) (a : BitVec 5) (d : BitVec 5)
  /-- VAMO_MAX (R220): Per-element atomic signed maximum. -/
  | vamoMax (c : Bool) (q : BitVec 3) (k : BitVec 3) (b : BitVec 5) (a : BitVec 5) (d : BitVec 5)
  /-- VAMO_MINU (R220): Per-element atomic unsigned minimum. -/
  | vamoMinu (c : Bool) (q : BitVec 3) (k : BitVec 3) (b : BitVec 5) (a : BitVec 5) (d : BitVec 5)
  /-- VAMO_MAXU (R220): Per-element atomic unsigned maximum. -/
  | vamoMaxu (c : Bool) (q : BitVec 3) (k : BitVec 3) (b : BitVec 5) (a : BitVec 5) (d : BitVec 5)
  /-- LMLD (R221): Loads elements from the lane memories at per-element offsets. -/
  | lmld (c : Bool) (k : BitVec 3) (b : BitVec 5) (a : BitVec 5) (d : BitVec 5)
  /-- LMST (R221): Stores elements to the lane memories at per-element offsets. -/
  | lmst (c : Bool) (k : BitVec 3) (b : BitVec 5) (a : BitVec 5) (d : BitVec 5)
  /-- THSET (R224): Reads a 64-byte handle record and makes the handle valid. -/
  | thset (q : BitVec 3) (a : BitVec 5) (h : BitVec 4)
  /-- THGET (R224): Stores a handle's current state as a record. -/
  | thget (q : BitVec 3) (a : BitVec 5) (h : BitVec 4)
  /-- TLD (R225): Loads elements along the innermost dimension through a handle, with an in-range mask. -/
  | tld (c : Bool) (k : BitVec 3) (b : BitVec 5) (h : BitVec 4) (d : BitVec 5)
  /-- TST (R225): Stores elements along the innermost dimension through a handle. -/
  | tst (c : Bool) (k : BitVec 3) (b : BitVec 5) (h : BitVec 4) (d : BitVec 5)
  /-- TRELAYOUT (R226): Gives a handle a new base and layout and starts the Landing engine on the relayout. -/
  | trelayout (q : BitVec 3) (b : BitVec 5) (a : BitVec 5) (h : BitVec 4)
  /-- TWAIT (R228): Waits until every unit is NEW, then ends the handle's relayout. -/
  | twait (h : BitVec 4)
  /-- SCFG (R230): Configures or unconfigures a stream. -/
  | scfg (q : BitVec 3) (b : BitVec 5) (a : BitVec 5) (f : BitVec 3)
  /-- SRD (R231): Reads the next strip of a read stream into vd. -/
  | srd (c : Bool) (f : BitVec 3) (d : BitVec 5)
  /-- SWR (R231): Writes a strip of vs into a write stream's buffer. -/
  | swr (c : Bool) (f : BitVec 3) (d : BitVec 5)
  /-- SAVAIL (R231): Writes a stream's counter or position to a scalar. -/
  | savail (s : BitVec 5) (f : BitVec 3) (d : BitVec 5)
  /-- CPY (R232): Copies sb bytes between token windows in 64-byte blocks as an engine transfer. -/
  | cpy (q : BitVec 3) (r : BitVec 3) (b : BitVec 5) (a : BitVec 5) (d : BitVec 5)
  /-- VXLATE (R234): Translates positions to slot addresses through a block table. -/
  | vxlate (q : BitVec 3) (x : Bool) (k : BitVec 3) (b : BitVec 5) (a : BitVec 5) (d : BitVec 5)
  /-- PFXLOOK (R236): Follows a prefix tree along tokens and returns matched page ids. -/
  | pfxlook (q : BitVec 3) (b : BitVec 5) (a : BitVec 5) (d : BitVec 5)
  /-- PFXINS (R236): Inserts full pages of tokens into a prefix tree. -/
  | pfxins (q : BitVec 3) (b : BitVec 5) (a : BitVec 5) (d : BitVec 5)
  /-- PFXDET (R236): Detaches pages along a path by decrementing their counts. -/
  | pfxdet (q : BitVec 3) (b : BitVec 5) (a : BitVec 5) (d : BitVec 5)
  /-- PFXEVICT (R236): Removes unreferenced leaf nodes from a prefix tree. -/
  | pfxevict (q : BitVec 3) (b : BitVec 5) (a : BitVec 5) (d : BitVec 5)
  /-- PBAY (R237): Opens or closes a parcel bay in the home core's scratchpad. -/
  | pbay (q : BitVec 3) (b : BitVec 5) (a : BitVec 5)
  /-- PSEND (R238): Checks and sends parcels to bays. -/
  | psend (q : BitVec 3) (k : BitVec 3) (b : BitVec 5) (a : BitVec 5) (d : BitVec 5)
  /-- WAITW_WAKE (R122): A write to the watched line makes the hart re-evaluate and wake when its condition holds. -/
  | waitwWake (g m : Nat)
  /-- GBAR_WAKE (R312): Members waiting at GBAR become READY after a phase completes. -/
  | gbarWake (g m : Nat)
  /-- PAUSE_EXPIRY (R121): The 32-clk hold of PAUSE ends and the hart is eligible again. -/
  | pauseExpiry (g m : Nat)
  /-- WATCHDOG_EXPIRY (R317): The watchdog count reaches WDLIMIT and the hart traps or the gang is suspended. -/
  | watchdogExpiry (g m : Nat)
  /-- DEPENDENCE_EVALUATION (R302): A write to the dependence word's line makes the device re-read it and release the entry when the condition holds. -/
  | dependenceEvaluation (g : Nat)
  /-- DEPENDENCE_RETRY (R302): An unreadable dependence word is read again every 1 ms. -/
  | dependenceRetry (g : Nat)
  /-- DEPENDENCE_POLL (R302): A dependence word in another module is read again at least every 10 µs. -/
  | dependencePoll (g : Nat)
  /-- GANG_PLACEMENT (R306): A placement engine places all members of an eligible gang at one instant. -/
  | gangPlacement (g : Nat) (places : List Place)
  /-- KEY_READ_RETRY (R397): A placement blocked by an unreadable replayed key is retried after 1 ms. -/
  | keyReadRetry (g : Nat) (places : List Place)
  /-- ENTRY_RESERVING (R303): An entry first unplaced in its level for 1 ms becomes reserving. -/
  | entryReserving (g : Nat)
  /-- UNPLACEABLE_REPORT (R303): An entry unplaceable for 1 s is reported with kind 0x03. -/
  | unplaceableReport (g : Nat)
  /-- PREEMPTION_GRACE_EXPIRY (R313): After 10 µs an unplaceable gang's victims are judged and pre-emption may begin. -/
  | preemptionGraceExpiry (g : Nat) (victims : List Nat)
  /-- GANG_PREEMPTION (R315): Stops all members of a gang, drains queues and saves their contexts. -/
  | gangPreemption (g : Nat)
  /-- CONTEXT_SAVE_DONE (R332): Every saved member's DONE is set, the gang becomes PREEMPTED and its slots are freed. -/
  | contextSaveDone (g : Nat)
  /-- GANG_RESTORE (R333): A restore entry is placed and each member's context is read back from its frame. -/
  | gangRestore (g : Nat) (places : List Place)
  /-- NOTIFICATION_DELIVERY (R325): A held notification is written to the ring once room appears, and NTAIL is released. -/
  | notificationDelivery (isle : Nat)
  /-- PROBE_FAULT_REPLY (R326): A REPLY write resumes the SWAPPED hart or traps it PROBE_FAULT. -/
  | probeFaultReply (g m : Nat)
  /-- PREQ_PREEMPT (R327): A PREQ write with action 1 pre-empts the named gang. -/
  | preqPreempt (isle : Nat)
  /-- PREQ_END (R327): A PREQ write with action 2 ends the named gang. -/
  | preqEnd (isle : Nat)
  /-- PREQ_RESERVED (R327): A PREQ write with action 3 does nothing and reports PSTAT 2. -/
  | preqReserved (isle : Nat)
  /-- MREQ_REHASH (R263): A write to MREQ with KIND 0 posts a rehash of a region. -/
  | mreqRehash (isle region version : Nat)
  /-- MREQ_MOVE_HBM (R263): A write to MREQ with KIND 1 posts a move of a region to HBM4E. -/
  | mreqMoveHbm (isle region : Nat)
  /-- MREQ_MOVE_LPDDR (R263): A write to MREQ with KIND 2 posts a move of a region to LPDDR-6. -/
  | mreqMoveLpddr (isle region : Nat)
  /-- ROW_MISS_REHASH (R263): A region's row-miss count reaching RHTHR posts a rehash. -/
  | rowMissRehash (region : Nat)
  /-- MIGRATION_START (R264): The engine starts a pending request when the region is IDLE with no pins. -/
  | migrationStart (region : Nat)
  /-- MIGRATION_CHUNK (R265): The engine copies one 32 KiB chunk and flips it to NEW. -/
  | migrationChunk (region chunk : Nat)
  /-- ICMD_INVALIDATE (R257): A write to ICMD starts dropping cached translations of a range. -/
  | icmdInvalidate (isle : Nat) (value : BitVec 64)
  /-- INVALIDATION_DONE (R257): The invalidation finishes, PINNED is set and DONE is set. -/
  | invalidationDone (isle : Nat)
  /-- RELAYOUT_UNIT (R227): The Landing engine converts one unit of a relayout and flips it to NEW. -/
  | relayoutUnit (relayout : Nat)
  /-- STREAM_FETCH (R230): A read stream fetches further elements as buffer space frees. -/
  | streamFetch (g m f n : Nat)
  /-- STREAM_WRITE_DRAIN (R231): The engine performs a write stream's buffered stores in element order. -/
  | streamWriteDrain (g m f n : Nat)
  /-- ENGINE_TRANSFER_COMPLETE (R297): An engine transfer is performed and its interlock entry is released. -/
  | engineTransferComplete (g m : Nat)
  /-- PSEND_COMPLETE (R238): Every parcel is acknowledged or dropped and the counts are written to sd. -/
  | psendComplete (g m : Nat)
  /-- L1D_EVICTION (R248): A dirty L1D line is evicted and written back. -/
  | l1dEviction (core line : Nat)
  /-- REMOTE_LINE_EXPIRY (R295): A remote-line buffer line is dropped 10 µs after its fill. -/
  | remoteLineExpiry (isle line : Nat)
  /-- SCRUB (R364): The scrubber reads and corrects storage, counting events. `group`: the event of a line is counted at its
  TSV group (R266). -/
  | scrub (place : StoragePlace) (group : Bool) (errors : List (Nat × BitVec 8))
  /-- REPAIR (R365): A lasting location is repaired by the first applicable action, retiring a core if needed. -/
  | repair (location : BitVec 64)
  /-- REPAIR_APPROVAL (R359): In host-assisted mode a REPLY 1 to kind 0x07 lets a repair start. -/
  | repairApproval (location : BitVec 64)
  /-- REPAIR_COMPLETE (R365): A repair finishes and kind 0x08 is posted. -/
  | repairComplete (location : BitVec 64)
  /-- POWER_MEASUREMENT (R371): Every 1 ms power is measured and POWER.LEVEL is raised or lowered. -/
  | powerMeasurement (watts : Nat)
  /-- THERMAL_HOLD (R372): A die at 95 °C holds POWER.LEVEL at 3 until every die is below 90 °C. -/
  | thermalHold (degrees : Nat)
  /-- POWER_TRIP (R358): An over-temperature or over-power trip removes power and returns the module to stage 0. -/
  | powerTrip
  /-- POWER_GOOD (R355): Power-good puts the module in stage 0. -/
  | powerGood
  /-- BOOTGO (R357): Writing BOOTGO verifies the service image and enters stage 1 or sets STAGE.FAIL. -/
  | bootgo
  /-- MEMORY_TRAINING (R358): Memory training finishes and stage 2 is entered, or STAGE.FAIL is set to 4. -/
  | memoryTraining (failed : Bool) (versions : List HashVersion) (image : Nat) (starts : List HartStart)
  /-- SERVICE_READY (R355): Service firmware reports ready and the module enters stage 3. -/
  | serviceReady
  /-- DRAIN_REQUEST (R367): Writing DRAIN.REQ = 1 pre-empts every non-exempt gang and holds placements. -/
  | drainRequest
  /-- DRAIN_RELEASE (R367): Writing DRAIN.REQ = 0 releases placements. -/
  | drainRelease
  /-- SEED_WRITE (R361): A write to a SEED word clears SEEDV. -/
  | seedWrite (i : Nat) (value : BitVec 64)
  /-- CONTROL_REGISTER_WRITE (R354): A write to a control-page register without behaviour of its own, discarded whole if out of range. -/
  | controlRegisterWrite (offset : Nat) (value : BitVec 64)
  /-- GET_VERSION (R369): An SPDM GET_VERSION request written through SPDMCTL is answered. -/
  | getVersion
  /-- GET_CAPABILITIES (R369): An SPDM GET_CAPABILITIES request is answered. -/
  | getCapabilities
  /-- NEGOTIATE_ALGORITHMS (R369): An SPDM NEGOTIATE_ALGORITHMS request is answered. -/
  | negotiateAlgorithms
  /-- GET_DIGESTS (R369): An SPDM GET_DIGESTS request is answered. -/
  | getDigests
  /-- GET_CERTIFICATE (R368): An SPDM GET_CERTIFICATE request returns the identity certificate chain. -/
  | getCertificate
  /-- CHALLENGE (R369): An SPDM CHALLENGE request is answered with a signature. -/
  | challenge
  /-- GET_MEASUREMENTS (R370): An SPDM GET_MEASUREMENTS request returns the signed image digests. -/
  | getMeasurements
  /-- READ (R343): A fabric read request returns data flits with poison bits. -/
  | read (msg : Message)
  /-- WRITE (R343): A fabric write request writes bytes and replies once they are at their storage. -/
  | write (msg : Message)
  /-- ATOMIC (R343): A fabric atomic request performs an atomic on a word and returns the old value. -/
  | atomic (msg : Message)
  /-- PFXLOOK_MESSAGE (R350): A host atomic with OP 16 performs PFXLOOK at the Atoll. -/
  | pfxlookMessage (msg : Message)
  /-- PFXINS_MESSAGE (R350): A host atomic with OP 17 performs PFXINS at the Atoll. -/
  | pfxinsMessage (msg : Message)
  /-- PFXDET_MESSAGE (R350): A host atomic with OP 18 performs PFXDET at the Atoll. -/
  | pfxdetMessage (msg : Message)
  /-- PFXEVICT_MESSAGE (R350): A host atomic with OP 19 performs PFXEVICT at the Atoll. -/
  | pfxevictMessage (msg : Message)
  /-- ATOMIC_WAIT (R348): A fabric atomic-wait request starts watching a word. -/
  | atomicWait (msg : Message)
  /-- ATOMIC_WAIT_REPLY (R348): The watched word meets the condition and the module replies. -/
  | atomicWaitReply (index : Nat)
  /-- ATOMIC_WAIT_TIMEOUT (R348): An atomic-wait reaches its timeout and replies BUSY. -/
  | atomicWaitTimeout (index : Nat)
  /-- SPAWN_MESSAGE (R347): A fabric spawn message validates and posts a spawn record. -/
  | spawnMessage (msg : Message)
  /-- PARCEL (R237): An arriving parcel is written into its bay or counted as dropped. -/
  | parcel (msg : Message)
  /-- REPLY (R343): A fabric reply completes the device's outstanding request. -/
  | reply (msg : Message)
  /-- REQUEST_TIMEOUT (R345): A request without reply for 100 ms completes with TIMEOUT and poisoned data. -/
  | requestTimeout (tag : Nat)
  /-- RDMA_WRITE (R353): An incoming RDMA WRITE from a valid connection's peer is performed in the open range. -/
  | rdmaWrite (conn addr : Nat) (data : List (BitVec 8))
  /-- RDMA_READ (R353): An incoming RDMA READ from a peer is served from the open range. -/
  | rdmaRead (conn addr len : Nat)
  /-- SEND (R352): An incoming SEND delivers a parcel into its bay. -/
  | send (conn : Nat) (data : List (BitVec 64))
  /-- ATOMIC_FETCH_ADD (R353): An incoming ATOMIC FETCH_ADD is performed at the storage. -/
  | atomicFetchAdd (conn addr : Nat) (value : BitVec 64)
  /-- ATOMIC_COMPARE_SWAP (R353): An incoming ATOMIC COMPARE_SWAP is performed at the storage. -/
  | atomicCompareSwap (conn addr : Nat) (compare value : BitVec 64)
  /-- RDMA_COMPLETION (R352): A RoCE completion commits a CPY block sent over Ethernet. -/
  | rdmaCompletion (tag : Nat) (data : List (BitVec 64))
  /-- CONNECTION_ERROR (R352): A connection whose retries are exhausted clears VALID and times out its blocks. -/
  | connectionError (conn : Nat)
  /-- PEER_LOST (R362): A peer node or connection is lost and kind 0x0E is posted. -/
  | peerLost (node : Nat)
  /-- ILLEGAL_INSN (R85): A fetched word that encodes no instruction traps ILLEGAL_INSN with the word in TVAL. -/
  | illegalInsn (tval : BitVec 64)
  /-- INSTRUCTION_FETCH_FAULT (R113): When the instruction at a new pc cannot be fetched, the hart traps ADDR_RANGE, or POISON for a poisoned word, with TPC and TVAL holding the address. -/
  | instructionFetchFault
  /-- PREEMPTION_WINDOW_EXPIRY (R313): When the 10 ms since a gang's last pre-emption elapse, that gang becomes a candidate victim again for a waiting higher-priority entry. -/
  | preemptionWindowExpiry (g : Nat) (victims : List Nat)
  deriving DecidableEq, Repr

end Sys2Proof
end

