-- ==== Sys2Proof/Machine/State.lean ====
section
/-!
DEFINITION. The machine's state, all of it plain data: the hart that is under the cursor and the harts beside it, the
gangs, the memories and caches, the engines and the module (INVENTORY.md, "State"). `State.reset` is the module right
after power-good.
-/
namespace Sys2Proof.Machine

/-- The reasons a run can stop. Nothing the spec describes stops the machine: every trap is a next state. -/
inductive Fault where
  /-- Raised by no meaning: it stands for an access the spec gives no storage and no trap, of which there is none. Safe. -/
  | noStorage
  deriving DecidableEq, Repr

/-- The reasons a step is refused. -/
inductive Refusal where
  /-- Raised by an arm of `exec` whose instruction has no meaning yet. Safe: the run stops. -/
  | notModelled (mnemonic : String)
  deriving DecidableEq, Repr

/-! ### Registers of a hart (R28) -/

/-- A vector register: its 32-bit tag (R33), its bits, slice c in [65536c + 65535 : 65536c] (R20), and one poison bit per
64-bit word, word i of slice c at 1024c + i (R267). -/
structure VReg where
  tag : BitVec 32
  data : BitVec 524288
  poison : BitVec 8192
  deriving DecidableEq, Repr

/-- A mask register: bit e governs element e (R29); one poison bit per 64-bit word (R267). -/
structure MaskReg where
  bits : BitVec 131072
  poison : BitVec 2048
  deriving DecidableEq, Repr

/-- KIND of a numeric tile (R192). -/
inductive TileKind where
  | none
  | fp
  | int
  deriving DecidableEq, Repr

/-- A place in memory: storage of the package under its key, or memory of another module or of a connection
under its fabric address. -/
inductive Site where
  | key (k : Nat)
  | remote (pa : Nat)
  deriving DecidableEq, Repr

/-- The ranked configuration of a tile: the word of R179 and the token, address and place of the shared threshold. -/
structure RankedConfig where
  /-- K, KT, MODE, SH and SSCOPE as the word of R179 holds them. -/
  word : Word
  /-- SADDR (R181). -/
  saddr : Word
  /-- The token ZRCFG named. -/
  token : BitVec 3
  /-- Where the shared word lies, as the token then translated it (R181). -/
  site : Site
  deriving DecidableEq, Repr

/-- The header of one ranked list (R177). THR is the OKEY of entry K-1 when LEN = K and is computed, not stored. -/
structure ListHeader where
  len : Nat
  sumall : BitVec 80
  ovf : Bool
  deriving DecidableEq, Repr

/-- An accumulator tile (R32, R192): 128 x 128 elements of 80 bits, element (i, j) in [80(128i+j)+79 : 80(128i+j)].
In ranked mode the elements hold the list entries, entry j of list l at element l*rows*128 + j (R176). -/
structure Tile where
  ranked : Bool
  kind : TileKind
  ovf : Bool
  elems : BitVec 1310720
  poison : BitVec 16384
  cfg : Option RankedConfig
  lists : List ListHeader
  deriving DecidableEq, Repr

/-- One pinned translation: the page at `va` of `size` bytes lies at physical address `pa` (R213). -/
structure Pin where
  va : Nat
  pa : Nat
  size : Nat
  deriving DecidableEq, Repr

/-- A probe token (R213). -/
structure Token where
  live : Bool
  w : Bool
  base : Word
  len : Word
  pins : List Pin
  deriving DecidableEq, Repr

/-- A buffered element of a stream: its value, its word's poison, and for a stored element the place SWR gave it and its
nibble there. -/
structure StreamItem where
  value : Word
  poison : Bool
  site : Option Site
  nib : Nat
  deriving DecidableEq, Repr

/-- A configured stream (R230): its declared parameters, its position, and its buffered elements, oldest first: fetched and
not yet consumed for a read stream, stored and not yet performed for a write stream. -/
structure Stream where
  base : Word
  stride : Word
  avl : Word
  ctl : Word
  token : BitVec 3
  position : Word
  buf : List StreamItem
  /-- The elements fetched (read stream) or drained (write stream) since SCFG. -/
  moved : Word
  deriving DecidableEq, Repr

/-- The control and status registers of a hart (R38), 64 bits each. CYCLE is `State.clk`. -/
structure Csrs where
  vl : Word
  vstart : Word
  vdirty : Word
  vflags : Word
  vstat : Word
  vrm : Word
  hartid : Word
  gangid : Word
  gangsize : Word
  member : Word
  span : Word
  footprint : Word
  vlmaxc : Word
  retired : Word
  budget : Word
  zlist : Word
  wdlimit : Word
  key0 : Word
  key1 : Word
  key2 : Word
  key3 : Word
  counter : Word
  nonce : Word
  rngmode : Word
  tcause : Word
  tval : Word
  tpc : Word
  tvec : Word
  tscratch : Word
  priv : Word
  deriving DecidableEq, Repr

/-- The states of a hart (R23). -/
inductive HartState where
  | ready
  | run
  | wait
  | swapped
  | preempted
  | trapped
  | exited
  deriving DecidableEq, Repr

/-- What a WAIT or SWAPPED hart waits for (R24). -/
inductive WaitFor where
  | nothing
  /-- GBAR: the completion of barrier phase `phase` (R127). -/
  | barrier (phase : Nat)
  /-- WAITW (R122): the word at `addr`, the scope code, the condition code, the value compared and the destination. -/
  | word (addr : Word) (scope : BitVec 4) (cond : BitVec 3) (value : Word) (rd : BitVec 5)
  /-- VPROBE (R326): notification `index` of the mailbox of Isle `isle`, faulting address `va`; `index` is none while the
  record is held back. -/
  | fault (isle : Nat) (index : Option Nat) (va : Word)
  /-- VPROBE whose fault at `va` was declared invalid while the hart was PREEMPTED (R27, R326). -/
  | denied (va : Word)
  deriving DecidableEq, Repr

/-- The pipes of a core (R88). -/
inductive Pipe where
  | ls
  | a
  | b
  | mp
  deriving DecidableEq, Repr

/-- The convoy in formation (R89): what its members have taken, read and written. -/
structure Convoy where
  /-- Nothing has issued since the start, a trap entry, a return or a restore: the next instruction heads a convoy. -/
  fresh : Bool
  /-- The instruction executed immediately before has a pipe: a convoy can be joined. -/
  joinable : Bool
  size : Nat
  pipes : List Pipe
  /-- Vector registers read and written, bit i for vi. -/
  vread : BitVec 32
  vwritten : BitVec 32
  kread : BitVec 8
  kwritten : BitVec 8
  sread : BitVec 32
  swritten : BitVec 32
  deriving DecidableEq, Repr

/-- Eight bytes of one transfer. -/
structure Segment where
  src : Site
  dst : Site
  deriving DecidableEq, Repr

/-- A CPY in flight (R232, R273): the words it copies, in ascending order, and the pages it pins; the replies of other
modules it still waits for (R296), and the words that have arrived for its remote sources, by address. -/
structure Transfer where
  /-- The home core of the hart when the transfer began (R278). -/
  home : Nat
  /-- CTBASE and CTCNT when it began (R341). -/
  ctbase : Word
  ctcnt : Word
  segs : List Segment
  pins : List Pin
  tags : List Nat
  arrived : List (Nat × Word × Bool)
  deriving DecidableEq, Repr

/-- An answer the hart waits for from another module (R343): the request's TAG, its TYPE, the address it names, the value an
atomic of less than 64 bits compares with (log 50), once the reply is in the word it brought and that word's poison, and whether
no good reply has come (R345). -/
structure RemoteWait where
  tag : Nat
  typ : Nat
  addr : Nat
  expect : Word
  answer : Option (Word × Bool)
  lost : Bool
  deriving DecidableEq, Repr

/-- A PSEND in flight (R238): the parcels not yet acknowledged, the counts so far, and sd. -/
structure PsendState where
  pending : List Nat
  delivered : Nat
  dropped : Nat
  rd : BitVec 5
  deriving DecidableEq, Repr

/-- An access of one agent that has issued and is not yet performed (R271, R272). -/
inductive Pending where
  /-- A store of `n` bytes at the storage of key `key`, by the instruction before which the hart had retired `instr` others. -/
  | store (key n value instr : Nat)
  /-- The write of an AMO or CAS of scope HART (R284). -/
  | atomic (key n value : Nat)
  /-- FENCE.VV: what stands before it is performed before what stands after it. -/
  | barrier
  deriving DecidableEq, Repr

/-- What the two agents of a hart have issued and not yet performed, oldest first (R271-R273, R275, log 8). While neither agent
lags, every access is performed as its instruction executes. -/
structure AgentQueues where
  lagScalar : Bool
  lagVector : Bool
  /-- The scalar store queue (R272). -/
  scalar : List Pending
  /-- Stores of the interlock table (R273). -/
  vector : List Pending
  /-- Atomics of the vector agent that the hart's own scalar loads may still precede (R277): key, bytes, old value. -/
  shadows : List (Nat × Nat × Nat)
  deriving DecidableEq, Repr

/-- Neither agent lags, and nothing waits. -/
def AgentQueues.prompt : AgentQueues := ⟨false, false, [], [], []⟩

/-- An element-wise instruction that stands between two elements (R131, R321): the element it started from, and the tags its
destinations take when it stops or completes. -/
structure Progress where
  start : Nat
  tags : List (Nat × BitVec 32)
  deriving DecidableEq, Repr

/-- A hart: the context of R28 and R330 and what its issue and its engines hold. -/
structure Hart where
  pc : Word
  s : Vector Word 32
  /-- Poison of the scalar registers, bit i for si (R328). -/
  sPoison : BitVec 32
  v : Vector VReg 32
  k : Vector MaskReg 8
  z : Vector Tile 8
  q : Vector Token 8
  h : Vector (Option (BitVec 512)) 16
  f : Vector (Option Stream) 8
  csr : Csrs
  st : HartState
  waits : WaitFor
  /-- The spanned cores, slice 0 (the home core) first; core c of Isle i is number 64i + c. Empty while no slot is held. -/
  cores : List Nat
  slot : Nat
  asid : BitVec 12
  convoy : Convoy
  /-- The watchdog count (R317). -/
  wdcount : Nat
  /-- The age of R309. -/
  age : Nat
  /-- It executed YIELD since its last selection (R309). -/
  yielded : Bool
  /-- The first clk after the hold of PAUSE, in which it can be selected again (R121); 0 for no hold. -/
  pauseUntil : Nat
  /-- R271-R275: the accesses not yet performed. -/
  order : AgentQueues
  /-- R120: the 64-byte lines of main memory that its vector agent has written, rising (log 49). -/
  written : List Nat
  /-- R131, R321: the instruction at the pc has done some of its elements. -/
  progress : Option Progress
  transfers : List Transfer
  /-- Matrix-queue operations in flight, oldest first: tile and sequence number (R193). -/
  mq : List (Nat × Nat)
  /-- The matrix-queue sequence counter, 56 bits (R193). -/
  mqSeq : BitVec 56
  remote : List RemoteWait
  /-- R291, R296: the TAGs of the writes and atomics to other modules that were outstanding when it last acquired: a release at
  DOMAIN or SYSTEM covers them with its own (log 99). -/
  covered : List Nat
  psend : Option PsendState
  /-- An engine instruction has begun and is not complete: it completes before a save (R240). -/
  engine : Bool
  /-- The least element with a fault that a VXLATE.FF with K = 0 had passed when it stopped (R234). -/
  xlateFault : Option Nat
  /-- Its next instruction cannot issue in this clk, since it waits for another agent (R309). -/
  held : Bool
  /-- Its watchdog has suspended its gang, and its count stands at 0 until the gang is restored (R317). -/
  expired : Bool
  /-- A double trap has stopped it (R323). -/
  stopped : Bool
  deriving DecidableEq, Repr

/-! ### Gangs (R22, R301) -/

/-- Where a gang stands (R301, R313, R317, R323). -/
inductive GangStatus where
  /-- In the dependence-pending list (R301). -/
  | pending
  /-- Eligible for placement, a new gang. -/
  | queued
  | resident
  /-- Pre-emption has begun and the contexts are being saved (R315). -/
  | preempting
  /-- A restore entry of the queue: its contexts are in frames. -/
  | preempted
  /-- Held under fault policy 1 (R323). -/
  | held
  /-- Suspended by the watchdog (R317). -/
  | suspended
  /-- Ended by a double trap or a request (R323, R327): its members stop for good, and it retires once what they have
  accessed is performed at CSCOPE. -/
  | ending
  deriving DecidableEq, Repr

/-- The fields of a group record the device reads (R208). -/
structure GroupRec where
  m : Nat
  n : Nat
  k : Nat
  tm : Nat
  tn : Nat
  kc : Nat
  deriving DecidableEq, Repr

/-- R211: what a GTSCFG has set that the other members do not see before the next GBAR's release: the member that executed it,
its groups and its next item. -/
structure NewGroups where
  member : Nat
  groups : List GroupRec
  nextItem : Nat
  deriving DecidableEq, Repr

/-- A gang that has been posted and has not retired. -/
structure Gang where
  gid : BitVec 32
  asid : BitVec 12
  /-- The 64-byte spawn record (R123), byte +0 in [7:0]. -/
  record : BitVec 512
  status : GangStatus
  /-- The place in post order (R301). -/
  posted : Nat
  /-- The barrier (R128): phase number, expected, arrived and exited counts. -/
  phase : Nat
  expected : Nat
  arrived : Nat
  exits : Nat
  /-- Members that are EXITED. -/
  gone : List Nat
  /-- The home core of member 0 at the latest placement; none before the first. -/
  home : Option Nat
  /-- The grouped tile scheduler (R209): its groups and the next item. -/
  groups : List GroupRec
  nextItem : Nat
  /-- GTSCFGs since the last GBAR's release, oldest first (R211). -/
  newGroups : List NewGroups
  /-- The 256-bit gang key (R124), word 0 in [63:0]. -/
  key : BitVec 256
  /-- The budget level in force, 1-8 (R307). -/
  level : Nat
  /-- The clk since which it has been the first unplaced entry of its level (R303); none when it is not. -/
  firstSince : Option Nat
  /-- The clk since which it has been that and no placement of it exists (R313). -/
  blockedSince : Option Nat
  reserving : Bool
  /-- What was freed while it was reserving, and is held for it (R303): core, slot, tiles; slot 4 where a higher entry has taken the
  slot. -/
  slotsHeld : List (Nat × Nat × Nat)
  reported : Bool
  /-- The clk since which it has been unplaced (R49). -/
  waitingSince : Nat
  /-- The clk of the latest placement or restore (R314), and of the latest pre-emption's start (R313). -/
  placedAt : Nat
  windowFrom : Option Nat
  /-- The dependence word could not be read: the supervisor has been notified (R302). -/
  dependNoted : Bool
  /-- No key can be read at CADDR + 32 before this clk (R397). -/
  keyRetryAt : Nat
  /-- Frames held: member, Isle of the pool, frame number (R329). -/
  frames : List (Nat × Nat × Nat)
  /-- Members whose save is not complete (R332). -/
  unsaved : List Nat
  deriving DecidableEq, Repr

/-! ### Memories, caches and engines -/

/-- A line of a core's L1D (R248): the line's address divided by 64, its bytes, the bytes that are dirty, and the poison
of its words. -/
structure L1dLine where
  core : Nat
  line : Nat
  data : BitVec 512
  dirty : BitVec 64
  poison : BitVec 8
  deriving DecidableEq, Repr

/-- A word held by a core's instruction cache (R244), under its storage key. -/
structure IcacheWord where
  core : Nat
  key : Nat
  word : BitVec 32
  deriving DecidableEq, Repr

/-- A translation held by a core's scalar translation cache (R256): the leaf entry and the page it maps. -/
structure StcEntry where
  core : Nat
  asid : BitVec 12
  va : Nat
  size : Nat
  pte : Word
  deriving DecidableEq, Repr

/-- A line of an Isle's remote-line buffer (R295). -/
structure RemoteLine where
  isle : Nat
  line : Nat
  data : BitVec 512
  poison : BitVec 8
  filled : Nat
  deriving DecidableEq, Repr

/-- A storage slot of main memory (R259): row of a stack, or index in an Isle's LPDDR-6. -/
inductive StorageSlot where
  | hbm (stack row : Nat)
  | lpddr (isle index : Nat)
  deriving DecidableEq, Repr

/-- The states of a chunk or a unit (R226, R265). -/
inductive MoveState where
  | old
  | moving
  | new
  deriving DecidableEq, Repr

/-- A migration in progress (R265): target slot and version, the chunks in NEW state, the one in MOVING state, the chunks
promoted by a write, in the order of promotion. -/
structure Migration where
  target : StorageSlot
  version : Nat
  done : List Nat
  moving : Option Nat
  promoted : List Nat
  /-- The old slot is retired when the migration ends (R365). -/
  retire : Bool
  deriving DecidableEq, Repr

/-- A region's map entry where it differs from the placement of R259; `migration` is none in state IDLE. -/
structure RegionEntry where
  region : Nat
  slot : StorageSlot
  version : Nat
  migration : Option Migration
  deriving DecidableEq, Repr

/-- What a migration request asks for (R263). -/
inductive MigrationKind where
  | rehash (version : Nat)
  | toHbm
  | toLpddr
  /-- To any spare slot of the same kind: the repair of a lasting row (R365). -/
  | repair
  deriving DecidableEq, Repr

/-- A migration request not yet started. -/
structure MigrationRequest where
  region : Nat
  kind : MigrationKind
  deriving DecidableEq, Repr

/-- A relayout in progress (R226, R227). -/
structure Relayout where
  /-- The home Isle of the issuing hart, and its home core, which the own-core addresses of the request name (R250). -/
  isle : Nat
  core : Nat
  asid : BitVec 12
  /-- The handle record as TRELAYOUT left it. -/
  record : BitVec 512
  /-- Translations of the old region, the new region and the table, held by the engine. -/
  oldPins : List Pin
  newPins : List Pin
  tabPins : List Pin
  /-- The units that are NEW, the unit that is MOVING, and the units promoted by a write, in the order of promotion. -/
  finished : List Nat
  moving : Option Nat
  promoted : List Nat
  /-- The elements of the moving unit read so far, with their poison. -/
  fetched : List (Nat × Bool)
  /-- The READ that the next element of another module waits for: its TAG, and the word it brought with its poison (R295). -/
  asked : Option (Nat × Option (Word × Bool))
  /-- The moving unit's elements have been written. -/
  copied : Bool
  deriving DecidableEq, Repr

/-- A node of the Atoll (R235): a full page of one tree. -/
structure AtollNode where
  id : Nat
  tree : Nat
  parent : Option Nat
  tokens : List (BitVec 32)
  page : BitVec 32
  count : Nat
  /-- The order of attachment (R236). -/
  attached : Nat
  deriving DecidableEq, Repr

/-- A parcel bay (R237): its core and number, its owner, its first byte in the scratchpad, its slots and their size. -/
structure Bay where
  core : Nat
  number : Nat
  gang : BitVec 32
  member : Nat
  off : Nat
  slots : Nat
  zc : Nat
  deriving DecidableEq, Repr

/-! ### The module -/

/-- A notification record the device holds while the ring is full (R325): whether it also goes to the host, and the hart, by
GANGID and member, that waits for its reply. -/
structure HeldNote where
  record : BitVec 256
  toHost : Bool
  hart : Option (Nat × Nat)
  deriving DecidableEq, Repr

/-- A request of the mailbox that the device has begun and not finished (R327): its action, its GANGID, the gang's address
space. -/
structure BegunRequest where
  action : Nat
  gang : Nat
  asid : BitVec 12
  deriving DecidableEq, Repr

/-- The registers of an Isle control page (R252); XR is constant, MODE and POWER mirror the module's. -/
structure IsleCtl where
  mreq : Word
  rejects : BitVec 32
  iva : Word
  icmd : Word
  done : Bool
  pinned : BitVec 32
  /-- IVA when ICMD was written: where the range of the invalidation begins (R257). -/
  start : Word
  astab : Word
  rhthr : Word
  /-- Notification records the device holds while the ring is full (R325), oldest first. -/
  heldNotes : List HeldNote
  /-- The request of the mailbox that has begun (R327). -/
  begun : Option BegunRequest
  deriving DecidableEq, Repr

/-- The fabric control page (R341, R354, R369). -/
structure ModuleCtl where
  node : Word
  host : Word
  ctbase : Word
  ctcnt : Word
  mode : Word
  power : Word
  stage : Word
  bootgo : Word
  seed : Vector Word 4
  seedv : Word
  ras : Word
  drain : Word
  plx : Vector Word 8
  spdmctl : Word
  /-- +0x1000 to +0x1FFF and +0x2000 to +0x2FFF, lowest byte in [7:0]. -/
  spdmReq : BitVec 32768
  spdmResp : BitVec 32768
  deriving DecidableEq, Repr

/-- A request the module has sent and whose reply is outstanding (R343, R345): its header's TYPE, the fabric address and
length, the Isle it serves, the hart it serves (none for the device itself) and, for a parcel, its element; and the record
that is posted in the Isle's mailbox where it fails (R397). A read is `stale` once the Isle has dropped the line it asks for: it
serves no load and fills no line of the buffer (R295, log 81). -/
structure Request where
  tag : Nat
  typ : Nat
  addr : Nat
  len : Nat
  isle : Nat
  hart : Option (Nat × Nat)
  element : Nat
  sentAt : Nat
  report : Option (BitVec 256)
  stale : Bool
  deriving DecidableEq, Repr

/-- An atomic-wait the module watches (R348). -/
structure AtomicWait where
  msg : Message
  /-- The storage of the word. -/
  key : Nat
  since : Nat
  deriving DecidableEq, Repr

/-- An event of a location (R363): its clk, and whether it was correctable. -/
structure RasEvent where
  location : Word
  at_ : Nat
  correctable : Bool
  deriving DecidableEq, Repr

/-- Where a repair stands (R359, R365). -/
inductive RepairStage where
  /-- It waits for REPLY 1 to its kind 0x07 record. -/
  | proposed
  | approved
  /-- Its action, by the number kind 0x08 reports, is under way. -/
  | started (action : Nat)
  deriving DecidableEq, Repr

/-- A repair found and not yet complete (R365): the location, the Isle whose ring holds its kind 0x07 record, and the
record's place, none while it is held back. -/
structure RepairJob where
  location : Word
  stage : RepairStage
  isle : Nat
  index : Option Nat
  deriving DecidableEq, Repr

/-- Which agent acts in the next step (log 1). The model's own: the spec's machine runs its agents beside one another. -/
inductive Turn where
  /-- The issue stage of a core selects by R309 and the hart issues. -/
  | issue (core : Nat)
  /-- A step of the device or of the outside world: one of the last 82 constructors. -/
  | device (i : Instr)
  /-- The oldest matrix-queue operation of a hart completes (R193). -/
  | queueDone (g m : Nat)
  /-- A core's instruction cache drops a word (R244). -/
  | dropIcache (core key : Nat)
  /-- A core's scalar translation cache drops the translation of an address (R256). -/
  | dropStc (core va : Nat)
  /-- From now on the agents of a hart lag, or do not (R271, R275). -/
  | lag (g m : Nat) (scalar vector : Bool)
  /-- Entry `i` of a hart's scalar store queue, or of its vector stores, is performed if it may be (R271). -/
  | perform (g m : Nat) (scalar : Bool) (i : Nat)
  /-- The issue stage of a core selects by R309; a vector instruction the hart issues has done its elements below `e` when the
  turn ends, and stands there, where a pre-emption may find it (R26, R320). -/
  | part (core e : Nat)
  /-- `n` clk pass in which no agent acts. -/
  | idle (n : Nat)
  deriving DecidableEq, Repr

/-- The whole machine. -/
structure State where
  /-- The hart under the cursor: the one an instruction row acts on. -/
  hart : Hart
  /-- Every other hart that is not retired. -/
  parked : List Hart
  gangs : List Gang
  /-- The next GANGID (R125) and the next place in post order. -/
  nextGid : BitVec 32
  nextPost : Nat
  /-- Memory: addresses strictly rising, no byte 0 (what an unlisted byte reads as, log 2). Main memory is keyed by
  physical address, a core region by 2^56 + core * 2^26 + OFF (R249, R250, R258). -/
  mem : List Host.Cell
  /-- The poisoned units, rising: the first key of each poisoned 64-byte line of main memory and of each poisoned 8-byte
  word of a core (R266, R267). -/
  memPoison : List Nat
  l1d : List L1dLine
  icache : List IcacheWord
  stc : List StcEntry
  rlb : List RemoteLine
  /-- The address space last resident on a core (R243). -/
  resident : List (Nat × BitVec 12)
  isles : Vector IsleCtl 8
  ctl : ModuleCtl
  regions : List RegionEntry
  /-- Spare slots in use or retired, and slots freed as spares (R259, R265). -/
  sparesTaken : List StorageSlot
  sparesFreed : List StorageSlot
  hashVersions : List HashVersion
  migrations : List MigrationRequest
  relayouts : List Relayout
  atoll : List AtollNode
  atollNext : Nat
  bays : List Bay
  /-- Messages sent, newest first, and the next TAG. -/
  sent : List Message
  nextTag : Nat
  requests : List Request
  atomicWaits : List AtomicWait
  /-- SHA-384 measurements of the service and the supervisor image (R370). -/
  serviceMeasure : BitVec 384
  supervisorMeasure : BitVec 384
  rasEvents : List RasEvent
  repairs : List RepairJob
  /-- Cores retired, cores whose spare lane is used, slots of reduced capacity (core, slot, capacity), and spare rows
  and groups used, by location (R365). -/
  retiredCores : List Nat
  lanesUsed : List Nat
  slotCaps : List (Nat × Nat × Nat)
  sparesUsed : List Word
  /-- R372: the temperature of the hottest die in °C, and whether POWER.LEVEL is held at 3. -/
  hottest : Nat
  thermalHot : Bool
  /-- The power of the latest ms in W, the clk at which it was measured, and the whole ms in which it stayed below 90 % of
  PLIMIT (R371) and above 4,200 W (R372). -/
  watts : Nat
  measuredAt : Nat
  lowPowerMs : Nat
  highPowerMs : Nat
  /-- clk since the package left reset (R38: CYCLE). -/
  clk : Nat
  /-- Which agents act next (log 1). -/
  agenda : List Turn
  /-- The element before which the instruction of this turn stands at its end (R320); none outside a turn `part`. -/
  stopAt : Option Nat
  /-- Counts the free values drawn (log 1). -/
  freeCtr : Nat
  deriving DecidableEq, Repr

/-! ### Traps (R119) -/

/-- The causes of a precise trap (R119). -/
inductive Cause where
  | illegalInsn
  | illegalReg
  | priv
  | ecall
  | ebreak
  | align
  | addrRange
  | noProbe
  | noVl
  | typeIllegal
  | typeMismatch
  | convoyConflict
  | reservedCode
  | sortRequired
  | sortMismatch
  | accBusy
  | tileExtent
  | spanUnsupported
  | poison
  | watchdog
  | stream
  | layout
  | scale
  | parcel
  | probeFault
  deriving DecidableEq, Repr

/-- A trap: its cause and the value TVAL takes. -/
structure Trap where
  cause : Cause
  tval : Word
  deriving DecidableEq, Repr

/-! ### Reset -/

def VReg.zero : VReg := ⟨0, 0, 0⟩
def MaskReg.zero : MaskReg := ⟨0, 0⟩
/-- R32, R192: a tile at hart start. -/
def Tile.zero : Tile :=
  { ranked := false, kind := .none, ovf := false, elems := 0, poison := 0, cfg := none, lists := [] }
def Token.dead : Token := ⟨false, false, 0, 0, []⟩
/-- R213: q0 is always live; its window is the on-package window, untranslated, W = 1. -/
def Token.window : Token := ⟨true, true, 0x000F000000000000, 0x0001000000000000, []⟩
/-- R89: the next instruction heads a convoy, whatever its C bit. -/
def Convoy.none : Convoy := ⟨true, false, 0, [], 0, 0, 0, 0, 0, 0⟩
/-- R89: the instruction before has no pipe: nothing can join. -/
def Convoy.closed : Convoy := ⟨false, false, 0, [], 0, 0, 0, 0, 0, 0⟩

/-- R38: the control and status registers at hart start where no record has set one. -/
def Csrs.start : Csrs :=
  { vl := 0, vstart := 0, vdirty := 0, vflags := 0, vstat := 0, vrm := 0, hartid := 0, gangid := 0, gangsize := 1,
    member := 0, span := 1, footprint := 0x200820, vlmaxc := 65536, retired := 0, budget := 65536, zlist := 0,
    wdlimit := 0, key0 := 0, key1 := 0, key2 := 0, key3 := 0, counter := 0, nonce := 0, rngmode := 0, tcause := 0,
    tval := 0, tpc := 0, tvec := 0, tscratch := 0, priv := 0 }

/-- R44: a hart at its start, with no slot and in state EXITED: the cursor before any placement (log 3). -/
def Hart.none : Hart :=
  { pc := 0, s := Vector.replicate 32 0, sPoison := 0, v := Vector.replicate 32 .zero, k := Vector.replicate 8 .zero,
    z := Vector.replicate 8 .zero, q := (Vector.replicate 8 .dead).set 0 .window, h := Vector.replicate 16 Option.none,
    f := Vector.replicate 8 Option.none, csr := .start, st := .exited, waits := .nothing, cores := [], slot := 0, asid := 0,
    convoy := .none, wdcount := 0, age := 0, yielded := false, pauseUntil := 0, order := .prompt, written := [], progress := Option.none, transfers := [], mq := [], mqSeq := 0,
    remote := [], covered := [], psend := Option.none, engine := false, xlateFault := Option.none, held := false, expired := false, stopped := false }

/-- R252: an Isle control page at reset. -/
def IsleCtl.reset : IsleCtl :=
  { mreq := 0, rejects := 0, iva := 0, icmd := 0, done := true, pinned := 0, start := 0, astab := 0, rhthr := 4096, heldNotes := [], begun := none }

/-- R341, R354: the fabric control page at reset. -/
def ModuleCtl.reset : ModuleCtl :=
  { node := 0xFFF, host := 0xFFF, ctbase := 0, ctcnt := 0, mode := 0, power := 0x0ED80000, stage := 0, bootgo := 0,
    seed := Vector.replicate 4 0, seedv := 0, ras := 0x1803, drain := 0, plx := Vector.replicate 8 0, spdmctl := 0,
    spdmReq := 0, spdmResp := 0 }

/-- The module at power-good: stage 0 (R355), no gang, no hart placed, memory with nothing listed. -/
def State.reset : State :=
  { hart := .none, parked := [], gangs := [], nextGid := 1, nextPost := 0, mem := [], memPoison := [], l1d := [],
    icache := [], stc := [], rlb := [], resident := [], isles := Vector.replicate 8 .reset, ctl := .reset, regions := [],
    sparesTaken := [], sparesFreed := [], hashVersions := [], migrations := [], relayouts := [], atoll := [],
    atollNext := 0, bays := [], sent := [], nextTag := 0, requests := [], atomicWaits := [], serviceMeasure := 0,
    supervisorMeasure := 0, rasEvents := [], repairs := [], retiredCores := [], lanesUsed := [], slotCaps := [],
    sparesUsed := [], hottest := 0, thermalHot := false, watts := 0, measuredAt := 0, lowPowerMs := 0, highPowerMs := 0, clk := 0, agenda := [], stopAt := none, freeCtr := 0 }

end Sys2Proof.Machine
end

