-- ==== Sys2Proof/Machine/Mem.lean ====
section
/-!
DEFINITION. Storage: the list of memory cells and its canonical form, little-endian words (R10), poison (R266, R267), the
keys of main memory and of the core regions (R250, R258), and the decoding of the on-package window (R249).
-/
namespace Sys2Proof.Machine

/-! ### Bits -/

/-- Field [lo+n-1 : lo] of a word. -/
def bits (w : Word) (lo n : Nat) : Nat := w.toNat / 2 ^ lo % 2 ^ n
/-- Bit n of a word. -/
def bit (w : Word) (n : Nat) : Bool := w.getLsbD n
/-- The word with field [lo+n-1 : lo] replaced by `v`. -/
def setBits (w : Word) (lo n v : Nat) : Word :=
  (w &&& ~~~(BitVec.ofNat 64 ((2 ^ n - 1) * 2 ^ lo))) ||| BitVec.ofNat 64 (v % 2 ^ n * 2 ^ lo)
/-- Word i of a 64-byte record: bytes +8i to +8i+7. -/
def recWord (r : BitVec 512) (i : Nat) : Word := r.extractLsb' (64 * i) 64
/-- The record with word i replaced. -/
def setRecWord (r : BitVec 512) (i : Nat) (w : Word) : BitVec 512 :=
  (r &&& ~~~(BitVec.ofNat 512 ((2 ^ 64 - 1) * 2 ^ (64 * i)))) ||| BitVec.ofNat 512 (w.toNat * 2 ^ (64 * i))

/-- R19: the slice and the local index of element `e` of width `w` across `span` cores. -/
def slotOf (span w e : Nat) : Nat × Nat :=
  let g := 2048 / w
  (e / g % span, e / (g * span) * g + e % g)

/-! ### The cells -/

/-- What a byte that is not listed reads as (log 2). -/
def unlisted : Byte := 0

/-- One byte. -/
def memRead : List Host.Cell → Nat → Byte
  | [], _ => unlisted
  | (x, b) :: r, a => if x = a then b else if a < x then unlisted else memRead r a

/-- One byte written; the list stays in its canonical form. -/
def memWrite : List Host.Cell → Nat → Byte → List Host.Cell
  | [], a, v => if v = unlisted then [] else [(a, v)]
  | (x, b) :: r, a, v =>
    if a < x then (if v = unlisted then (x, b) :: r else (a, v) :: (x, b) :: r)
    else if a = x then (if v = unlisted then r else (a, v) :: r)
    else (x, b) :: memWrite r a v

/-- The canonical form: addresses strictly rising, no listed byte equal to what an unlisted one reads as. -/
def memWf : List Host.Cell → Bool
  | [] => true
  | [(_, b)] => b != unlisted
  | (x, b) :: (y, c) :: r => b != unlisted && decide (x < y) && memWf ((y, c) :: r)

/-- `n` bytes from `a` upward, the lowest in the low bits (R10). -/
def readLE (m : List Host.Cell) (a : Nat) : Nat → Nat
  | 0 => 0
  | n + 1 => (memRead m a).toNat + 256 * readLE m (a + 1) n

/-- The low `n` bytes of `v` written from `a` upward (R10). -/
def writeLE (m : List Host.Cell) (a : Nat) : Nat → Nat → List Host.Cell
  | 0, _ => m
  | n + 1, v => writeLE (memWrite m a (BitVec.ofNat 8 v)) (a + 1) n (v / 256)

/-- `n` bytes from `a` upward set to the unlisted value. -/
def memClear (m : List Host.Cell) (a n : Nat) : List Host.Cell :=
  m.filter fun c => !(decide (a ≤ c.1) && decide (c.1 < a + n))

/-- The bytes of `v` set in `mask` (bit i for byte i), written from `a` upward. -/
def writeMasked (m : List Host.Cell) (a : Nat) : Nat → Nat → Nat → List Host.Cell
  | 0, _, _ => m
  | n + 1, v, mask =>
    writeMasked (if mask % 2 = 1 then memWrite m a (BitVec.ofNat 8 v) else m) (a + 1) n (v / 256) (mask / 2)

/-! ### Keys of storage -/

/-- R258: 2 MiB times XR regions of local main memory. -/
def exposedRegions : Nat := 1567744
/-- The bytes of local main memory. -/
def mainBytes : Nat := exposedRegions * 2 ^ 21
/-- The key of offset `off` of the region of core `core` (core c of Isle i is 64i + c). -/
def coreKey (core off : Nat) : Nat := 2 ^ 56 + core * 2 ^ 26 + off
/-- Is the key one of main memory? -/
def isMainKey (k : Nat) : Bool := decide (k < 2 ^ 56)
/-- R266, R267: the first key of the unit whose poison covers the key. -/
def poisonUnit (k : Nat) : Nat := if isMainKey k then k / 64 * 64 else k / 8 * 8
/-- The bytes of a poison unit. -/
def unitBytes (k : Nat) : Nat := if isMainKey k then 64 else 8

/-- The rising list with `k` in it. -/
def insertRising (l : List Nat) (k : Nat) : List Nat :=
  match l with
  | [] => [k]
  | x :: r => if k < x then k :: x :: r else if k = x then x :: r else x :: insertRising r k

/-- Is some byte of the `n` bytes from key `k` poisoned? -/
def poisoned (s : State) (k n : Nat) : Bool :=
  s.memPoison.any fun u => decide (u < k + n) && decide (k < u + unitBytes u)

/-- The first poisoned unit's key that the `n` bytes from `k` meet, or `k`. -/
def poisonedAt (s : State) (k n : Nat) : Nat :=
  match s.memPoison.find? fun u => decide (u < k + n) && decide (k < u + unitBytes u) with
  | some u => max u k
  | none => k

/-- The unit of key `k` marked poisoned. -/
def poisonKey (s : State) (k : Nat) : State := { s with memPoison := insertRising s.memPoison (poisonUnit k) }

/-- Do the ranges (key, length) cover every byte of the `n` bytes from `u`? -/
def covered (ranges : List (Nat × Nat)) (u : Nat) : Nat → Bool
  | 0 => true
  | n + 1 => ranges.any (fun r => decide (r.1 ≤ u) && decide (u < r.1 + r.2)) && covered ranges (u + 1) n

/-- R266, R267: one instruction or one access that wrote the ranges clears the units it replaced whole. -/
def clearCovered (s : State) (ranges : List (Nat × Nat)) : State :=
  { s with memPoison := s.memPoison.filter fun u => !covered ranges u (unitBytes u) }

/-- `n` bytes at key `k` written, without an effect on poison. -/
def putBytes (s : State) (k n v : Nat) : State := { s with mem := writeLE s.mem k n v }
/-- R266, R267: one access that writes `n` bytes at key `k`. -/
def storeBytes (s : State) (k n v : Nat) : State := clearCovered (putBytes s k n v) [(k, n)]
/-- The bytes of an element of `w` bits: at least one. -/
def elemBytes (w : Nat) : Nat := if w ≤ 8 then 1 else w / 8
/-- A byte with one of its nibbles replaced. -/
def withNibble (old nib v : Nat) : Nat := if nib = 0 then old / 16 * 16 + v % 16 else old % 16 + v % 16 * 16
/-- One element read from the value of its bytes. -/
def takeElement (w nib v : Nat) : Nat := if w = 4 then v / 16 ^ nib % 16 else v
/-- The storage that elements of `w` bits at the places (key, nibble) fill: whole bytes only. -/
def storedRanges (w : Nat) (ps : List (Nat × Nat)) : List (Nat × Nat) :=
  if w = 4 then ps.filterMap fun p => if p.2 = 1 ∧ ps.contains (p.1, 0) then some (p.1, 1) else none
  else ps.map fun p => (p.1, w / 8)
/-- The 64-bit word at key `k`. -/
def loadWord (s : State) (k : Nat) : Word := BitVec.ofNat 64 (readLE s.mem k 8)

/-- R358: which 2 MiB region a key of main memory lies in. -/
def regionOf (k : Nat) : Nat := k / 2 ^ 21

/-! ### The on-package window (R249, R250) -/

/-- What a window address maps. -/
inductive WindowPlace where
  /-- Byte `off` of the region of core `core`. -/
  | core (core off : Nat)
  /-- Register offset `off` of the control page of Isle `isle`. -/
  | isleCtl (isle off : Nat)
  /-- Byte `off` of the module control page. -/
  | moduleCtl (off : Nat)
  | unmapped
  deriving DecidableEq, Repr

/-- R249: bits [51:48] are 0xF and [63:52] are zero. -/
def inWindow (a : Word) : Bool := bits a 48 16 == 0xF

/-- R250: the offsets of a core region that are storage. -/
def coreOffMapped (off : Nat) : Bool :=
  decide (off < 0xC00000) || (decide (0x1000000 ≤ off) && decide (off < 0x1140000))

/-- R249: the place a window address names, for an access that core `self` performs. A retired core maps nothing (R365). -/
def windowPlace (s : State) (self : Nat) (a : Word) : WindowPlace :=
  let sel := bits a 44 4
  let core := bits a 38 6
  let off := bits a 0 26
  if bits a 52 12 ≠ 0 then .unmapped
  else if sel ≤ 7 then
    if bits a 26 12 = 0 ∧ coreOffMapped off ∧ sel * 64 + core ∉ s.retiredCores then .core (sel * 64 + core) off
    else .unmapped
  else if sel = 8 then
    if core = 0 ∧ bits a 26 12 = 0 ∧ coreOffMapped off ∧ self ∉ s.retiredCores then .core self off else .unmapped
  else if sel = 9 then
    if bits a 38 3 = 0 ∧ bits a 12 26 = 0 then .isleCtl (bits a 41 3) (bits a 0 12) else .unmapped
  else if sel = 10 then
    if core = 0 ∧ bits a 26 12 = 0 ∧ off < 0x3000 then .moduleCtl off else .unmapped
  else .unmapped

/-- R324: the first offset of the supervisor mailbox in the region of core 0 of an Isle. -/
def mailboxOff : Nat := 0x113BFC0
/-- R324: is offset `off` of core `core` a mailbox byte? -/
def isMailbox (core off : Nat) : Bool :=
  core % 64 == 0 && decide (mailboxOff ≤ off) && decide (off < 0x1140000)
/-- R324, R325: the bits of a mailbox byte that software writes: NHEAD, PREQ, CFBASE, CFCNT, and REPLY of a record, which
the first write settles (R360). -/
def mailboxMask (s : State) (k off : Nat) : Nat :=
  if 0x113C000 ≤ off then
    if off % 32 = 24 ∧ memRead s.mem k = 0 then 0xFF else 0
  else
    let b := off - mailboxOff
    if 8 ≤ b ∧ b < 20 then 0xFF else if b = 20 then 3
    else if b = 34 then 0xC0 else if 35 ≤ b ∧ b < 39 then 0xFF else if b = 40 ∨ b = 41 then 0xFF else 0
/-- Is the key one of a mailbox byte? -/
def isMailboxKey (k : Nat) : Bool :=
  !isMainKey k && isMailbox ((k - 2 ^ 56) / 2 ^ 26) ((k - 2 ^ 56) % 2 ^ 26)
/-- `n` bytes written by software: the bits of a mailbox that are not its to write keep their values. -/
def putSoftware (s : State) (k : Nat) : Nat → Nat → State
  | 0, _ => s
  | n + 1, v =>
    let m := if isMailboxKey k then mailboxMask s k ((k - 2 ^ 56) % 2 ^ 26) else 0xFF
    let b := ((memRead s.mem k).toNat &&& (0xFF ^^^ m)) ||| (v % 256 &&& m)
    putSoftware { s with mem := memWrite s.mem k (BitVec.ofNat 8 b) } (k + 1) n (v / 256)
/-- The same, at once where no mailbox lies. -/
def putAgent (s : State) (k n v : Nat) : State :=
  if isMailboxKey k || isMailboxKey (k + n - 1) then putSoftware s k n v else putBytes s k n v
/-- One element written by software: whole bytes, or the nibble of a 4-bit element. -/
def putElement (s : State) (k w nib v : Nat) : State :=
  if w = 4 then putAgent s k 1 (withNibble (memRead s.mem k).toNat nib v) else putAgent s k (w / 8) v
/-- R266, R267: one access of software that writes `n` bytes at key `k`. -/
def storeAgent (s : State) (k n v : Nat) : State := clearCovered (putAgent s k n v) [(k, n)]

/-- The key of the mailbox header of an Isle. -/
def mailboxKey (isle : Nat) : Nat := coreKey (isle * 64) mailboxOff

end Sys2Proof.Machine
end

