-- ==== Sys2Proof/Machine/Translate.lean ====
section
/-!
DEFINITION. Translation and the caches of a core: page-table walks (R253-R256), the scalar translation cache, the L1D
(R248), the checks of the window by privilege (R251), and where a scalar access or a fetch of the hart lands (R106, R113).
-/
namespace Sys2Proof.Machine

/-! ### The hart's place and privilege -/

/-- Every hart, the one under the cursor first. -/
def State.harts (s : State) : List Hart := s.hart :: s.parked
/-- R18: the home core; 0 while no slot is held. -/
def Hart.home (h : Hart) : Nat := h.cores.headD 0
/-- The Isle of a core. -/
def isleOf (core : Nat) : Nat := core / 64
/-- R42: PRIV.CUR. -/
def Hart.cur (h : Hart) : Nat := bits h.csr.priv 0 2
/-- R42: PRIV.PREV. -/
def Hart.prev (h : Hart) : Nat := bits h.csr.priv 2 2
/-- R42: PRIV.TACT. -/
def Hart.tact (h : Hart) : Bool := bit h.csr.priv 4
/-- R115: user mode. -/
def Hart.user (h : Hart) : Bool := h.cur == 0
/-- The hart holds its slots. -/
def Hart.resident (h : Hart) : Bool := h.st != .exited && h.st != .preempted
/-- R251: a user hart (a member of a gang) of address space `asid` is resident on the core. -/
def userResident (s : State) (core : Nat) (asid : BitVec 12) : Bool :=
  s.harts.any fun h => h.resident && decide (core ∈ h.cores) && h.csr.gangid != 0 && h.asid == asid

/-- What an access does. -/
inductive AccessKind where
  | load
  | store
  | fetch
  deriving DecidableEq, Repr

/-! ### Page tables (R253-R256) -/

/-- R255: the leaf's permissions against the access: user mode needs U, a load R, a store W, a fetch X. -/
def pteAllows (pte : Word) (user : Bool) (k : AccessKind) : Bool :=
  (!user || bit pte 5) && (match k with | .load => bit pte 2 | .store => bit pte 3 | .fetch => bit pte 4)

/-- R351: entry `c` of the connection table, byte +0 in [7:0]; none where there is no such entry. -/
def connection (s : State) (c : Nat) : Option (BitVec 512) :=
  if c < bits s.ctl.ctcnt 0 10 then
    some (BitVec.ofNat 512 (readLE s.mem ((s.ctl.ctbase &&& 0x00FFFFFFFFFFFFC0).toNat + 64 * c) 64))
  else none
/-- R351: VALID. -/
def connectionValid (r : BitVec 512) : Bool := bit (recWord r 0) 63
/-- R351: RLEN in bytes. -/
def connectionLength (r : BitVec 512) : Nat := bits (recWord r 1) 32 32 * 4096

/-- R339: a fabric address. -/
def isFabric (pa : Nat) : Bool := pa / 2 ^ 55 % 2 == 1
/-- R339: NODE and OFFSET. -/
def fabricNode (pa : Nat) : Nat := pa / 2 ^ 43 % 2 ^ 12
def fabricOffset (pa : Nat) : Nat := pa % 2 ^ 43
/-- R338: does the fabric address name an Ethernet connection? -/
def isConnection (pa : Nat) : Bool := isFabric pa && decide (0xC00 ≤ fabricNode pa)

/-- R255, R258, R340: is the page at `pa` of `size` bytes one a leaf may map? Which modules the domain has the spec does not say:
every number of a module but the module's own counts as one (log 90). -/
def pagePresent (s : State) (pa size : Nat) : Bool :=
  if pa + size ≤ mainBytes then true
  else if isFabric pa then
    if fabricNode pa < 0xC00 then
      fabricNode pa != bits s.ctl.node 0 12 && decide (fabricOffset pa + size ≤ 2 ^ 42)
    else match connection s (fabricNode pa - 0xC00) with
      | some r => fabricNode pa != 0xFFF && connectionValid r && decide (fabricOffset pa + size ≤ connectionLength r)
      | none => false
  else false

/-- R255: is the entry, of level `level`, present and well formed? -/
def pteValid (pte : Word) (level : Nat) : Bool :=
  bit pte 0 && bits pte 56 8 == 0 && bits pte 9 3 == 0 && !bit pte 1 &&
  !(bit pte 8 && (level == 4 || level == 1)) && !(bit pte 3 && !bit pte 2)

/-- R254: the bytes a leaf of the level maps. -/
def leafSize (level : Nat) : Nat := if level = 3 then 2 ^ 30 else if level = 2 then 2 ^ 21 else 4096
/-- R254: the index into the table of the level. -/
def levelIndex (va : Nat) (level : Nat) : Nat :=
  if level = 4 then va / 2 ^ 39 % 8192 else va / 2 ^ (12 + 9 * (level - 1)) % 512

/-- What a walk finds. -/
structure Leaf where
  pte : Word
  /-- The key of the entry. -/
  key : Nat
  /-- The physical address of the page and its bytes. -/
  pa : Nat
  size : Nat
  deriving DecidableEq, Repr

/-- R254, R255: the walk from the table at `table`, whose level is the structural argument. -/
def walkFrom (s : State) (va table : Nat) : Nat → Option Leaf
  | 0 => none
  | level + 1 =>
    let key := table + 8 * levelIndex va (level + 1)
    if key + 8 ≤ mainBytes then
      let pte := loadWord s key
      let pa := bits pte 12 44 * 4096
      if pteValid pte (level + 1) then
        if bit pte 8 ∨ level = 0 then
          let size := leafSize (level + 1)
          if pa % size = 0 ∧ pagePresent s pa size then some ⟨pte, key, pa, size⟩ else none
        else walkFrom s va pa level
      else none
    else none

/-- R253: ASTAB, the base of the address-space table, as Isle `isle` has it. -/
def astabBase (s : State) (isle : Nat) : Nat := (s.isles[isle % 8]'(Nat.mod_lt _ (by decide))).astab.toNat / 2 ^ 16 % 2 ^ 40 * 2 ^ 16

/-- R253: the root table of an address space; none when its entry is not VALID or the table is no main memory. -/
def rootTable (s : State) (isle : Nat) (asid : BitVec 12) : Option Nat :=
  let key := astabBase s isle + 8 * asid.toNat
  if key + 8 ≤ mainBytes then
    let e := loadWord s key
    if bit e 63 then some (bits e 16 40 * 2 ^ 16) else none
  else none

/-- R253: the trap vector of an address space. -/
def trapVector (s : State) (isle : Nat) (asid : BitVec 12) : Word :=
  loadWord s (astabBase s isle + 32768 + 8 * asid.toNat) &&& ~~~3

/-- R254: the leaf that maps `va` in the address space. -/
def walk (s : State) (isle : Nat) (asid : BitVec 12) (va : Nat) : Option Leaf :=
  match rootTable s isle asid with
  | some root => walkFrom s va root 4
  | none => none

/-- R265: a migration in which chunk `c` is written: one that is OLD is promoted, the write waits until it is NEW, and the engine
first ends the chunk it is moving. The engine's acts fall in the step of the write (log 12). -/
def Migration.written (m : Migration) (c : Nat) : Migration :=
  if c ∈ m.done then m
  else
    let done := m.done ++ m.moving.toList
    if c ∈ done then { m with done := done, moving := none }
    else { m with done := done ++ [c], moving := none, promoted := m.promoted ++ [c] }

/-- R265: a write at physical address `pa` of a region that is migrating finds its chunk NEW. -/
def promoteChunk (s : State) (pa : Nat) : State :=
  { s with regions := s.regions.map fun r =>
      if r.region = regionOf pa then
        { r with migration := r.migration.map fun m => m.written (pa % 2 ^ 21 / 32768) }
      else r }

/-- R256, R265: A, and for a store D, set by an atomic OR in the entry at `key`. -/
def setAccessed (s : State) (key : Nat) (store : Bool) : State :=
  let s := promoteChunk s key
  putBytes s key 8 ((loadWord s key) ||| (if store then 0xC0 else 0x40)).toNat

/-! ### The scalar translation cache (R256) -/

/-- The cached translation of `va` that the access may use. -/
def stcFind (s : State) (core : Nat) (asid : BitVec 12) (va : Nat) (user : Bool) (k : AccessKind) : Option StcEntry :=
  s.stc.find? fun e => decide (e.core = core) && e.asid == asid && decide (va / e.size * e.size = e.va) &&
    pteAllows e.pte user k && (k != .store || bit e.pte 7)

/-- The list without its last element that `f` tells. -/
def dropOldest {α : Type} (f : α → Bool) : List α → List α
  | [] => []
  | x :: r => if f x && !r.any f then r else x :: dropOldest f r

/-- R242: `x` put into a structure of a core that holds at most `cap` elements, those that `f` tells: the oldest gives way (log 72). -/
def keepWithin {α : Type} (cap : Nat) (f : α → Bool) (x : α) (l : List α) : List α :=
  x :: (if l.countP f < cap then l else dropOldest f l)

/-- R106, R256: the physical address of `va` for an access of a hart of address space `asid` on core `core`; none for a
missing mapping or a denied permission. A walk sets A and D and leaves its translation in the cache. -/
def translate (s : State) (core : Nat) (asid : BitVec 12) (user : Bool) (k : AccessKind) (va : Nat) :
    Option (Nat × State) :=
  match stcFind s core asid va user k with
  | some e => some (bits e.pte 12 44 * 4096 / e.size * e.size + va % e.size, s)
  | none =>
    match walk s (isleOf core) asid va with
    | some l =>
      if pteAllows l.pte user k then
        let s := setAccessed s l.key (k == .store)
        let pte := l.pte ||| (if k == .store then 0xC0 else 0x40)
        some (l.pa + va % l.size,
          { s with stc := keepWithin 4096 (fun e => e.core == core) ⟨core, asid, va / l.size * l.size, l.size, pte⟩ s.stc })
      else none
    | none => none

/-! ### Where a scalar access lands (R106, R251) -/

/-- The storage an address leads to. -/
inductive Landing where
  /-- Storage of the package that is never cached: a core region, under its key. -/
  | window (key : Nat)
  | isleCtl (isle off : Nat)
  | moduleCtl (off : Nat)
  /-- Local main memory. -/
  | main (pa : Nat)
  /-- Memory of another module, or of a connection (R339). -/
  | remote (pa : Nat)
  deriving DecidableEq, Repr

/-- R251: may the hart reach byte `off` of core `core` through the window? -/
def coreAccessOk (s : State) (h : Hart) (core off : Nat) : Bool :=
  !h.user || (userResident s core h.asid && !isMailbox core off)

/-- R106, R113, R251: where an access of `size` bytes of the hart lands, or its trap. `scalar` tells a scalar access from a
vector access or a fetch, which reach no control page. -/
def windowLanding (s : State) (h : Hart) (self : Nat) (a : Word) (size : Nat) (scalar : Bool) : Option Landing :=
  match windowPlace s self a with
  | .core core off => if coreAccessOk s h core off then some (.window (coreKey core off)) else none
  | .isleCtl isle off => if scalar ∧ size = 8 ∧ ¬ h.user then some (.isleCtl isle off) else none
  | .moduleCtl off => if scalar ∧ size = 8 ∧ h.cur = 2 then some (.moduleCtl off) else none
  | .unmapped => none

/-- R106: the four checks of a scalar access of the hart under the cursor, in their order. -/
def scalarLanding (s : State) (a : Word) (size : Nat) (k : AccessKind) : Except Trap (Landing × State) :=
  if a.toNat % size ≠ 0 then .error ⟨.align, a⟩
  else if bits a 52 12 ≠ 0 then .error ⟨.addrRange, a⟩
  else if inWindow a then
    match windowLanding s s.hart s.hart.home a size (k != .fetch) with
    | some l => .ok (l, s)
    | none => .error ⟨.addrRange, a⟩
  else
    match translate s s.hart.home s.hart.asid s.hart.user k a.toNat with
    | some (pa, s') => if pa < mainBytes then .ok (.main pa, s') else
        if isConnection pa then .error ⟨.addrRange, a⟩ else .ok (.remote pa, s')
    | none => .error ⟨.addrRange, a⟩

/-! ### The L1D (R248) -/

/-- A line of the core's L1D. -/
def l1dFind (s : State) (core line : Nat) : Option L1dLine :=
  s.l1d.find? fun l => decide (l.core = core) && decide (l.line = line)

/-- R267: one of the bytes to be written back lies in a poisoned word of the line. -/
def L1dLine.carriesPoison (l : L1dLine) : Bool :=
  (List.range 8).any fun i => l.poison.getLsbD i && l.dirty.extractLsb' (8 * i) 8 != 0

/-- R248, R266, R267: the dirty bytes of a line written to memory. A line written whole clears the line's poison, and bytes of a
poisoned word leave the line poisoned. -/
def writeBackLine (s : State) (l : L1dLine) : State :=
  let s := promoteChunk s (64 * l.line)
  let s := { s with mem := writeMasked s.mem (64 * l.line) 64 l.data.toNat l.dirty.toNat }
  let s := if l.dirty = BitVec.allOnes 64 then clearCovered s [(64 * l.line, 64)] else s
  if l.carriesPoison then poisonKey s (64 * l.line) else s

/-- The line dropped, written back first if dirty. -/
def dropLine (s : State) (core line : Nat) : State :=
  match l1dFind s core line with
  | some l =>
    let s := if l.dirty = 0 then s else writeBackLine s l
    { s with l1d := s.l1d.filter fun x => !(decide (x.core = core) && decide (x.line = line)) }
  | none => s

/-- R278: the lines of the core that an engine transfer wrote over, each written back if dirty and dropped. -/
def dropLines (s : State) (core : Nat) (written : Nat → Bool) : State :=
  (s.l1d.filter fun l => decide (l.core = core) && written l.line).foldl (fun s l => dropLine s core l.line) s

/-- R248, release: every dirty line of the core written back; the lines stay valid. -/
def cleanL1d (s : State) (core : Nat) : State :=
  let dirty := s.l1d.filter fun l => decide (l.core = core) && l.dirty != 0
  let s := dirty.foldl writeBackLine s
  { s with l1d := s.l1d.map fun l => if l.core = core then { l with dirty := 0 } else l }

/-- R248, acquire: every line of the core written back if dirty and invalidated. -/
def flushL1d (s : State) (core : Nat) : State :=
  let s := cleanL1d s core
  { s with l1d := s.l1d.filter fun l => !decide (l.core = core) }

/-- R248: the line is brought in. A full set of 8 ways first gives up one line, which the free choice names. -/
def allocLine (s : State) (core line : Nat) : L1dLine × State :=
  match l1dFind s core line with
  | some l => (l, s)
  | none =>
    let set := s.l1d.filter fun l => decide (l.core = core) && decide (l.line % 128 = line % 128)
    let s := if set.length < 8 then s else
      match set[Config.victimWay s.freeCtr % set.length]? with
      | some v => { dropLine s core v.line with freeCtr := s.freeCtr + 1 }
      | none => s
    let l : L1dLine :=
      { core := core, line := line, data := BitVec.ofNat 512 (readLE s.mem (64 * line) 64), dirty := 0,
        poison := if poisoned s (64 * line) 64 then 0xFF else 0 }
    (l, { s with l1d := l :: s.l1d })

/-- The line replaced in the L1D. -/
def putLine (s : State) (l : L1dLine) : State :=
  { s with l1d := s.l1d.map fun x => if x.core = l.core ∧ x.line = l.line then l else x }

/-- R248: `n` bytes at physical address `pa` read through the L1D of the core: the value, its word's poison, the state. -/
def l1dLoad (s : State) (core pa n : Nat) : Nat × Bool × State :=
  let (l, s) := allocLine s core (pa / 64)
  (l.data.toNat / 2 ^ (8 * (pa % 64)) % 2 ^ (8 * n), l.poison.getLsbD (pa % 64 / 8), s)

/-- R248, R267: the low `n` bytes of `v` written into the L1D of the core; a store of 8 bytes clears its word's poison. -/
def l1dStore (s : State) (core pa n v : Nat) : State :=
  let (l, s) := allocLine s core (pa / 64)
  let sh := 8 * (pa % 64)
  let field := BitVec.ofNat 512 ((2 ^ (8 * n) - 1) * 2 ^ sh)
  putLine s { l with
    data := (l.data &&& ~~~field) ||| BitVec.ofNat 512 (v % 2 ^ (8 * n) * 2 ^ sh)
    dirty := l.dirty ||| BitVec.ofNat 64 ((2 ^ n - 1) * 2 ^ (pa % 64))
    poison := if n = 8 then l.poison &&& ~~~(BitVec.ofNat 8 (2 ^ (pa % 64 / 8))) else l.poison }

end Sys2Proof.Machine
end

