-- ==== Sys2Proof/Machine/Access.lean ====
section
/-!
DEFINITION. The vector agent's and the engines' way to memory: probe tokens (R213, R216), the messages to other modules
(R342, R343), notification records (R324, R325, R349), the remote-line buffer (R295), one element read or written at its storage (R217, R268), and the engine
transfers held by the interlock table (R232, R273, R297).
-/
namespace Sys2Proof.Machine

/-- How an effect ends: done, with a trap, or held until another agent acts (the instruction stays at its pc). -/
inductive Res (α : Type) where
  | ok (a : α) (s : State)
  | trap (t : Trap) (s : State)
  | hold (s : State)

/-- One effect and then another. -/
def Res.andThen {α β : Type} (r : Res α) (f : α → State → Res β) : Res β :=
  match r with
  | .ok a s => f a s
  | .trap t s => .trap t s
  | .hold s => .hold s

/-- The state an effect ends in, however it ends: that of an engine that goes on as far as it can. -/
def Res.state {α : Type} : Res α → State
  | .ok _ s => s
  | .trap _ s => s
  | .hold s => s

/-- How a loop over elements ends; a trap or a hold names its element. -/
inductive LoopEnd where
  | done (s : State)
  | trap (e : Nat) (t : Trap) (s : State)
  | hold (e : Nat) (s : State)

/-- R13, R131: `f` on the `n` elements from `e` upward, stopping at the first that does not complete. -/
def elemLoop (f : Nat → State → Res Unit) : Nat → Nat → State → LoopEnd
  | 0, _, s => .done s
  | n + 1, e, s =>
    match f e s with
    | .ok _ s => elemLoop f n (e + 1) s
    | .trap t s => .trap e t s
    | .hold s => .hold e s

/-- `f` on the `n` numbers from `e` upward, one after the other. -/
def resLoop (f : Nat → State → Res Unit) : Nat → Nat → State → Res Unit
  | 0, _, s => .ok () s
  | n + 1, e, s => (f e s).andThen fun _ s => resLoop f n (e + 1) s

/-! ### Messages (R342, R343) -/

/-- R342: a header flit from its eight words. -/
def headerOf (w : List Word) : BitVec 512 :=
  BitVec.ofNat 512 (w.foldr (fun x acc => x.toNat + 2 ^ 64 * acc) 0)

/-- R341: NODE has been written: until then the module sends no message. -/
def canSend (s : State) : Bool := bits s.ctl.node 0 12 != 0xFFF

/-- R342: the header of a message of this module to node `dst`. -/
def msgHeader (s : State) (typ dst tag op status len : Nat) (addr arg0 arg1 : Word) : BitVec 512 :=
  headerOf [BitVec.ofNat 64 (typ * 2 ^ 60 + bits s.ctl.node 0 12 * 2 ^ 44 + dst % 2 ^ 12 * 2 ^ 32 + tag % 2 ^ 32),
    BitVec.ofNat 64 (op % 256 * 2 ^ 40 + status % 256 * 2 ^ 32 + len % 2 ^ 13), addr, arg0, arg1, 0, 0, 0]

/-- A message sent, if the module may send. -/
def sendMessage (s : State) (m : Message) : State := if canSend s then { s with sent := m :: s.sent } else s

/-- R352, R351: ADDR of a request for fabric address `pa`: OFFSET, on a connection RVA + OFFSET (log 79), and 0 for a parcel. -/
def requestAddr (s : State) (typ pa : Nat) : Word :=
  let off := BitVec.ofNat 64 (fabricOffset pa)
  if typ = 5 then 0
  else if isConnection pa then ((connection s (fabricNode pa - 0xC00)).map fun r => recWord r 2 + off).getD off
  else off

/-- R351: RKEY of the connection that holds `pa`, which an RDMA request carries; otherwise `arg1`. -/
def requestArg1 (s : State) (typ pa : Nat) (arg1 : Word) : Word :=
  if isConnection pa ∧ typ ≤ 1 then
    ((connection s (fabricNode pa - 0xC00)).map fun r => BitVec.ofNat 64 (bits (recWord r 1) 0 32)).getD arg1
  else arg1

/-- R343, R352: a request of TYPE `typ` sent to the module, or on the connection, that holds fabric address `pa`, under the
next TAG, and its entry among the outstanding requests. Where it fails, `report` is posted. -/
def sendReporting (s : State) (typ pa op len : Nat) (arg0 arg1 : Word) (data : List (Word × Bool)) (isle : Nat)
    (hart : Option (Nat × Nat)) (element : Nat) (report : Option (BitVec 256)) : State :=
  if canSend s || isConnection pa then
    let m : Message :=
      ⟨msgHeader s typ (fabricNode pa) s.nextTag op 0 len (requestAddr s typ pa) arg0 (requestArg1 s typ pa arg1), data⟩
    { s with
      sent := m :: s.sent
      nextTag := (s.nextTag + 1) % 2 ^ 32
      requests := s.requests ++ [⟨s.nextTag, typ, pa, len, isle, hart, element, s.clk, report, false⟩] }
  else s

/-- The same where nothing is posted. -/
def sendRequest (s : State) (typ pa op len : Nat) (arg0 arg1 : Word) (data : List (Word × Bool)) (isle : Nat)
    (hart : Option (Nat × Nat)) (element : Nat) : State :=
  sendReporting s typ pa op len arg0 arg1 data isle hart element none

/-- The name of a hart: its GANGID and member number; for a hart of no gang, which keeps its slot (R324, R357), 0 and its
HARTID. -/
def Hart.name (h : Hart) : Nat × Nat :=
  if bits h.csr.gangid 0 32 = 0 then (0, bits h.csr.hartid 0 11) else (bits h.csr.gangid 0 32, bits h.csr.member 0 6)

/-- The name of the hart under the cursor. -/
def hartName (s : State) : Nat × Nat := s.hart.name

/-- The hart under the cursor replaced. -/
def setHart (s : State) (h : Hart) : State := { s with hart := h }

/-- R37, R39: vector register number `r` takes a tag, and its VDIRTY bit is set. -/
def Hart.retag (h : Hart) (r : Nat) (t : BitVec 32) : Hart :=
  { h with
    v := h.v.set (r % 32) { h.v[r % 32]'(Nat.mod_lt _ (by decide)) with tag := t } (Nat.mod_lt _ (by decide))
    csr := { h.csr with vdirty := h.csr.vdirty ||| (1#64 <<< (r % 32)) } }

/-- R321: an instruction that stands between two elements stops there: its destinations take their tags. -/
def Hart.stopBetween (h : Hart) : Hart :=
  match h.progress with
  | some p => { p.tags.foldl (fun h x => h.retag x.1 x.2) h with progress := Option.none }
  | .none => h

/-! ### Notifications (R324, R325, R349) -/

/-- A register of the mailbox header of an Isle, at byte offset `off`. -/
def mailboxWord (s : State) (isle off : Nat) : Word := loadWord s (mailboxKey isle + off)

/-- R325: a record. -/
def noteRecord (kind gang asid hartid : Nat) (addr info : Word) : BitVec 256 :=
  BitVec.ofNat 256 ((gang % 2 ^ 32) * 2 ^ 32 + (asid % 2 ^ 12) * 2 ^ 20 + (hartid % 2 ^ 11) * 2 ^ 8 + kind % 256 +
    addr.toNat * 2 ^ 64 + info.toNat * 2 ^ 128)

/-- R325: the ring has room. -/
def ringHasRoom (s : State) (isle : Nat) : Bool :=
  (mailboxWord s isle 0 - mailboxWord s isle 8).toNat < 512

/-- R324: the offset of record `index` in the region of core 0. -/
def noteOff (index : Nat) : Nat := 0x113C000 + 32 * (index % 512)

/-- R349: the notify message for record `index` of an Isle: the window form of its fabric address, and the record. -/
def notifyMessage (s : State) (isle index : Nat) (r : BitVec 256) : Message :=
  let node := bits s.ctl.node 0 12
  let addr := 2 ^ 55 + node * 2 ^ 43 + 2 ^ 42 + isle * 2 ^ 38 + noteOff index
  ⟨headerOf [BitVec.ofNat 64 (6 * 2 ^ 60 + node * 2 ^ 44 + bits s.ctl.host 0 12 * 2 ^ 32), 0, BitVec.ofNat 64 addr, 0,
    r.extractLsb' 0 64, r.extractLsb' 64 64, r.extractLsb' 128 64, r.extractLsb' 192 64], []⟩

/-- R325: a record written to the ring of an Isle, NTAIL increased, and the host notified when `toHost`. -/
def deliverNote (s : State) (isle : Nat) (r : BitVec 256) (toHost : Bool) : State × Nat :=
  let tail := mailboxWord s isle 0
  let index := tail.toNat % 512
  let s := storeBytes s (coreKey (isle * 64) (noteOff index)) 32 r.toNat
  let s := storeBytes s (mailboxKey isle) 8 (tail + 1).toNat
  (if toHost then sendMessage s (notifyMessage s isle index r) else s, index)

/-- R325: a record written at once, or held in order while the ring is full (log 76). Its index, if written. -/
def postRecordNote (s : State) (isle : Nat) (n : HeldNote) : State × Option Nat :=
  let i := isle % 8
  let c := s.isles[i]'(Nat.mod_lt _ (by decide))
  if c.heldNotes.isEmpty ∧ ringHasRoom s i then
    let (s, x) := deliverNote s i n.record n.toHost
    (s, some x)
  else
    ({ s with isles := s.isles.set i { c with heldNotes := c.heldNotes ++ [n] } (Nat.mod_lt _ (by decide)) }, none)

/-- R325: a notification for which no hart waits. -/
def postNote (s : State) (isle kind gang asid hartid : Nat) (addr info : Word) (toHost : Bool) : State × Option Nat :=
  postRecordNote s isle ⟨noteRecord kind gang asid hartid addr info, toHost, none⟩

/-- R352, R362: a poisoned word leaves on a connection as zero: one uncorrectable event, of no location, and kind 0x09 with the
word's physical address in main memory (log 84). -/
def poisonLeft (isle : Nat) (s : State) (k : Nat) : State :=
  (postNote { s with rasEvents := s.rasEvents ++ [⟨0, s.clk, false⟩] } isle 0x09 0 0 0 0
    (if isMainKey k then BitVec.ofNat 64 k else 0) true).1

/-! ### Memory of other modules (R294, R295) -/

/-- R295: the line of the Isle's remote-line buffer that holds fabric address `pa`. -/
def rlbFind (s : State) (isle pa : Nat) : Option RemoteLine :=
  s.rlb.find? fun l => decide (l.isle = isle) && decide (l.line = pa / 64)

/-- R295: the lines of the Isle that `f` tells are dropped; a read of one that is under way brings nothing to the buffer. -/
def rlbDropWhere (s : State) (isle : Nat) (f : Nat → Bool) : State :=
  { s with
    rlb := s.rlb.filter fun l => !(decide (l.isle = isle) && f l.line)
    requests := s.requests.map fun r => if r.typ = 0 ∧ r.isle = isle ∧ f (r.addr / 64) = true then { r with stale := true } else r }

/-- R295: a store of the Isle to a remote line drops it. -/
def rlbDrop (s : State) (isle pa : Nat) : State := rlbDropWhere s isle fun l => decide (l = pa / 64)

/-- R295: an acquire at DOMAIN or SYSTEM drops every line of the Isle. -/
def rlbFlush (s : State) (isle : Nat) : State := rlbDropWhere s isle fun _ => true

/-- The hart of the name, wherever it stands. -/
def findHart (s : State) (g m : Nat) : Option Hart := s.harts.find? fun h => h.name == (g, m)

/-- A write or an atomic to another module or a connection. -/
def Request.stores (r : Request) : Bool := r.typ == 1 || r.typ == 2

/-- Writes and atomics of the hart itself whose acknowledgement is outstanding (R296). -/
def ownWritesPending (s : State) (g m : Nat) : Bool := s.requests.any fun r => r.hart == some (g, m) && r.stores

/-- R291, R296: writes and atomics whose acknowledgement a release of the hart at DOMAIN or SYSTEM waits for: its own, and those it
has acquired after. -/
def remoteWritesPending (s : State) (g m : Nat) : Bool :=
  ownWritesPending s g m ||
    (findHart s g m).any fun h => s.requests.any fun r => r.stores && decide (r.tag ∈ h.covered)

/-- R296: the TAGs of the writes and atomics to other modules that are not acknowledged. -/
def unacknowledged (s : State) : List Nat := (s.requests.filter Request.stores).map Request.tag

/-- R291: an acquire of the hart under the cursor: its later releases cover every write to another module that is outstanding. -/
def coverWrites (s : State) : State :=
  setHart s { s.hart with covered := unacknowledged s }

/-- R271 rule 1, R295: the hart has a store to the line under way. -/
def remoteStorePending (s : State) (g m pa : Nat) : Bool :=
  s.requests.any fun r => r.hart == some (g, m) && r.stores && decide (r.addr / 64 = pa / 64)

/-- R295, R345: `n` bytes at fabric address `pa` read by an agent of the Isle: from its remote-line buffer, or the agent
waits for the line, which the Isle asks the other module for once; a read that the line's dropping has overtaken is not joined
(log 81). -/
def engineRemoteLoad (s : State) (isle pa n : Nat) (hart : Option (Nat × Nat)) : Res (Nat × Bool) :=
  match rlbFind s isle pa with
  | some l => .ok (l.data.toNat / 2 ^ (8 * (pa % 64)) % 2 ^ (8 * n), l.poison.getLsbD (pa % 64 / 8)) s
  | none =>
    if s.requests.any (fun r => r.typ == 0 && !r.stale && decide (r.isle = isle) && decide (r.addr = pa / 64 * 64)) then .hold s
    else .hold (sendRequest s 0 (pa / 64 * 64) 0 64 0 0 [] isle hart 0)

/-- The same for the hart under the cursor, whose own stores to the line come first (R271). -/
def remoteLoad (s : State) (pa n : Nat) : Res (Nat × Bool) :=
  let (g, m) := hartName s
  if remoteStorePending s g m pa then .hold s
  else engineRemoteLoad s (isleOf s.hart.home) pa n (some (g, m))

/-- R122, R227, R295: a READ of the word at fabric address `pa` that serves the hart alone and passes the remote-line buffer by; the
hart waits for its answer under TYPE `typ` of its waits. -/
def askRead (s : State) (pa typ : Nat) (expect : Word) : State :=
  if canSend s then
    let tag := s.nextTag
    let s := sendRequest s 0 pa 0 8 0 0 [] (isleOf s.hart.home) (some (hartName s)) 0
    setHart s { s.hart with remote := s.hart.remote ++ [⟨tag, typ, pa, expect, none, false⟩] }
  else s

/-- R296, R343: a write of the hart to another module leaves; its acknowledgement comes later. -/
def remoteWrite (s : State) (pa n v : Nat) (poison : Bool) : State :=
  sendRequest (rlbDrop s (isleOf s.hart.home) pa) 1 pa 0 n 0 0 [(BitVec.ofNat 64 (v % 2 ^ (8 * n)), poison)]
    (isleOf s.hart.home) (some (hartName s)) 0

/-- R296: `n` bytes written at fabric address `pa`: the message leaves; its acknowledgement comes later. -/
def remoteStore (s : State) (pa n v : Nat) (poison : Bool) : Res Unit :=
  if canSend s then .ok () (remoteWrite s pa n v poison) else .hold s

/-- R294, R343: an atomic of the 64-bit word at fabric address `pa` leaves, and the hart waits for its answer. -/
def askAtomic (s : State) (pa op : Nat) (arg0 arg1 expect : Word) : Res α :=
  if canSend s then
    let tag := s.nextTag
    let s := rlbDrop s (isleOf s.hart.home) pa
    let s := sendRequest s 2 pa op 8 arg0 arg1 [] (isleOf s.hart.home) (some (hartName s)) 0
    .hold (setHart s { s.hart with remote := s.hart.remote ++ [⟨tag, 2, pa, expect, none, false⟩] })
  else .hold s

/-- R294, R345: what the atomic of the hart at fabric address `pa` has come to: it leaves as `ask` sends it, and once its answer is
there `done` takes the old word, and whether it is a poisoned one because no good reply came. A poisoned word traps (R268). -/
def atomicAnswer (s : State) (pa : Nat) (ask : State → Res α) (done : RemoteWait → Word → Bool → State → Res α) : Res α :=
  match s.hart.remote.find? (fun r => r.typ == 2 && decide (r.addr = pa)) with
  | some r =>
    match r.answer with
    | some (w, p) =>
      let s := setHart s { s.hart with remote := s.hart.remote.filter fun x => x.tag != r.tag }
      if p && !r.lost then .trap ⟨.poison, BitVec.ofNat 64 (pa / 8 * 8)⟩ s else done r w p s
    | none => .hold s
  | none => ask s

/-- R294, R343: an atomic of the 64-bit word at fabric address `pa`: the old value, once the other module has answered. -/
def remoteAtomic (s : State) (pa op : Nat) (arg0 arg1 : Word) : Res (Word × Bool) :=
  atomicAnswer s pa (fun s => askAtomic s pa op arg0 arg1 0) fun _ w p s => .ok (w, p) s

/-! ### Accesses not yet performed (R271-R275) -/

/-- The `m` bytes at one site and the `n` bytes at another share a byte (R271). -/
def Site.meets (a : Site) (m : Nat) (b : Site) (n : Nat) : Bool :=
  match a, b with
  | .key x, .key y => decide (x < y + n) && decide (y < x + m)
  | .remote x, .remote y => decide (x < y + n) && decide (y < x + m)
  | _, _ => false

/-- The entry writes a byte of the `n` bytes at key `k`. -/
def Pending.meets (p : Pending) (k n : Nat) : Bool :=
  match p with
  | .store a m _ _ => decide (a < k + n) && decide (k < a + m)
  | .atomic a m _ => decide (a < k + n) && decide (k < a + m)
  | .barrier => false

/-- R277: two stores of one vector instruction to one aligned word of eight bytes, which are performed together. -/
def Pending.joins (p x : Pending) : Bool :=
  match p, x with
  | .store a _ _ i, .store b _ _ j => i == j && a / 8 == b / 8
  | _, _ => false

/-- R271: the older entry is performed before the younger: they share a byte, or one of them is a barrier. -/
def Pending.before (p x : Pending) : Bool :=
  match p, x with
  | .barrier, _ => true
  | _, .barrier => true
  | p, .store k n _ _ => p.meets k n
  | p, .atomic k n _ => p.meets k n

/-- How many entries of the queue, from the oldest on, are performed so that none that `f` tells remains. -/
def reach (f : Pending → Bool) (q : List Pending) : Nat :=
  q.zipIdx.foldl (fun c x => if f x.1 then x.2 + 1 else c) 0

/-- The queues of the hart under the cursor replaced. -/
def setOrder (s : State) (o : AgentQueues) : State := setHart s { s.hart with order := o }

/-- R120: the hart's vector agent has written to the line of key `k` in memory. -/
def noteWritten (s : State) (k : Nat) : State :=
  if isMainKey k then setHart s { s.hart with written := insertRising s.hart.written (k / 64) } else s

/-- R272: one entry of the scalar store queue is performed: into the L1D, or at the window's storage. -/
def performScalarEntry (s : State) (p : Pending) : State :=
  let put (k n v : Nat) : State := if isMainKey k then l1dStore s s.hart.home k n v else storeAgent s k n v
  match p with
  | .store k n v _ => put k n v
  | .atomic k n v => put k n v
  | .barrier => s

/-- R272: one store of the vector agent is performed at its storage. -/
def performVectorEntry (s : State) (p : Pending) : State :=
  match p with
  | .store k n v _ => noteWritten (clearCovered (promoteChunk (putAgent s k n v) k) [(k, n)]) k
  | .atomic _ _ _ => s
  | .barrier => s

/-- The `c` oldest entries of the scalar store queue are performed. -/
def performScalar (s : State) (c : Nat) : State :=
  if c = 0 then s
  else
    let o := s.hart.order
    (o.scalar.take c).foldl performScalarEntry (setOrder s { o with scalar := o.scalar.drop c })

/-- The stores of the vector agent that `go` tells, by their places, are performed in their order. -/
def performThose (s : State) (go : Pending × Nat → Bool) : State :=
  let o := s.hart.order
  let (now, rest) := o.vector.zipIdx.partition go
  (now.map (·.1)).foldl performVectorEntry (setOrder s { o with vector := rest.map (·.1) })

/-- The `c` oldest stores of the vector agent are performed, and with them those that are performed together with one of them. -/
def performVector (s : State) (c : Nat) : State :=
  if c = 0 then s
  else
    let first := s.hart.order.vector.take c
    performThose s fun x => decide (x.2 < c) || first.any x.1.joins

/-- R271: the scalar agent's own stores to the `n` bytes at key `k` are performed. -/
def performScalarOver (s : State) (k n : Nat) : State := performScalar s (reach (fun p => p.meets k n) s.hart.order.scalar)

/-- R284: so are its atomics of scope HART there, before the vector agent writes. -/
def performAtomicsOver (s : State) (k n : Nat) : State :=
  performScalar s (reach (fun p => match p with | .atomic _ _ _ => p.meets k n | _ => false) s.hart.order.scalar)

/-- R273: the vector agent's stores to the `n` bytes at key `k` are performed. -/
def performVectorOver (s : State) (k n : Nat) : State := performVector s (reach (fun p => p.meets k n) s.hart.order.vector)

/-- R120: the vector agent's stores before its latest FENCE.VV are performed, before a later access of it is. -/
def passBarrier (s : State) : State := performVector s (reach (· == .barrier) s.hart.order.vector)

/-- R271: the entries of a queue that `go` tells may be performed: none of the others is before one of them. -/
def mayPerform (q : List Pending) (go : Pending × Nat → Bool) : Bool :=
  q.zipIdx.all fun x => !go x || q.zipIdx.all fun y => decide (x.2 ≤ y.2) || go y || !y.1.before x.1

/-- R271, R275, R277: entry `i` of the scalar store queue, or of the vector agent's stores with those that join it, of the hart under
the cursor is performed, if it may be. -/
def performEntry (s : State) (scalar : Bool) (i : Nat) : State :=
  let o := s.hart.order
  if scalar then
    match o.scalar[i]? with
    | some p =>
      if mayPerform o.scalar (fun x => x.2 == i) then performScalarEntry (setOrder s { o with scalar := o.scalar.eraseIdx i }) p else s
    | none => s
  else
    match o.vector[i]? with
    | some p =>
      let go (x : Pending × Nat) : Bool := x.2 == i || x.1.joins p
      if mayPerform o.vector go then performThose s go else s
    | none => s

/-- R275: the agents of the hart under the cursor lag from now on, or do not: what an agent that no longer lags has issued is
performed. -/
def setLag (s : State) (scalar vector : Bool) : State :=
  let s := if scalar then s else performScalar s s.hart.order.scalar.length
  let s := if vector then s else performVector s s.hart.order.vector.length
  setOrder s { s.hart.order with
    lagScalar := scalar, lagVector := vector, shadows := if vector then s.hart.order.shadows else [] }

/-- The byte at key `a`, `b` but for the entries that write it. -/
def byteUnder (q : List Pending) (a b : Nat) : Nat :=
  q.foldl (fun b p => match p with
    | .store k n v _ => if k ≤ a ∧ a < k + n then v / 256 ^ (a - k) % 256 else b
    | .atomic k n v => if k ≤ a ∧ a < k + n then v / 256 ^ (a - k) % 256 else b
    | .barrier => b) b

/-- The `n` bytes `v` from key `k` with what the entries write over them. -/
def bytesUnder (q : List Pending) (k v : Nat) : Nat → Nat
  | 0 => 0
  | n + 1 => byteUnder q k (v % 256) + 256 * bytesUnder q (k + 1) (v / 256) n

/-- R271, R277: what a scalar load of `n` bytes at key `k` gets where the storage or the L1D gives `v`: the hart's own stores
still in the scalar store queue come first, and an atomic of its vector agent may not have been performed for it yet. -/
def ownView (s : State) (k n v : Nat) : Nat :=
  let o := s.hart.order
  if o.scalar.isEmpty && o.shadows.isEmpty then v
  else bytesUnder (o.shadows.map (fun x => Pending.atomic x.1 x.2.1 x.2.2) ++ o.scalar) k v n

/-- R271: the scalar agent has written, read for an acquire, or acted atomically on, the `n` bytes at key `k`: a later load of it
there follows the vector agent's atomics. -/
def dropShadows (s : State) (k n : Nat) : State :=
  if s.hart.order.shadows.isEmpty then s
  else setOrder s { s.hart.order with
    shadows := s.hart.order.shadows.filter fun x => !(decide (x.1 < k + n) && decide (k < x.1 + x.2.1)) }

/-- The same for every byte. -/
def noShadows (s : State) : State :=
  if s.hart.order.shadows.isEmpty then s else setOrder s { s.hart.order with shadows := [] }

/-- The vector agent lags, in an instruction that has run from its first element on: one that goes on later does not lag, so that no
aligned word of eight bytes is performed in parts (R277, log 8). -/
def lags (s : State) : Bool := s.hart.order.lagVector && s.hart.csr.vstart == 0 && s.hart.progress.isNone

/-- R277: an atomic of the vector agent has replaced the `n` bytes `old` at key `k`. -/
def castShadow (s : State) (k n old : Nat) : State :=
  if !lags s then dropShadows s (k / 8 * 8) 8
  else if (l1dFind s s.hart.home (k / 64)).isNone then
    setOrder s { s.hart.order with shadows := (k, n, old) :: s.hart.order.shadows }
  else s

/-! ### Streams (R230, R231) -/

/-- R230: HMODE, HNUM, WR and the element width of the control word. -/
def Stream.hmode (f : Stream) : Bool := bit f.ctl 8
def Stream.hnum (f : Stream) : Nat := bits f.ctl 9 4
def Stream.writes (f : Stream) : Bool := bit f.ctl 7
def Stream.width (f : Stream) : Nat := 4 * 2 ^ bits f.ctl 0 3

/-- Stream `i` of the hart under the cursor replaced. -/
def setStream (s : State) (i : Nat) (f : Option Stream) : State :=
  if hi : i < 8 then setHart s { s.hart with f := s.hart.f.set i f } else s

/-- R231, R273: a buffered store of a write stream of width `w` is performed at the place SWR gave it. The home core's L1D
gives up the line written (R278). -/
def performItem (s : State) (w : Nat) (x : StreamItem) : Res Unit :=
  match x.site with
  | none => .ok () s
  | some (.key k) =>
    let s := promoteChunk (putElement s k w x.nib x.value.toNat) k
    let s := clearCovered s (if w = 4 then [] else [(k, elemBytes w)])
    .ok () (dropLines (noteWritten (if x.poison then poisonKey s k else s) k) s.hart.home fun l => decide (l = k / 64))
  | some (.remote pa) =>
    if !canSend s then .hold s
    else if w = 4 then
      (remoteLoad s pa 1).andThen fun (old, _) s => .ok () (remoteWrite s pa 1 (withNibble old x.nib x.value.toNat) x.poison)
    else .ok () (remoteWrite s pa (elemBytes w) x.value.toNat x.poison)

/-- R231: `n` buffered stores of stream `i` performed, the oldest first. -/
def streamDrain (i : Nat) : Nat → State → Res Unit
  | 0, s => .ok () s
  | n + 1, s =>
    if hi : i < 8 then
      match s.hart.f[i] with
      | some f =>
        match f.writes, f.buf with
        | true, x :: rest =>
          (performItem s f.width x).andThen fun _ s =>
            streamDrain i n (setStream s i (some { f with buf := rest, moved := f.moved + 1 }))
        | _, _ => .ok () s
      | none => .ok () s
    else .ok () s

/-- R273: the stream holds a store to a byte of the `n` bytes at the site. -/
def streamMeets (f : Stream) (site : Site) (n : Nat) : Bool :=
  f.writes && f.buf.any fun x => x.site.any fun a => a.meets (elemBytes f.width) site n

/-- The write streams of the hart that `f` tells are drained. -/
def drainWhere (f : Stream → Bool) (s : State) : Res Unit :=
  resLoop (fun i s =>
    if hi : i < 8 then
      match s.hart.f[i] with
      | some x => if f x then streamDrain i x.buf.length s else .ok () s
      | none => .ok () s
    else .ok () s) 8 0 s

/-! ### Engine transfers (R232, R273, R297) -/

/-- The bytes of one segment. -/
def segBytes : Nat := 8

/-- Does the transfer read or write, or only write, a byte of the `n` bytes at the site? -/
def transferTouches (t : Transfer) (site : Site) (n : Nat) (written : Bool) : Bool :=
  t.segs.any fun g => g.dst.meets segBytes site n || (!written && g.src.meets segBytes site n)

/-- The word of a segment as its source holds it, and its poison. A remote word is the one that has arrived, or poison. -/
def segWord (s : State) (t : Transfer) (g : Segment) : Word × Bool :=
  match g.src with
  | .key k => (loadWord s k, poisoned s k segBytes)
  | .remote pa =>
    match t.arrived.find? fun a => decide (a.1 = pa) with
    | some a => a.2
    | none => (0, true)

/-- The lines of main memory that the transfer writes. -/
def transferWritesLine (t : Transfer) (line : Nat) : Bool :=
  t.segs.any fun g => match g.dst with | .key d => decide (d / 64 = line) | .remote _ => false

/-- R341: a message on a connection as the table stood when the transfer began. -/
def underTable (t : Transfer) (f : State → State) (s : State) : State :=
  let s' := f { s with ctl := { s.ctl with ctbase := t.ctbase, ctcnt := t.ctcnt } }
  { s' with ctl := { s'.ctl with ctbase := s.ctl.ctbase, ctcnt := s.ctl.ctcnt } }

/-- R232, R268: the transfer performed: every word is read before any is written; poisoned words arrive poisoned. Words for
another module leave as write messages, or as RDMA WRITE of zeros where poisoned (R352). The home core's L1D then gives up
the lines written, with what stores of the scalar agent have put there (R278); those still in its queue follow later (R275, R276). -/
def performTransfer (s : State) (t : Transfer) : State :=
  let ws := t.segs.map fun g => (g.dst, segWord s t g)
  let left := t.segs.filterMap fun g => match g.dst, g.src with
    | .remote pa, .key k => if isConnection pa && (segWord s t g).2 then some k else none
    | _, _ => none
  let s := left.foldl (poisonLeft (isleOf t.home)) s
  let s := ws.foldl (fun s w => match w.1 with
    | .key k => noteWritten (promoteChunk (putAgent s k segBytes w.2.1.toNat) k) k
    | .remote pa =>
      let zero := isConnection pa && w.2.2
      underTable t (fun s => sendRequest s 1 pa 0 segBytes 0 0 [if zero then (0, false) else w.2]
        (isleOf t.home) (some (hartName s)) 0) (rlbDrop s (isleOf t.home) pa)) s
  let s := clearCovered s (ws.filterMap fun w => match w.1 with | .key k => some (k, segBytes) | .remote _ => none)
  let s := ws.foldl (fun s w => match w.1 with | .key k => if w.2.2 then poisonKey s k else s | .remote _ => s) s
  dropLines s t.home (transferWritesLine t)

/-- A transfer waits for words of other modules. -/
def transferWaits (t : Transfer) : Bool := !t.tags.isEmpty

/-- The transfers of the hart under the cursor performed, in order, up to the first that waits for another module. -/
def settleTransfers : List Transfer → State → State
  | [], s => setHart s { s.hart with transfers := [] }
  | t :: r, s =>
    if transferWaits t then setHart s { s.hart with transfers := t :: r }
    else settleTransfers r (performTransfer s t)

/-- R273: an access of the hart to `n` bytes at a site waits for the transfers that it reads the destination of or that it
writes a range of, and for the buffered stores of streams there: they are performed first. -/
def engineInterlock (s : State) (site : Site) (n : Nat) (writes : Bool) : Res Unit :=
  let r : Res Unit :=
    if s.hart.transfers.any fun t => transferTouches t site n (!writes) then
      let s := settleTransfers s.hart.transfers s
      if s.hart.transfers.isEmpty then .ok () s else .hold s
    else .ok () s
  r.andThen fun _ s => drainWhere (fun f => streamMeets f site n) s

/-- R273: an access of the vector agent that is performed now also waits for its own earlier stores there and, where it writes, for
the scalar agent's atomics of scope HART (R284); it follows what the latest FENCE.VV holds back (R120). -/
def interlock (s : State) (site : Site) (n : Nat) (writes : Bool) : Res Unit :=
  (engineInterlock (passBarrier s) site n writes).andThen fun _ s =>
    match site with
    | .key k => .ok () (let s := performVectorOver s k n; if writes then performAtomicsOver s k n else s)
    | .remote _ => .ok () s

/-! ### Probe tokens (R213, R216) -/

/-- The token of a register number. -/
def Hart.token (h : Hart) (q : BitVec 3) : Token := h.q[q.toNat]

/-- R119: TVAL of NO_PROBE. -/
def noProbeTval (a : Word) (q : BitVec 3) : Word := BitVec.ofNat 64 (bits a 0 52 + q.toNat * 2 ^ 56)

/-- R216: the `n` bytes from `a` lie in the token's window. That of q0 is every address with [51:48] = 0xF (R249). -/
def tokenCovers (t : Token) (q : BitVec 3) (a : Word) (n : Nat) : Bool :=
  if q = 0 then bits a 48 4 == 0xF && decide (bits a 0 48 + n ≤ 2 ^ 48)
  else t.live && decide (t.base.toNat ≤ a.toNat) && decide (a.toNat + n ≤ t.base.toNat + t.len.toNat)

/-- R213: the pinned translation of `va`. -/
def pinned (pins : List Pin) (va : Nat) : Option Nat :=
  (pins.find? fun p => decide (p.va ≤ va) && decide (va < p.va + p.size)).map fun p => p.pa + (va - p.va)

/-- R216, R251, R340: where the `n` bytes from `a` lie, reached through token `q` by core `self`: NO_PROBE outside the
window, ADDR_RANGE for a store under W = 0, for window addresses that map no storage or are denied, and for a connection's
page unless `engine`. -/
def tokenSite (s : State) (self : Nat) (q : BitVec 3) (a : Word) (n : Nat) (store engine : Bool) : Except Trap Site :=
  let t := s.hart.token q
  if !tokenCovers t q a n then .error ⟨.noProbe, noProbeTval a q⟩
  else if store && !t.w then .error ⟨.addrRange, a⟩
  else if q = 0 then
    match windowLanding s s.hart self a n false with
    | some (.window k) => .ok (.key k)
    | _ => .error ⟨.addrRange, a⟩
  else
    match pinned t.pins a.toNat with
    | some pa =>
      if pa < mainBytes then .ok (.key pa)
      else if isConnection pa && !engine then .error ⟨.addrRange, a⟩
      else .ok (.remote pa)
    | none => .error ⟨.noProbe, noProbeTval a q⟩

/-- R119: TVAL of POISON for a memory word: the physical address for translated memory, the window address otherwise. -/
def poisonTval (site : Site) (a : Word) : Word :=
  match site with
  | .key k => if isMainKey k then BitVec.ofNat 64 (k / 8 * 8) else BitVec.ofNat 64 (a.toNat / 8 * 8)
  | .remote pa => BitVec.ofNat 64 (pa / 8 * 8)

/-- R217: `n` bytes at a site read by the vector agent; a poisoned word traps POISON. -/
def siteLoad (s : State) (site : Site) (a : Word) (n : Nat) : Res Nat :=
  (interlock s site n false).andThen fun _ s =>
    match site with
    | .key k => if poisoned s k n then .trap ⟨.poison, poisonTval site a⟩ s else .ok (readLE s.mem k n) s
    | .remote pa =>
      (remoteLoad s pa n).andThen fun (v, p) s => if p then .trap ⟨.poison, poisonTval site a⟩ s else .ok v s

/-- R217, R272, R277: `n` bytes at a site written by the vector agent: at once, after what its instruction has left in the queue for
that word, or, while it lags, when its store is performed. Stores to the same bytes keep their order in the queue (R273). A store to a
poisoned unit does not lag; poison is settled when the instruction ends (`clearCovered`). -/
def siteStore (s : State) (site : Site) (n v : Nat) : Res Unit :=
  match site with
  | .key k =>
    let p : Pending := .store k n v s.hart.csr.retired.toNat
    if lags s && !poisoned s k n then
      (engineInterlock s site n true).andThen fun _ s =>
        .ok () (let s := performAtomicsOver s k n; setOrder s { s.hart.order with vector := s.hart.order.vector ++ [p] })
    else (interlock s site n true).andThen fun _ s =>
      let s := performVector s (reach p.joins s.hart.order.vector)
      .ok () (noteWritten (promoteChunk (putAgent s k n v) k) k)
  | .remote pa => (interlock s site n true).andThen fun _ s => remoteStore s pa n v false

end Sys2Proof.Machine
end

