-- ==== Sys2Proof/Machine/Tensor.lean ====
section
/-!
DEFINITION. Tensor handles: the record of R222, the layouts of R223, the tile-state table and the units of a relayout
(R226, R227), and where an element of a handle lies.
-/
namespace Sys2Proof.Machine

/-! ### The handle record (R222) -/

abbrev Handle := BitVec 512

def Handle.base (h : Handle) : Word := recWord h 0
def Handle.oldBase (h : Handle) : Word := recWord h 1
def Handle.info (h : Handle) : Word := recWord h 2
def Handle.rly (h : Handle) : Bool := bit h.info 63
def Handle.otok (h : Handle) : BitVec 3 := BitVec.ofNat 3 (bits h.info 60 3)
def Handle.tok (h : Handle) : BitVec 3 := BitVec.ofNat 3 (bits h.info 29 3)
def Handle.rank (h : Handle) : Nat := bits h.info 8 3
def Handle.etype (h : Handle) : Nat := bits h.info 0 5
def Handle.tstab (h : Handle) : Word := recWord h 3
def Handle.ccnt (h : Handle) : Word := recWord h 4
/-- Extent of dimension d. -/
def Handle.extent (h : Handle) (d : Nat) : Nat := bits (recWord h (5 + d / 2)) (32 * (d % 2)) 32
/-- The extents of dimensions 0 to RANK-1. -/
def Handle.extents (h : Handle) : List Nat := (List.range h.rank).map h.extent

/-- A layout: LTAG, PERM, and the tile height and width. -/
structure Layout where
  ltag : Nat
  perm : Nat
  th : Nat
  tw : Nat
  deriving DecidableEq, Repr

/-- R222: the layout fields of a word that holds them at [28:14]. -/
def layoutOf (w : Word) : Layout :=
  { ltag := bits w 14 2, perm := bits w 22 7, th := bits w 16 3, tw := bits w 19 3 }
/-- The current layout and, while RLY = 1, the old one. -/
def Handle.layout (h : Handle) : Layout := layoutOf h.info
def Handle.oldLayout (h : Handle) : Layout :=
  { ltag := bits h.info 45 2, perm := bits h.info 53 7, th := bits h.info 47 3, tw := bits h.info 50 3 }

/-- n! -/
def fact : Nat → Nat
  | 0 => 1
  | n + 1 => (n + 1) * fact n

/-- R222: the codes of a layout obey the rules for the rank. -/
def layoutOk (l : Layout) (rank : Nat) : Bool :=
  decide (l.ltag ≤ 2) && decide (l.th ≤ 4) && decide (l.tw ≤ 4) &&
  (if l.ltag = 0 then l.th == 0 && l.tw == 0 && decide (l.perm < fact rank) else l.perm == 0 && decide (2 ≤ rank))

/-- R222: the rules the device checks on a record. -/
def Handle.ok (h : Handle) : Bool :=
  decide (1 ≤ h.rank) && decide (h.rank ≤ 5) && decide (1 ≤ h.etype) && decide (h.etype ≤ 15) &&
  bits h.base 52 12 == 0 &&
  bits h.info 32 13 == 0 && bits h.info 11 3 == 0 && bits h.info 5 3 == 0 && bits (recWord h 7) 32 32 == 0 &&
  (List.range 5).all (fun d => if d < h.rank then h.extent d != 0 else h.extent d == 0) &&
  layoutOk h.layout h.rank &&
  (if h.rly then bits h.oldBase 52 12 == 0 && layoutOk h.oldLayout h.rank
   else h.oldBase == 0 && bits h.info 45 18 == 0)

/-! ### Layouts (R223) -/

/-- The entry of number `code` among the orderings of `l` in lexicographic order; the first argument is its length. -/
def nthPerm : Nat → Nat → List Nat → List Nat
  | 0, _, _ => []
  | n + 1, code, l =>
    let i := code / fact n
    l.getD i 0 :: nthPerm n (code % fact n) (l.eraseIdx i)

/-- R223, STRIDED. -/
def stridedOffset (perm : Nat) (ext coords : List Nat) : Nat :=
  (nthPerm ext.length perm (List.range ext.length)).foldl (fun o d => o * ext.getD d 1 + coords.getD d 0) 0

/-- `n` rounded up to a multiple of `k`. -/
def roundUp (n k : Nat) : Nat := (n + k - 1) / k * k

/-- R223: the element offset of the coordinates. -/
def layoutOffset (l : Layout) (ext coords : List Nat) : Nat :=
  let ρ := ext.length
  if l.ltag = 0 then stridedOffset l.perm ext coords
  else
    let th := 8 * 2 ^ l.th
    let tw := 8 * 2 ^ l.tw
    let hp := roundUp (ext.getD (ρ - 2) 1) th
    let wp := roundUp (ext.getD (ρ - 1) 1) tw
    let r := coords.getD (ρ - 2) 0
    let c := coords.getD (ρ - 1) 0
    let u := (List.range (ρ - 2)).foldl (fun o d => o * ext.getD d 1 + coords.getD d 0) 0
    u * hp * wp + r / th * (wp / tw) * th * tw + c / tw * th * tw +
      (if l.ltag = 1 then r % th * tw + c % tw else c % tw * th + r % th)

/-- R223: N, the elements of a region. -/
def layoutElements (l : Layout) (ext : List Nat) : Nat :=
  let ρ := ext.length
  if l.ltag = 0 then ext.foldl (· * ·) 1
  else (ext.take (ρ - 2)).foldl (· * ·) 1 * roundUp (ext.getD (ρ - 2) 1) (8 * 2 ^ l.th) *
    roundUp (ext.getD (ρ - 1) 1) (8 * 2 ^ l.tw)

/-- R34: the width of a TYPE code in bits; plane types count as 16 (R130). -/
def typeWidth (t : Nat) : Nat :=
  match t with
  | 1 => 8 | 2 => 16 | 3 => 32 | 4 => 64 | 5 => 8 | 6 => 16 | 7 => 32 | 8 => 64 | 9 => 64 | 10 => 32 | 11 => 16
  | 12 => 16 | 13 => 8 | 14 => 8 | 15 => 4 | _ => 16

/-- R223: the bytes of a region. -/
def regionBytes (h : Handle) (l : Layout) : Nat := (layoutElements l h.extents * typeWidth h.etype + 7) / 8

/-- An element's byte address and, for 4-bit elements, its nibble (R218, R223). -/
def elementAddress (base : Word) (w o : Nat) : Word × Nat := (base + BitVec.ofNat 64 (o * w / 8), if w = 4 then o % 2 else 0)

/-! ### Units and the tile-state table (R226) -/

/-- R226: the blocks of 128 of the two innermost dimensions; a tensor of rank 1 has units of 16,384 elements. -/
def unitCount (ext : List Nat) : Nat :=
  let ρ := ext.length
  if ρ = 1 then (ext.getD 0 1 + 16383) / 16384
  else (ext.take (ρ - 2)).foldl (· * ·) 1 * ((ext.getD (ρ - 2) 1 + 127) / 128) * ((ext.getD (ρ - 1) 1 + 127) / 128)

/-- R226: the unit of the coordinates. -/
def unitOf (ext coords : List Nat) : Nat :=
  let ρ := ext.length
  if ρ = 1 then coords.getD 0 0 / 16384
  else
    let u := (List.range (ρ - 2)).foldl (fun o d => o * ext.getD d 1 + coords.getD d 0) 0
    (u * ((ext.getD (ρ - 2) 1 + 127) / 128) + coords.getD (ρ - 2) 0 / 128) * ((ext.getD (ρ - 1) 1 + 127) / 128) +
      coords.getD (ρ - 1) 0 / 128

/-- The outer coordinates of row-major index `u` over the extents. -/
def outerCoords : List Nat → Nat → List Nat
  | [], _ => []
  | e :: r, u => u / r.foldl (· * ·) 1 % e :: outerCoords r u

/-- R226, R227: the coordinates of a unit's elements, the padding of the new layout included (rows and columns up to the
padded extents). -/
def unitCoords (l : Layout) (ext : List Nat) (u : Nat) : List (List Nat) :=
  let ρ := ext.length
  if ρ = 1 then (List.range (min 16384 (ext.getD 0 1 - 16384 * u))).map fun i => [16384 * u + i]
  else
    let h := ext.getD (ρ - 2) 1
    let w := ext.getD (ρ - 1) 1
    let rb := (h + 127) / 128
    let cb := (w + 127) / 128
    let hp := if l.ltag = 0 then h else roundUp h (8 * 2 ^ l.th)
    let wp := if l.ltag = 0 then w else roundUp w (8 * 2 ^ l.tw)
    let outer := outerCoords (ext.take (ρ - 2)) (u / (rb * cb))
    let r0 := u / cb % rb * 128
    let c0 := u % cb * 128
    (List.range (min 128 (hp - r0))).flatMap fun i =>
      (List.range (min 128 (wp - c0))).map fun j => outer ++ [r0 + i, c0 + j]

/-- Do the coordinates lie in the tensor? -/
def inExtents : List Nat → List Nat → Bool
  | [], _ => true
  | e :: r, c :: cs => decide (c < e) && inExtents r cs
  | _ :: _, [] => false

/-- R227, R397: the device's way to a word at virtual address `a` of an address space: the window untranslated, any other
address through the page tables, at the storage. A connection's page carries no such access (R340). -/
def deviceSite (s : State) (core : Nat) (asid : BitVec 12) (user : Bool) (k : AccessKind) (a : Word) (n : Nat) :
    Option (Site × State) :=
  if bits a 52 12 ≠ 0 then none
  else if inWindow a then
    match windowPlace s core a with
    | .core c off =>
      if !user || (userResident s c asid && !isMailbox c off) then some (.key (coreKey c off), s) else none
    | _ => none
  else match walk s (isleOf core) asid a.toNat with
    | some l =>
      let pa := l.pa + a.toNat % l.size
      if pteAllows l.pte user k ∧ a.toNat % l.size + n ≤ l.size ∧ ¬ isConnection pa then
        some (if pa < mainBytes then .key pa else .remote pa, setAccessed s l.key (k == .store))
      else none
    | none => none

/-- R226: the address of the table word of unit `u`. -/
def tableWordAddr (h : Handle) (u : Nat) : Word := h.tstab + BitVec.ofNat 64 (u / 32 * 8)

/-- R227, R295: the state of unit `u` in the table word at fabric address `pa`, which the hart asks the other module for (TYPE 4 of
its waits). A unit that was NEW stays so, and its answer serves until an instruction of the hart has retired; any other state is
read again for the next element. -/
def remoteUnitState (s : State) (pa u : Nat) : Res Nat :=
  let now := s.hart.csr.retired
  match s.hart.remote.find? fun r => r.typ == 4 && decide (r.addr = pa) && r.expect == now with
  | some r =>
    match r.answer with
    | some (w, _) =>
      let st := bits w (2 * (u % 32)) 2
      .ok st (if st = 2 then s else setHart s { s.hart with remote := s.hart.remote.filter fun x => x.tag != r.tag })
    | none => .hold s
  | none =>
    .hold (askRead (setHart s { s.hart with remote := s.hart.remote.filter fun x => x.typ != 4 || x.expect == now }) pa 4 now)

/-- R227: the state of unit `u`, read for the hart under the cursor; ADDR_RANGE where the table word has no readable
mapping. -/
def unitState (s : State) (h : Handle) (u : Nat) : Res Nat :=
  let a := tableWordAddr h u
  match deviceSite s s.hart.home s.hart.asid s.hart.user .load a 8 with
  | some (.key k, s) => .ok (bits (loadWord s k) (2 * (u % 32)) 2) s
  | some (.remote pa, s) => remoteUnitState s pa u
  | none => .trap ⟨.addrRange, a⟩ s

/-! ### The Landing engine's work on a relayout (R227) -/

/-- The site of `va` under held translations; a connection's page carries no such access (R340). -/
def heldSite (pins : List Pin) (va : Word) : Option Site :=
  if inWindow va then none
  else match pinned pins va.toNat with
    | some pa => if pa < mainBytes then some (.key pa) else if isConnection pa then none else some (.remote pa)
    | none => none

/-- The site of an address for an engine that holds translations; window addresses are untranslated. -/
def engineSite (s : State) (core : Nat) (pins : List Pin) (va : Word) : Option Site :=
  if inWindow va then
    match windowPlace s core va with
    | .core c off => some (.key (coreKey c off))
    | _ => none
  else heldSite pins va

/-- Where an element of the new region lies, and its nibble. -/
def newPlace (s : State) (r : Relayout) (coords : List Nat) : Option Site × Nat :=
  let h : Handle := r.record
  let (a, nib) := elementAddress h.base (typeWidth h.etype) (layoutOffset h.layout h.extents coords)
  (engineSite s r.core r.newPins a, nib)

/-- Relayout `i` replaced. -/
def setRelayout (s : State) (i : Nat) (r : Relayout) : State := { s with relayouts := s.relayouts.set i r }

/-- R227, R295: the element of `w` bits at fabric address `pa` that relayout `i` reads next: the engine asks the other module for its
word, past the remote-line buffer. -/
def remoteElement (s : State) (i : Nat) (r : Relayout) (pa w nib : Nat) : Res (Nat × Bool) :=
  match r.asked with
  | some (_, some (x, p)) => .ok (takeElement w nib (x.toNat / 2 ^ (8 * (pa % 8)) % 2 ^ (8 * elemBytes w)), p) s
  | some (_, none) => .hold s
  | none =>
    if canSend s then
      .hold (setRelayout (sendRequest s 0 (pa / 8 * 8) 0 8 0 0 [] r.isle none 0) i { r with asked := some (s.nextTag, none) })
    else .hold s

/-- R227: one element of the moving unit of relayout `i` read from its old location with its poison; padding is zero. -/
def fetchElement (s : State) (i : Nat) (r : Relayout) (coords : List Nat) : Res (Nat × Bool) :=
  let h : Handle := r.record
  let w := typeWidth h.etype
  if inExtents h.extents coords then
    let (a, nib) := elementAddress h.oldBase w (layoutOffset h.oldLayout h.extents coords)
    match engineSite s r.core r.oldPins a with
    | some (.key k) => .ok (takeElement w nib (readLE s.mem k (elemBytes w)), poisoned s k (elemBytes w)) s
    | some (.remote pa) => remoteElement s i r pa w nib
    | none => .ok (0, true) s
  else .ok (0, false) s

/-- R227: the elements `coords` of the moving unit of relayout `i` read; what has been read stays with the engine. -/
def fetchUnit (i : Nat) : List (List Nat) → State → Res Unit
  | [], s => .ok () s
  | c :: cs, s =>
    match s.relayouts[i]? with
    | some r =>
      (fetchElement s i r c).andThen fun x s =>
        fetchUnit i cs (setRelayout s i { r with fetched := r.fetched ++ [x], asked := none })
    | none => .ok () s

/-- R343: a nibble of another module's memory written by an atomic AND and an atomic OR, in this order (R344, log 78). -/
def sendNibble (s : State) (isle pa nib v : Nat) : State :=
  let at_ := pa / 8 * 8
  let sh := 8 * (pa % 8) + 4 * nib
  let s := sendRequest s 2 at_ 1 8 (~~~(BitVec.ofNat 64 (15 * 2 ^ sh))) 0 [] isle none 0
  sendRequest s 2 at_ 2 8 (BitVec.ofNat 64 (v % 16 * 2 ^ sh)) 0 [] isle none 0

/-- R227: one element written at its new location. -/
def placeElement (r : Relayout) (s : State) (coords : List Nat) (v : Nat) (poison : Bool) : State :=
  let w := typeWidth (Handle.etype r.record)
  match newPlace s r coords with
  | (some (.key k), nib) => promoteChunk (putElement s k w nib v) k
  | (some (.remote pa), nib) =>
    let s := rlbDrop s r.isle pa
    if w = 4 ∧ poison = false then sendNibble s r.isle pa nib v
    else sendRequest s 1 pa 0 (elemBytes w) 0 0 [(BitVec.ofNat 64 v, poison)] r.isle none 0
  | (none, _) => s

/-- R227, R266: the elements of the moving unit written at their new locations; what the writes replace whole loses its poison,
and poisoned elements arrive poisoned. -/
def placeUnit (r : Relayout) (s : State) : State :=
  let h : Handle := r.record
  let xs := (unitCoords h.layout h.extents (r.moving.getD 0)).zip r.fetched
  let here := xs.filterMap fun x => match newPlace s r x.1 with
    | (some (.key k), nib) => some (k, nib, x.2.2)
    | _ => none
  let s := xs.foldl (fun s x => placeElement r s x.1 x.2.1 x.2.2) s
  let s := clearCovered s (storedRanges (typeWidth h.etype) (here.map fun x => (x.1, x.2.1)))
  here.foldl (fun s x => if x.2.2 then poisonKey s x.1 else s) s

/-- R227: the engine's pins on the old region, the new region and the table released, and CCNT increased when it is not 0. The
add reaches CCNT as supervisor mode would, and where that finds no mapping it is dropped (log 96). -/
def finishRelayout (s : State) (i : Nat) : State :=
  match s.relayouts[i]? with
  | none => s
  | some r =>
    let h : Handle := r.record
    let s := { s with relayouts := s.relayouts.eraseIdx i }
    if h.ccnt = 0 then s
    else match deviceSite s r.core r.asid false .store h.ccnt 8 with
      | some (.key k, s) => storeBytes (promoteChunk s k) k 8 ((loadWord s k).toNat + 1)
      | some (.remote pa, s) => sendRequest (rlbDrop s r.isle pa) 2 pa 0 8 1 0 [] r.isle none 0
      | none => s

/-- Where the table word of unit `u` lies for the Landing engine. -/
def tableKey (s : State) (r : Relayout) (u : Nat) : Option Site :=
  engineSite s r.core r.tabPins (tableWordAddr r.record u)

/-- R227: the engine writes the state of unit `u` into the table: `old` XOR `change`, in one 2-bit write. A table in another
module takes it as an atomic XOR (R343, log 78), which waits until the module may send. -/
def setUnitState (s : State) (r : Relayout) (u state change : Nat) : Res Unit :=
  match tableKey s r u with
  | some (.key k) =>
    .ok () (storeBytes (promoteChunk s k) k 8 (setBits (loadWord s k) (2 * (u % 32)) 2 state).toNat)
  | some (.remote pa) =>
    if canSend s then
      .ok () (sendRequest (rlbDrop s r.isle pa) 2 pa 3 8 (BitVec.ofNat 64 (change * 2 ^ (2 * (u % 32)))) 0 [] r.isle none 0)
    else .hold s
  | none => .ok () s

/-- R227: the state of unit `u` as the engine knows it. -/
def engineUnitState (r : Relayout) (u : Nat) : MoveState :=
  if u ∈ r.finished then .new else if r.moving = some u then .moving else .old

/-- R227: the unit the engine takes next: promoted units in the order of promotion, then the least. -/
def nextUnit (r : Relayout) : Option Nat :=
  match r.promoted.find? fun u => u ∉ r.finished with
  | some u => some u
  | none => (List.range (unitCount (Handle.extents r.record))).find? fun u => u ∉ r.finished

/-- Writes of the engine of the Isle to other modules that are not acknowledged. -/
def engineWritesPending (s : State) (isle : Nat) : Bool :=
  s.requests.any fun q => (q.typ == 1 || q.typ == 2) && q.hart == none && q.isle == isle

/-- R227: the next act of the Landing engine on relayout `i`: a unit set to MOVING, its elements read, its elements written and
zero written into the padding, or, once its writes are performed, the unit set to NEW; after the last one the relayout ends. -/
def relayoutStep (i : Nat) (s : State) : Res Unit :=
  match s.relayouts[i]? with
  | none => .ok () s
  | some r =>
    match r.moving with
    | none =>
      match nextUnit r with
      | some u => (setUnitState s r u 1 1).andThen fun _ s =>
          .ok () (setRelayout s i { r with moving := some u, fetched := [], copied := false })
      | none => .ok () (finishRelayout s i)
    | some u =>
      let cs := unitCoords (Handle.layout r.record) (Handle.extents r.record) u
      if r.fetched.length < cs.length then fetchUnit i (cs.drop r.fetched.length) s
      else if !r.copied then
        if canSend s || (cs.all fun c => match (newPlace s r c).1 with | some (.remote _) => false | _ => true) then
          .ok () (setRelayout (placeUnit r s) i { r with copied := true })
        else .hold s
      else if engineWritesPending s r.isle then .hold s
      else (setUnitState s r u 2 3).andThen fun _ s =>
        let r := { r with finished := r.finished ++ [u], moving := none, fetched := [], copied := false }
        let s := setRelayout s i r
        .ok () (if (nextUnit r).isNone then finishRelayout s i else s)

/-- R227: the engine at work on relayout `i`, at most `n` acts, until unit `u` is NEW. -/
def relayoutUntil (i u : Nat) : Nat → State → Res Unit
  | 0, s => .ok () s
  | n + 1, s =>
    match s.relayouts[i]? with
    | some r =>
      if engineUnitState r u = .new then .ok () s else (relayoutStep i s).andThen fun _ s => relayoutUntil i u n s
    | none => .ok () s

/-- The acts that bring every unit to NEW: four each. -/
def relayoutActs (r : Relayout) : Nat := 4 * unitCount (Handle.extents r.record) + 4

/-- R227: a write promotes a unit that is OLD. -/
def promoteUnit (s : State) (i u : Nat) : State :=
  match s.relayouts[i]? with
  | some r =>
    if engineUnitState r u = .old ∧ u ∉ r.promoted then setRelayout s i { r with promoted := r.promoted ++ [u] } else s
  | none => s

/-- R227: the relayout in progress that a handle with RLY = 1 takes part in. -/
def relayoutOf (s : State) (asid : BitVec 12) (h : Handle) : Option Nat :=
  s.relayouts.findIdx? fun r => r.asid == asid && recWord r.record 0 == recWord h 0 && recWord r.record 1 == recWord h 1 &&
    recWord r.record 3 == recWord h 3

/-- R227: the hart under the cursor waits for unit `u` of its handle: the engine goes on as far as it can, and the hart is held
where the unit is then not NEW. -/
def waitUnit (s : State) (h : Handle) (u : Nat) : Res Unit :=
  match relayoutOf s s.hart.asid h with
  | some i =>
    (relayoutUntil i u ((s.relayouts[i]?.map relayoutActs).getD 0) s).andThen fun _ s =>
      (unitState s h u).andThen fun st s => if st = 2 then .ok () s else .hold s
  | none => .hold s

/-! ### Where an element of a handle lies (R225, R227) -/

/-- R227: the token, byte address and nibble of an element of the handle, for a read or a write of the hart under the
cursor. A write to a unit that is OLD promotes it, and one to a unit that is not NEW waits until it is. -/
def locate (s : State) (h : Handle) (coords : List Nat) (store : Bool) : Res (BitVec 3 × Word × Nat) :=
  let w := typeWidth h.etype
  let newSite := elementAddress h.base w (layoutOffset h.layout h.extents coords)
  if h.rly then
    let u := unitOf h.extents coords
    (unitState s h u).andThen fun st s =>
      if st = 2 then .ok (h.tok, newSite) s
      else if store then
        (waitUnit (((relayoutOf s s.hart.asid h).map (promoteUnit s · u)).getD s) h u).andThen fun _ s =>
          .ok (h.tok, newSite) s
      else .ok (h.otok, elementAddress h.oldBase w (layoutOffset h.oldLayout h.extents coords)) s
  else .ok (h.tok, newSite) s

end Sys2Proof.Machine
end

