-- ==== Sys2Proof/Machine/Engines.lean ====
section
/-!
DEFINITION. What runs beside a hart's instructions: the cursor that picks a hart, streams and their elements (R230, R231),
the release of a token (R215), the matrix queue (R193), and what must be settled before a hart stops, exits or passes a
fence (R240, R297).
-/
namespace Sys2Proof.Machine

/-! ### The cursor -/

/-- The state with the cursor on the hart of the name. -/
def focus (s : State) (g m : Nat) : Option State :=
  if s.hart.name = (g, m) then some s
  else match s.parked.find? (fun h => h.name == (g, m)) with
    | some h => some { s with hart := h, parked := s.hart :: s.parked.filter fun x => x.name != (g, m) }
    | none => none

/-- `f` done with the cursor on the hart of the name; the cursor goes back to where it stood. -/
def onHart (s : State) (g m : Nat) (f : State → State) : State :=
  match focus s g m with
  | some s' => let r := f s'; (focus r s.hart.name.1 s.hart.name.2).getD r
  | none => s

/-- The harts of gang `g`, by member number. -/
def gangMembers (s : State) (g : Nat) : List Nat :=
  (s.harts.filter fun h => h.name.1 == g && g != 0).map fun h => h.name.2

/-- The record of the gang. -/
def findGang (s : State) (g : Nat) : Option Gang := s.gangs.find? fun x => x.gid.toNat == g

/-- The gang's record replaced. -/
def setGang (s : State) (g : Gang) : State :=
  { s with gangs := s.gangs.map fun x => if x.gid == g.gid then g else x }

/-! ### Streams (R230, R231) -/

/-- R230: S, the elements a strip holds on a hart of this VLMAXC. -/
def stripSize (h : Hart) (w : Nat) : Nat := h.csr.vlmaxc.toNat / w
/-- R230: the elements-available counter: fetched and not consumed, or the free buffer elements of a write stream. -/
def streamCounter (h : Hart) (f : Stream) : Nat :=
  if f.writes then
    if f.buf.isEmpty then stripSize h f.width else stripSize h f.width - (f.position.toNat - f.moved.toNat)
  else f.buf.length

/-- R230: the token, byte address and nibble of stream element `i`. -/
def streamElement (s : State) (f : Stream) (i : Nat) (store : Bool) : Res (BitVec 3 × Word × Nat) :=
  if f.hmode then
    match s.hart.h[f.hnum % 16]'(Nat.mod_lt _ (by decide)) with
    | some h => locate s h (outerCoords (Handle.extents h) i) store
    | none => .ok (f.token, f.base, 0) s
  else if f.width = 4 then .ok (f.token, elementAddress f.base 4 i) s
  else .ok (f.token, f.base + BitVec.ofNat 64 i * (if f.stride = 0 then BitVec.ofNat 64 (f.width / 8) else f.stride), 0) s

/-- R230, R293: the core that performs the accesses of stream element `i`: the one that holds it in a register. -/
def streamCore (s : State) (f : Stream) (i : Nat) : Nat :=
  s.hart.cores.getD (slotOf s.hart.csr.span.toNat f.width i).1 s.hart.home

/-- R230: the engine fetches the next element of read stream `i`; a poisoned word comes in with its poison, and so does an
element whose place traps, which SRD then finds. -/
def streamFetchOne (s : State) (i : Nat) (f : Stream) : Res Unit :=
  let push (v : Nat) (p : Bool) (s : State) : Res Unit :=
    .ok () (setStream s i (some { f with buf := f.buf ++ [⟨BitVec.ofNat 64 v, p, none, 0⟩], moved := f.moved + 1 }))
  match streamElement s f f.moved.toNat false with
  | .hold s => .hold s
  | .trap _ s => push 0 true s
  | .ok (q, a, nib) s =>
    let n := elemBytes f.width
    match tokenSite s (streamCore s f f.moved.toNat) q a n false false with
    | .ok site =>
      (interlock s site n false).andThen fun _ s =>
        match site with
        | .key k => push (takeElement f.width nib (readLE s.mem k n)) (poisoned s k n) s
        | .remote pa => (remoteLoad s pa n).andThen fun (v, p) s => push (takeElement f.width nib v) p s
    | .error _ => push 0 true s

/-- R276: the aligned word of eight bytes in which element `i` of a read stream lies. -/
def streamWord (s : State) (f : Stream) (i : Nat) : Option Nat :=
  match streamElement s f i false with
  | .ok (_, a, _) _ => some (a.toNat / 8)
  | _ => none

/-- The elements from `i` on that lie in the same word as element `i`, it included, as far as the second argument counts. -/
def wordRun (word : Nat → Option Nat) (i : Nat) : Nat → Nat
  | 0 => 0
  | n + 1 => if (word i).isSome && word (i + 1) == word i then 1 + wordRun word (i + 1) n else 1

/-- R276: the next element of the stream lies in the word of the latest one fetched. -/
def streamContinues (s : State) (f : Stream) : Bool :=
  decide (0 < f.moved.toNat) && (streamWord s f f.moved.toNat).isSome &&
    streamWord s f (f.moved.toNat - 1) == streamWord s f f.moved.toNat

/-- R230, R276: the engine may fetch the next element of the read stream: the stream has one, and the buffer takes it and, where it
begins a word, the others of that word. -/
def streamRoom (s : State) (f : Stream) : Bool :=
  let left := f.avl.toNat - f.moved.toNat
  let size := stripSize s.hart f.width
  !f.writes && decide (0 < left) && decide (f.buf.length < size) &&
    (streamContinues s f || decide (f.buf.length + wordRun (streamWord s f) f.moved.toNat (min size left) ≤ size))

/-- Elements of read stream `i` fetched while `go` says so, and at most as many as the first argument counts. -/
def streamFetchWhile (go : State → Stream → Bool) (i : Nat) : Nat → State → Res Unit
  | 0, s => .ok () s
  | n + 1, s =>
    if hi : i < 8 then
      match s.hart.f[i] with
      | some f =>
        if go s f && streamRoom s f then (streamFetchOne s i f).andThen fun _ s => streamFetchWhile go i n s else .ok () s
      | none => .ok () s
    else .ok () s

/-- R230, R276: `n` elements of read stream `i` fetched, as far as its buffer and its length reach, and with the last of them the
others of its word: the engine reads an aligned word of eight bytes whole. -/
def streamFetch (i n : Nat) (s : State) : Res Unit :=
  (streamFetchWhile (fun _ _ => true) i n s).andThen fun _ s =>
    streamFetchWhile streamContinues i ((s.hart.f[i]?.bind id).elim 0 fun f => stripSize s.hart f.width) s

/-- R240: every write stream of the hart drained. -/
def drainStreams (s : State) : Res Unit := drainWhere Stream.writes s

/-- R215: does the stream reach memory through token `q`? A handle whose relayout goes on reaches its old region too. -/
def streamUses (h : Hart) (f : Stream) (q : BitVec 3) : Bool :=
  if f.hmode then
    match h.h[f.hnum % 16]'(Nat.mod_lt _ (by decide)) with
    | some r => Handle.tok r == q || (Handle.rly r && Handle.otok r == q)
    | none => f.token == q
  else f.token == q

/-- R215: the release of token `q`: where it is live, write streams that use it are drained and every stream that uses it becomes
unconfigured; its pins are released and it is dead. -/
def releaseToken (s : State) (q : BitVec 3) : Res Unit :=
  (resLoop (fun i s =>
    if hi : i < 8 then
      match s.hart.f[i] with
      | some f =>
        if (s.hart.token q).live && streamUses s.hart f q then
          (if f.writes then streamDrain i f.buf.length s else .ok () s).andThen fun _ s => .ok () (setStream s i none)
        else .ok () s
      | none => .ok () s
    else .ok () s) 8 0 s).andThen fun _ s =>
    .ok () (setHart s { s.hart with q := s.hart.q.set q.toNat .dead })

/-! ### The matrix queue (R193) -/

/-- R193: an operation on tile `z` enters the matrix queue; a full queue first lets its oldest operation complete. -/
def enqueueMatrix (s : State) (z : Nat) : State :=
  let q := if s.hart.mq.length < 32 then s.hart.mq else s.hart.mq.drop 1
  setHart s { s.hart with mq := q ++ [(z, s.hart.mqSeq.toNat)], mqSeq := s.hart.mqSeq + 1 }

/-- R32: the sequence number of the oldest operation in flight on tile `z`. -/
def tileOwner (h : Hart) (z : Nat) : Option Nat := (h.mq.find? fun e => e.1 == z).map (·.2)

/-- R196: no operation owns tile `z` any more. -/
def waitTile (s : State) (z : Nat) : State := setHart s { s.hart with mq := s.hart.mq.filter fun e => e.1 != z }

/-- R315: the matrix queue drained. -/
def drainMatrix (s : State) : State := setHart s { s.hart with mq := [] }

/-! ### Settling a hart -/

/-- R120, R127, R297: every earlier access of the vector agent performed: its stores, the matrix queue and the engine
transfers, remote ones acknowledged when the scope is DOMAIN or SYSTEM. Buffered stores of streams are vector-agent stores
too. -/
def settleVector (s : State) (scope : Nat) : Res Unit :=
  let s := drainMatrix (noShadows (performVector s s.hart.order.vector.length))
  let s := settleTransfers s.hart.transfers s
  let (g, m) := hartName s
  if !s.hart.transfers.isEmpty || s.hart.psend.isSome then .hold s
  else (drainStreams s).andThen fun _ s =>
    if decide (7 ≤ scope) && remoteWritesPending s g m then .hold s else .ok () s

/-- R272, R296: every earlier scalar store performed for the scalar agents, acknowledged when the scope is DOMAIN or
SYSTEM. -/
def settleScalar (s : State) (scope : Nat) : Res Unit :=
  let s := performScalar s s.hart.order.scalar.length
  let (g, m) := hartName s
  if decide (7 ≤ scope) && remoteWritesPending s g m then .hold s else .ok () s

/-- R275: every earlier access of both agents. -/
def settleBoth (s : State) (scope : Nat) : Res Unit := (settleVector s scope).andThen fun _ s => settleScalar s scope

/-- R248: a release by the scalar agent at a scope other than HART and CORE. -/
def releaseL1d (s : State) (scope : Nat) : State := if 2 ≤ scope then cleanL1d s s.hart.home else s

/-- R120: the lines of the home core's L1D that hold bytes the hart's vector agent has written in memory, each written back if
dirty and dropped (log 49). -/
def dropWritten (s : State) : State := dropLines s s.hart.home s.hart.written.contains

/-- R248, R295: an acquire by the scalar agent at a scope other than HART and CORE; at DOMAIN and SYSTEM it drops the
remote-line buffer of the Isle. Its later loads follow what its vector agent has done, and its later releases cover what the
acquire follows (R291). -/
def acquireL1d (s : State) (scope : Nat) : State :=
  let s := noShadows s
  let s := if 2 ≤ scope then flushL1d s s.hart.home else s
  coverWrites (if 7 ≤ scope then rlbFlush s (isleOf s.hart.home) else s)

end Sys2Proof.Machine
end

