-- ==== Sys2Proof/Machine/Gangs.lean ====
section
/-!
DEFINITION. What the device does for gangs and their supervisor: notification records (R324, R325, R349), the fields of a
spawn record (R123), the completion counter (R129, R397), barrier phases and budgets (R128, R307, R308), and the end of a
hart and of a gang (R129, R323, R327).
-/
namespace Sys2Proof.Machine

/-! ### The spawn record (R123) -/

def Gang.word (g : Gang) (i : Nat) : Word := recWord g.record i
def Gang.entry (g : Gang) : Word := g.word 0
def Gang.arg (g : Gang) : Word := g.word 1
def Gang.rngm (g : Gang) : Bool := bit (g.word 2) 44
def Gang.fpol (g : Gang) : Nat := bits (g.word 2) 42 2
def Gang.dcond (g : Gang) : Nat := bits (g.word 2) 40 2
def Gang.cscope (g : Gang) : Nat := bits (g.word 2) 36 4
def Gang.islesMask (g : Gang) : Nat := bits (g.word 2) 28 8
def Gang.prio (g : Gang) : Nat := bits (g.word 2) 24 3
def Gang.foot (g : Gang) : Nat := bits (g.word 2) 16 6
def Gang.tiles (g : Gang) : Nat := bits (g.word 2) 12 4
def Gang.span (g : Gang) : Nat := bits (g.word 2) 8 4
def Gang.gsize (g : Gang) : Nat := bits (g.word 2) 0 7
def Gang.daddr (g : Gang) : Word := g.word 3
def Gang.dval (g : Gang) : Word := g.word 4
def Gang.caddr (g : Gang) : Word := g.word 5
def Gang.wdlim (g : Gang) : Nat := bits (g.word 6) 0 48
def Gang.seq (g : Gang) : Word := g.word 7

/-- The hart's gang issues: it is neither held, suspended nor being saved (R315, R317, R323). A hart of no gang does. -/
def gangIssues (s : State) (h : Hart) : Bool :=
  match findGang s h.name.1 with
  | some g => g.status == .resident
  | none => h.name.1 == 0

/-- R240: the hart's gang has been stopped, and an engine instruction of the hart is to complete first. -/
def completesEngine (s : State) (h : Hart) : Bool :=
  h.engine && (findGang s h.name.1).any fun g => match g.status with
    | .preempting => decide (h.name.2 ∈ g.unsaved)
    | .suspended | .held | .ending => true
    | _ => false

/-! ### Notifications (R324, R325) -/

/-- A notification about the hart under the cursor, in the mailbox of its home Isle. -/
def postHartNote (s : State) (kind : Nat) (addr info : Word) (toHost : Bool) : State × Option Nat :=
  postRecordNote s (isleOf s.hart.home)
    ⟨noteRecord kind s.hart.name.1 s.hart.asid.toNat (bits s.hart.csr.hartid 0 11) addr info, toHost, some s.hart.name⟩

/-- The record of a notification about a gang. -/
def gangRecord (g : Gang) (kind : Nat) (addr info : Word) : BitVec 256 :=
  noteRecord kind g.gid.toNat g.asid.toNat 0 addr info

/-- A notification about a gang, in the mailbox of the Isle of member 0's home core, or of Isle 0 for a gang never placed. -/
def postGangNote (s : State) (g : Gang) (kind : Nat) (addr info : Word) (toHost : Bool) : State :=
  (postRecordNote s (isleOf (g.home.getD 0)) ⟨gangRecord g kind addr info, toHost, none⟩).1

/-! ### Budgets and barrier phases (R128, R307, R308) -/

/-- R307: L from the capping level and PRIO. -/
def budgetLevel (cap prio : Nat) : Nat :=
  if prio = 7 then 8
  else if 4 ≤ prio then (if cap ≤ 1 then 8 else if cap = 2 then 6 else 4)
  else if cap = 0 then 8 else if cap = 1 then 6 else if cap = 2 then 4 else 2

/-- R354: POWER.LEVEL. -/
def powerLevel (s : State) : Nat := bits s.ctl.power 0 2

/-- R307: BUDGET of a hart at level L. -/
def budgetOf (h : Hart) (l : Nat) : Word := BitVec.ofNat 64 (h.csr.vlmaxc.toNat * l / 8)

/-- Every hart of the gang changed. -/
def mapGang (s : State) (g : Nat) (f : Hart → Hart) : State :=
  { s with
    hart := if s.hart.name.1 = g then f s.hart else s.hart
    parked := s.parked.map fun h => if h.name.1 = g then f h else h }

/-- R211: at the release of a GBAR the latest GTSCFG since the last one is the scheduler state of every member. -/
def Gang.releaseGroups (g : Gang) : Gang :=
  match g.newGroups.getLast? with
  | some x => { g with groups := x.groups, nextItem := x.nextItem, newGroups := [] }
  | none => g

/-- R128: the phase completes when A + X = E and E is not 0: the counts move on, the budgets take the level in force, and a
GTSCFG becomes visible to every member (R211). -/
def completePhase (s : State) (g : Gang) : State :=
  if g.arrived + g.exits = g.expected ∧ g.expected - g.exits ≠ 0 then
    let l := budgetLevel (powerLevel s) g.prio
    let s := setGang s { g.releaseGroups with
      expected := g.expected - g.exits, arrived := 0, exits := 0, phase := g.phase + 1, level := l }
    mapGang s g.gid.toNat fun h => { h with csr := { h.csr with budget := budgetOf h l } }
  else setGang s g

/-! ### The completion counter (R129, R397) -/

/-- R129, R397: `amount` added to the completion counter at CADDR as a user-mode access of the gang's address space reaches
it; where it cannot be performed, kind 0x0F with INFO = 1. An add in another module goes out as an atomic; where that fails,
the record follows. -/
def completionAdd (s : State) (g : Gang) (amount : Nat) : State :=
  if g.caddr = 0 then s
  else
    let core := g.home.getD 0
    match deviceSite s core g.asid true .store g.caddr 8 with
    | some (.key k, s) =>
      if poisoned s k 8 then postGangNote s g 0x0F g.caddr 1 false
      else storeBytes (promoteChunk s k) k 8 ((loadWord s k).toNat + amount)
    | some (.remote pa, s) =>
      if canSend s then
        sendReporting (rlbDrop s (isleOf core) pa) 2 pa 0 8 (BitVec.ofNat 64 amount) 0 [] (isleOf core) none 0
          (some (gangRecord g 0x0F g.caddr 1))
      else postGangNote s g 0x0F g.caddr 1 false
    | none => postGangNote s g 0x0F g.caddr 1 false

/-! ### The end of a hart and of a gang -/

/-- R237, R239: the bays of a hart closed. -/
def closeBays (s : State) (g m : Nat) : State :=
  { s with bays := s.bays.filter fun b => !(b.gang.toNat == g && b.member == m) }

/-- R303: slots and tiles freed while an entry is reserving are held for it. -/
def holdFreed (s : State) (cores : List Nat) (slot tiles : Nat) : State :=
  let freed := cores.zipIdx.map fun c => (c.1, slot, if c.2 = 0 then tiles else 0)
  { s with gangs := s.gangs.map fun x => if x.reserving then { x with slotsHeld := x.slotsHeld ++ freed } else x }

/-- R129, steps 2 to 4: the tokens of the hart under the cursor dead, its slots and tiles freed, the hart EXITED; its bays
close. -/
def exitHart (s : State) : State :=
  let (g, m) := s.hart.name
  let s := holdFreed (closeBays s g m) s.hart.cores s.hart.slot (bits s.hart.csr.footprint 8 4)
  setHart s { s.hart with
    q := (Vector.replicate 8 Token.dead).set 0 .window, f := Vector.replicate 8 none, cores := [], mq := [],
    st := .exited, waits := .nothing, convoy := .none, psend := none, remote := [] }

/-- A gang that has retired leaves the list, and its harts with it; one that is under the cursor stays there EXITED. -/
def retireGang (s : State) (g : Nat) : State :=
  { s with
    gangs := s.gangs.filter fun x => x.gid.toNat != g
    bays := s.bays.filter fun b => b.gang.toNat != g
    parked := s.parked.filter fun h => h.name.1 != g }

/-- R128, R129 step 5: the exit of member `m` counted. -/
def countExit (s : State) (g m : Nat) : State :=
  match findGang s g with
  | none => s
  | some x =>
    let x := { x with exits := x.exits + 1, gone := x.gone ++ [m] }
    if x.gone.length = x.gsize then retireGang (completionAdd (setGang s x) x 1) g
    else completePhase s x

/-- What the device settles when it stops a hart at an instruction boundary (R315 steps 1-3, R240, R287): the accesses of
both agents are performed at the scope, the matrix queue drains, local engine transfers complete and write streams drain; what
waits for another module stays in flight; a vector instruction that stands between two elements stops there (R321), unless it is to be
completed first. The dirty lines of its home core's L1D are written back, since the hart goes on elsewhere or not at all. -/
def stopHart (scope : Nat) (s : State) : State :=
  let s := (drainStreams (settleBoth s scope).state).state
  let s := performScalar s s.hart.order.scalar.length
  let s := if s.hart.engine then s else setHart s s.hart.stopBetween
  if s.hart.cores.isEmpty then s else cleanL1d s s.hart.home

/-- Every member of the gang stopped at an instruction boundary. -/
def stopGang (s : State) (g : Nat) : State := (gangMembers s g).foldl (fun s m => onHart s g m (stopHart 6)) s

/-- R240: nothing of the hart is under way: no access, no transfer, no parcel, no engine instruction, no undrained stream. -/
def Hart.settled (h : Hart) : Bool :=
  h.order.scalar.isEmpty && h.order.vector.isEmpty && h.transfers.isEmpty && h.psend.isNone && !h.engine &&
  h.f.toList.all fun x => x.all fun f => !f.writes || f.buf.isEmpty

/-- R296: and its writes to other modules are acknowledged where the scope is DOMAIN or SYSTEM. -/
def memberSettled (s : State) (g m scope : Nat) : Bool :=
  ((findHart s g m).all fun h => h.st == .exited || h.settled) && !(decide (7 ≤ scope) && remoteWritesPending s g m)

/-- R323, R327: the end of a gang: once what its members have accessed is performed at CSCOPE, every member is EXITED, 2^32 is
added to the completion counter with release at CSCOPE, and the gang is retired. -/
def finishEnd (s : State) (g : Nat) : State :=
  match findGang s g with
  | some x =>
    if x.status = .ending then
      let s := (gangMembers s g).foldl (fun s m => onHart s g m (stopHart x.cscope)) s
      if (gangMembers s g).all (memberSettled s g · x.cscope) then
        let s := (gangMembers s g).foldl (fun s m => onHart s g m exitHart) s
        retireGang (completionAdd s x (2 ^ 32)) g
      else s
    else s
  | none => s

/-- R323 policy 0, R327 action 2: the gang ends, once what its members have accessed is performed (log 77). -/
def endGang (s : State) (g : Gang) : State :=
  finishEnd (setGang s { g with status := .ending, firstSince := none, blockedSince := none, reserving := false, slotsHeld := [] })
    g.gid.toNat

/-- The gangs whose end waits go on with it. -/
def finishEnds (s : State) : State :=
  (s.gangs.filter fun g => g.status == .ending).foldl (fun s g => finishEnd s g.gid.toNat) s

end Sys2Proof.Machine
end

