-- ==== Sys2Proof/Machine/Ops.lean ====
section
/-!
DEFINITION. The operations every meaning is written over: the scalar registers (R28, R97, R328), the control registers'
fields, taking a trap and returning from one (R116, R117, R323), and how an instruction completes, traps or is held.
-/
namespace Sys2Proof.Machine

/-- How a step ends in this machine. -/
abbrev Out := Host.Outcome State Fault Refusal

/-! ### Scalar registers -/

/-- R28: a scalar register; s0 reads zero. -/
def Hart.rs (h : Hart) (r : BitVec 5) : Word := if r = 0 then 0 else h.s[r.toNat]
/-- A scalar register of the hart under the cursor. -/
def State.rs (s : State) (r : BitVec 5) : Word := s.hart.rs r

/-- R28, R267: a scalar register written whole; a write to s0 is discarded. The write clears the register's poison. -/
def State.setRs (s : State) (r : BitVec 5) (v : Word) : State :=
  if r = 0 then s
  else { s with hart := { s.hart with
      s := s.hart.s.set r.toNat v, sPoison := s.hart.sPoison &&& ~~~(1#32 <<< r.toNat) } }

/-- R119, R328: TVAL of POISON for a register: [63] = 1, the file in [9:8] (0 vector, 1 scalar, 2 mask, 3 tile). -/
def regPoisonTval (file n : Nat) : Word := BitVec.ofNat 64 (2 ^ 63 + file * 256 + n)

/-- R328: the trap of an instruction that reads a poisoned scalar register, the first of `rs`. -/
def poisonedScalar (s : State) (rs : List (BitVec 5)) : Option Trap :=
  (rs.find? fun r => r != 0 && s.hart.sPoison.getLsbD r.toNat).map fun r => ⟨.poison, regPoisonTval 1 r.toNat⟩

/-- The control registers of the hart under the cursor changed. -/
def State.modCsr (s : State) (f : Csrs → Csrs) : State := { s with hart := { s.hart with csr := f s.hart.csr } }

/-- R68, R69: floating-point flags merged into VFLAGS: [4] NV, [3] DZ, [2] OF, [1] UF, [0] NX. -/
def State.raise (s : State) (flags : BitVec 5) : State :=
  s.modCsr fun c => { c with vflags := c.vflags ||| flags.zeroExtend 64 }
/-- R40: bits of VSTAT set: 0 DROP, 1 SAT, 2 XSLICE, 3 GOUT, 4 BAYC. -/
def State.setVstat (s : State) (n : Nat) : State := s.modCsr fun c => { c with vstat := c.vstat ||| (1#64 <<< n) }
/-- R51: VSTAT.SAT set when `b`. -/
def State.saturate (s : State) (b : Bool) : State := if b then s.setVstat 1 else s

/-! ### Traps (R116, R119, R323) -/

/-- R119: the cause codes. -/
def Cause.code : Cause → Nat
  | .illegalInsn => 0x01
  | .illegalReg => 0x02
  | .priv => 0x03
  | .ecall => 0x04
  | .ebreak => 0x05
  | .align => 0x06
  | .addrRange => 0x07
  | .noProbe => 0x08
  | .noVl => 0x09
  | .typeIllegal => 0x0A
  | .typeMismatch => 0x0B
  | .convoyConflict => 0x0C
  | .reservedCode => 0x0D
  | .sortRequired => 0x0E
  | .sortMismatch => 0x0F
  | .accBusy => 0x10
  | .tileExtent => 0x11
  | .spanUnsupported => 0x12
  | .poison => 0x13
  | .watchdog => 0x14
  | .stream => 0x15
  | .layout => 0x16
  | .scale => 0x17
  | .parcel => 0x18
  | .probeFault => 0x1A

/-- R323, R362: a double trap of the hart under the cursor at address `at_`, whose second cause has code `second` (0 for a
GBAR). Its registers stay. A member's gang stops, kind 0x02 is posted, and the fault policy acts: 0 ends the gang, 1 holds
it and sends the record to the host too (R123). While the record is held back the gang stands still, and the policy comes after it
(R325, log 76). A hart of no gang (a supervisor's) stops and kind 0x0C is posted and sent to the host. -/
def doubleTrap (s : State) (second : Nat) (at_ : Word) : State :=
  let info := BitVec.ofNat 64 (second + bits s.hart.csr.tcause 0 8 * 256)
  match findGang s s.hart.name.1 with
  | some g =>
    let s := setHart s { s.hart with stopped := true, engine := false }
    let s := stopGang s g.gid.toNat
    let (s, x) := postHartNote s 0x02 at_ info (g.fpol == 1)
    let s := setGang s { g with status := .held }
    if x.isSome ∧ g.fpol = 0 then endGang s g else s
  | none =>
    let s := setHart s { s.hart with stopped := true, engine := false }
    (postHartNote s 0x0C s.hart.csr.tpc info true).1

/-- R42: PRIV from CUR, PREV and TACT. -/
def privWord (cur prev : Nat) (tact : Bool) : Word := BitVec.ofNat 64 (cur + prev * 4 + (if tact then 16 else 0))

/-- R116: trap entry of the hart under the cursor; a trap while PRIV.TACT = 1 is a double trap. Every earlier instruction has
completed, the operations of the matrix queue among them, and the instruction that traps is no longer under way. A trap entry heads a
new convoy. -/
def trapEntry (s : State) (t : Trap) (at_ : Word) : State :=
  if s.hart.tact then doubleTrap s t.cause.code at_
  else setHart s { s.hart with
    csr := { s.hart.csr with
      tcause := BitVec.ofNat 64 t.cause.code, tval := t.tval, tpc := at_ &&& ~~~3,
      priv := privWord (max s.hart.cur 1) s.hart.cur true }
    pc := s.hart.csr.tvec
    st := .trapped
    convoy := .none
    mq := []
    engine := false
    progress := none }

/-- R117: the return from a trap. The instruction at TPC heads a new convoy. -/
def trapReturn (s : State) : State :=
  setHart s { s.hart with
    csr := { s.hart.csr with priv := privWord s.hart.prev 0 false }
    pc := s.hart.csr.tpc
    st := if s.hart.st = .trapped then .run else s.hart.st
    wdcount := if s.hart.st = .trapped then 0 else s.hart.wdcount
    convoy := .none }

/-- R116, R320: a trap of the instruction at the pc that leaves VSTART = `vstart`. -/
def trapAt (s : State) (t : Trap) (vstart : Nat) : State :=
  if s.hart.tact then trapEntry s t s.hart.pc
  else trapEntry (s.modCsr fun c => { c with vstart := BitVec.ofNat 64 vstart }) t s.hart.pc

/-! ### Completing an instruction -/

/-- R38, R317: the instruction has retired: RETIRED counts it, the watchdog count is 0, and nothing of it is left to do. -/
def State.countRetired (s : State) : State :=
  { s with hart := { s.hart with
      csr := { s.hart.csr with retired := s.hart.csr.retired + 1 }, wdcount := 0, progress := none } }

/-- An instruction with no pipe retires and goes on at `pc`: nothing can join its convoy (R89). -/
def retireTo (s : State) (pc : Word) : State :=
  let s := s.countRetired
  setHart s { s.hart with pc := pc, convoy := .closed }

/-- An instruction with no pipe: it retires and goes on at the pc its effect gives, it traps with VSTART = 0 (R320), or it
is held. -/
def finish (r : Res Word) : Out :=
  match r with
  | .ok pc s => .next (retireTo s pc)
  | .trap t s => .next (trapAt s t 0)
  | .hold s => .next s

/-- A scalar instruction that reads the registers `rs`: POISON before any effect (R328), then its effect. -/
def scalarRun (s : State) (rs : List (BitVec 5)) (f : State → Res Word) : Out :=
  match poisonedScalar s rs with
  | some t => .next (trapAt s t 0)
  | none => finish (f s)

/-- A scalar instruction of one word that only writes `sd`. -/
def scalarWrite (s : State) (rs : List (BitVec 5)) (rd : BitVec 5) (v : State → Word) : Out :=
  scalarRun s rs fun s => .ok (s.hart.pc + 4) (s.setRs rd (v s))

/-! ### Bit fields and sign extension -/

/-- R100, R107, R113: a 15-bit immediate. -/
def sext15 (i : BitVec 15) : Word := i.signExtend 64
/-- R108, R112: a 12-bit offset. -/
def sext12 (o : BitVec 12) : Word := o.signExtend 64
/-- R102, R113: a 20-bit immediate. -/
def sext20 (i : BitVec 20) : Word := i.signExtend 64

end Sys2Proof.Machine
end

