-- ==== Sys2Proof/Machine/Sched.lean ====
section
/-!
DEFINITION. The spawn queue and what takes a gang out of it or back into it: the checks of a record (R126), GANGIDs (R125),
posting (R301), the dependence word (R302), context frames (R329, R331), and the begin of a pre-emption (R313-R316, R327).
-/
namespace Sys2Proof.Machine

/-! ### Posting (R125, R126, R301) -/

/-- R123: a reserved field of the record is not zero. -/
def recordReserved (w : Nat → Word) : Bool :=
  bits (w 2) 45 19 != 0 || bits (w 2) 27 1 != 0 || bits (w 2) 22 2 != 0 || bits (w 2) 7 1 != 0 || bits (w 6) 48 16 != 0

/-- R301: new gangs hold the record places: those that wait for their word, and those that wait for slots. -/
def queuedRecords (s : State) : Nat :=
  (s.gangs.filter fun g => g.status == .pending || g.status == .queued).length

/-- R126: the reason code of a record, 0 when it is accepted. -/
def recordCode (s : State) (rec : BitVec 512) (user : Bool) : Nat :=
  let w := recWord rec
  let gsize := bits (w 2) 0 7
  let span := bits (w 2) 8 4
  let foot := bits (w 2) 16 6
  if gsize = 0 ∨ 64 < gsize then 1
  else if span ≠ 1 ∧ span ≠ 2 ∧ span ≠ 4 ∧ span ≠ 8 then 2
  else if 8 < bits (w 2) 12 4 then 3
  else if foot ≠ 8 ∧ foot ≠ 16 ∧ foot ≠ 24 ∧ foot ≠ 32 then 4
  else if bits (w 2) 28 8 = 0 then 5
  else if 8 < bits (w 2) 36 4 then 6
  else if 2 ≤ bits (w 2) 42 2 then 7
  else if bits (w 0) 0 2 ≠ 0 ∨ (bits (w 2) 40 2 ≠ 0 ∧ bits (w 3) 0 3 ≠ 0) ∨ bits (w 5) 0 6 ≠ 0 then 8
  else if recordReserved w then 9
  else if bits (w 2) 24 3 = 7 ∧ user then 10
  else if bit (w 2) 44 ∧ w 5 = 0 then 11
  else if 4096 ≤ queuedRecords s then 12
  else 0

/-! ### The order of the queue (R301, R303) -/

/-- An entry that the placement engines consider: a new gang that is eligible, or a restore entry. -/
def Gang.eligibleEntry (g : Gang) : Bool := g.status == .queued || g.status == .preempted

/-- R301: does `a` stand before `b` in the queue? -/
def standsBefore (a b : Gang) : Bool :=
  let ka := if a.status == .preempted then 0 else 1
  let kb := if b.status == .preempted then 0 else 1
  decide (b.prio < a.prio) || (a.prio == b.prio && (decide (ka < kb) || (ka == kb && decide (a.posted < b.posted))))

/-- R303: the first unplaced entry of its level. -/
def firstOfLevel (s : State) (g : Gang) : Bool :=
  g.eligibleEntry && s.gangs.all fun x =>
    !(x.eligibleEntry && x.prio == g.prio && x.gid != g.gid && standsBefore x g)

/-- R303, R313: the clk since which each entry has been the first unplaced one of its level. -/
def refreshFirst (s : State) : State :=
  { s with gangs := s.gangs.map fun g =>
      if firstOfLevel s g then { g with firstSince := some (g.firstSince.getD s.clk) }
      else if g.eligibleEntry then { g with firstSince := none, blockedSince := none }
      else { g with firstSince := none, blockedSince := none, reserving := false, slotsHeld := [] } }

/-- R125: the GANGID after the candidate: it skips 0 and the ids still held; the first argument bounds the skips. -/
def freeGid (s : State) : Nat → BitVec 32 → BitVec 32
  | 0, g => g
  | n + 1, g => if g = 0 ∨ s.gangs.any (fun x => x.gid == g) then freeGid s n (g + 1) else g

/-- R125: the next GANGID. -/
def State.newGid (s : State) : BitVec 32 := freeGid s (s.gangs.length + 2) s.nextGid

/-! ### The dependence word (R302) -/

/-- R302: the condition of the entry on the word. -/
def dependHolds (g : Gang) (w : Word) : Bool :=
  match g.dcond with
  | 1 => g.dval.ule w
  | 2 => w == g.dval
  | 3 => w != g.dval
  | _ => true

/-- The entry leaves the pending list: it is eligible for placement. -/
def dependMet (s : State) (g : Gang) : State :=
  refreshFirst (setGang s { g with status := .queued, waitingSince := s.clk })

/-- R302: the word could not be read: the entry stays pending, and that is notified once. -/
def dependUnread (s : State) (g : Gang) : State :=
  if g.dependNoted then s else postGangNote (setGang s { g with dependNoted := true }) g 0x04 g.daddr 0 false

/-- R302: the condition evaluated on the word read, or on what came in its place. -/
def dependRead (s : State) (g : Gang) (w : Word) (poison : Bool) : State :=
  if poison then dependUnread s g else if dependHolds g w then dependMet s g else s

/-- R302, R397: the word read by the device and the condition evaluated. A word of another module is asked for, and evaluated when
the reply comes; it cannot be read before NODE is written. An own-core address is one of core 0 before the gang has a home (log
83). -/
def evaluateDepend (s : State) (g : Gang) : State :=
  match deviceSite s (g.home.getD 0) g.asid true .load g.daddr 8 with
  | some (.key k, s) => dependRead s g (loadWord s k) (poisoned s k 8)
  | some (.remote pa, s) =>
    if !canSend s then dependUnread s g
    else if s.requests.any (fun r => r.typ == 0 && r.hart == none && r.len == 8 && decide (r.element = g.gid.toNat)) then s
    else sendRequest s 0 pa 0 8 0 0 [] (isleOf (g.home.getD 0)) none g.gid.toNat
  | none => dependUnread s g

/-- R125, R301, R302: a record posted in the address space: its GANGID and the state. -/
def postRecord (s : State) (rec : BitVec 512) (asid : BitVec 12) : Word × State :=
  let gid := s.newGid
  let g : Gang :=
    { gid := gid, asid := asid, record := rec, status := .queued, posted := s.nextPost, phase := 0,
      expected := bits (recWord rec 2) 0 7, arrived := 0, exits := 0, gone := [], home := none, groups := [], nextItem := 0, newGroups := [],
      key := 0, level := 8, firstSince := none, blockedSince := none, reserving := false, slotsHeld := [], reported := false, waitingSince := s.clk, placedAt := 0,
      windowFrom := none, dependNoted := false, keyRetryAt := 0, frames := [], unsaved := [] }
  let g := if g.dcond = 0 then g else { g with status := .pending }
  let s := { s with gangs := s.gangs ++ [g], nextGid := gid + 1, nextPost := s.nextPost + 1 }
  (gid.zeroExtend 64, if g.dcond = 0 then refreshFirst s else evaluateDepend s g)

/-! ### Context frames (R329) -/

/-- R324: CFBASE and CFCNT of an Isle's mailbox. -/
def frameBase (s : State) (isle : Nat) : Nat := bits (mailboxWord s isle 32) 22 34 * 2 ^ 22
def frameCount (s : State) (isle : Nat) : Nat := bits (mailboxWord s isle 40) 0 16
/-- The key of frame `n` of an Isle's pool. -/
def frameKey (s : State) (isle n : Nat) : Nat := frameBase s isle + n * 2 ^ 22

/-- A frame of the Isle's pool that no gang holds, nor `taken` does. -/
def freeFrame (s : State) (isle : Nat) (taken : List (Nat × Nat × Nat)) : Option Nat :=
  let held := s.gangs.flatMap (·.frames) ++ taken
  (List.range (frameCount s isle)).find? fun n =>
    held.all (fun f => f.2 != (isle, n)) && decide (frameKey s isle n + 2 ^ 22 ≤ mainBytes)

/-- R329, R331: the frames the gang holds once every member that is not EXITED has one, and the members that find none. -/
def assignFrames (s : State) (g : Gang) : List (Nat × Nat × Nat) × Nat :=
  (gangMembers s g.gid.toNat).foldl (fun (fs, lack) m =>
    if m ∈ g.gone ∨ fs.any (fun f => f.1 == m) then (fs, lack)
    else match findHart s g.gid.toNat m with
      | some h => match freeFrame s (isleOf h.home) fs with
        | some n => (fs ++ [(m, isleOf h.home, n)], lack)
        | none => (fs, lack + 1)
      | none => (fs, lack)) (g.frames, 0)

/-! ### The begin of a pre-emption (R315, R327, R331) -/

/-- The gang occupies slots. -/
def Gang.placed (g : Gang) : Bool := g.status == .resident || g.status == .suspended || g.status == .held

/-- R315, steps 1-3, R331: pre-emption of the gang begins: its members stop, and their contexts are to be saved. With no
frame for some member nothing is pre-empted and kind 0x05 is posted. `window` begins a new 10 ms window (R313). -/
def beginPreemption (s : State) (g : Gang) (window : Bool) : State :=
  let (fs, lack) := assignFrames s g
  if lack = 0 then
    let s := (fs.drop g.frames.length).foldl (fun s f => storeBytes s (frameKey s f.2.1 f.2.2) 4 0) (stopGang s g.gid.toNat)
    setGang s { g with
      status := .preempting, frames := fs
      unsaved := (gangMembers s g.gid.toNat).filter fun m => !(m ∈ g.gone)
      windowFrom := if window then some s.clk else g.windowFrom }
  else postGangNote s g 0x05 0 (BitVec.ofNat 64 lack) false

end Sys2Proof.Machine
end

