-- ==== Sys2Proof/Machine/Control.lean ====
section
/-!
DEFINITION. The control pages: the Isle control page (R252, R257, R263, R354), the module control page (R341, R354, R367,
R369), and what a write of each register starts: a migration request, an invalidation, the boot of the module (R355-R357),
a drain.
-/
namespace Sys2Proof.Machine

/-! ### The region map (R259, R263) -/

/-- R259: where a region starts. -/
def homeSlot (r : Nat) : StorageSlot :=
  if r < 523264 then .hbm (r % 16) (r / 16) else .lpddr ((r - 523264) % 8) ((r - 523264) / 8)
/-- The entry of a region's map. -/
def regionEntry (s : State) (r : Nat) : RegionEntry :=
  (s.regions.find? fun e => decide (e.region = r)).getD ⟨r, homeSlot r, 0, none⟩
/-- The entry replaced. -/
def setRegion (s : State) (e : RegionEntry) : State :=
  { s with regions := e :: s.regions.filter fun x => x.region != e.region }
/-- R259: the Isle whose Landing engine owns a slot. -/
def StorageSlot.isle : StorageSlot → Nat
  | .hbm stack _ => stack / 2
  | .lpddr isle _ => isle
/-- A slot of HBM4E. -/
def StorageSlot.isHbm : StorageSlot → Bool
  | .hbm _ _ => true
  | .lpddr _ _ => false
/-- R260: a hash version that service firmware configured; version 0 is fixed. -/
def versionConfigured (s : State) (v : Nat) : Bool :=
  v == 0 || s.hashVersions.any fun h => h.version == v

/-- R263: the request is discarded: a region beyond the exposed ones, the tier that already holds the region, a version that
is not configured or is the current one, or a rehash of a region that lies in LPDDR-6, which has no version (log 97). A repair of
the device's own is never discarded. -/
def requestRefused (s : State) (q : MigrationRequest) : Bool :=
  let e := regionEntry s q.region
  decide (exposedRegions ≤ q.region) || (match q.kind with
    | .rehash v => !versionConfigured s v || (e.version == v) || !e.slot.isHbm
    | .toHbm => e.slot.isHbm
    | .toLpddr => !e.slot.isHbm
    | .repair => false)

/-- R263: the owning engine keeps only the last request for a region; a repair of the device's own (R365) stands beside it. -/
def postMigration (s : State) (q : MigrationRequest) : State :=
  { s with migrations := (s.migrations.filter fun x =>
      !(x.region == q.region && (x.kind == .repair) == (q.kind == .repair))) ++ [q] }

/-! ### The Isle control page (R252) -/

/-- The registers of an Isle. -/
def State.isle (s : State) (i : Nat) : IsleCtl := s.isles[i % 8]'(Nat.mod_lt _ (by decide))
def State.setIsle (s : State) (i : Nat) (c : IsleCtl) : State := { s with isles := s.isles.set (i % 8) c (Nat.mod_lt _ (by decide)) }

/-- R252: MSTAT.PENDING: the requests of the Isle's engine that are not complete. -/
def pendingRequests (s : State) (i : Nat) : Nat :=
  (s.migrations.filter fun q => (regionEntry s q.region).slot.isle == i).length +
  (s.regions.filter fun e => e.migration.isSome && e.slot.isle == i).length

/-- R252, R354: a register read. An offset that holds no register reads zero (log 15). -/
def readIsleCtl (s : State) (i off : Nat) : Word :=
  let c := s.isle i
  match off with
  | 0x000 => c.mreq
  | 0x008 => BitVec.ofNat 64 (c.rejects.toNat * 2 ^ 32 + pendingRequests s i % 2 ^ 16)
  | 0x010 => c.iva
  | 0x018 => c.icmd
  | 0x020 => BitVec.ofNat 64 ((if c.done then 2 ^ 63 else 0) + c.pinned.toNat)
  | 0x028 => c.astab
  | 0x030 => BitVec.ofNat 64 exposedRegions
  | 0x038 => c.rhthr
  | 0x040 => s.ctl.mode
  | 0x048 => s.ctl.power
  | _ => 0

/-- R252, R263: a write to MREQ posts one migration request; one that is refused increments MSTAT.REJECT. -/
def writeMreq (s : State) (i : Nat) (v : Word) : State :=
  let v := v &&& 0x7FFFFFF
  let s := s.setIsle i { s.isle i with mreq := v }
  let region := bits v 0 21
  let kind : Option MigrationKind := match bits v 21 2 with
    | 0 => some (.rehash (bits v 23 4))
    | 1 => some .toHbm
    | 2 => some .toLpddr
    | _ => none
  let reject (s : State) : State := s.setIsle i { s.isle i with rejects := (s.isle i).rejects + 1 }
  match kind with
  | some k => if requestRefused s ⟨region, k⟩ then reject s else postMigration s ⟨region, k⟩
  | none => reject s

/-- R257: the pages [first, first + n) of the address space leave every scalar translation cache. -/
def dropTranslations (s : State) (asid : BitVec 12) (first n : Nat) : State :=
  { s with stc := s.stc.filter fun e =>
      !(e.asid == asid && decide (e.va < (first + n) * 4096) && decide (first * 4096 < e.va + e.size)) }

/-- R257: a write to ICMD starts an invalidation, unless one is under way. -/
def writeIcmd (s : State) (i : Nat) (v : Word) : State :=
  let c := s.isle i
  if c.done then
    let v := v &&& 0xFFFFFFFFFFF
    let s := s.setIsle i { c with icmd := v, done := false, start := c.iva }
    dropTranslations s (BitVec.ofNat 12 (bits v 0 12)) (bits c.iva 12 40) (bits v 12 32)
  else s

/-- R252: a register written; `service` tells a write from service mode, which alone reaches ASTAB. -/
def writeIsleCtl (s : State) (i off : Nat) (v : Word) (service : Bool) : State :=
  let c := s.isle i
  match off with
  | 0x000 => writeMreq s i v
  | 0x010 => s.setIsle i { c with iva := v &&& 0x000FFFFFFFFFF000 }
  | 0x018 => writeIcmd s i v
  | 0x028 => if service then s.setIsle i { c with astab := v &&& 0x00FFFFFFFFFF0000 } else s
  | 0x038 => s.setIsle i { c with rhthr := v &&& 0xFFFF }
  | _ => s

/-! ### Starting harts (R44, R357) -/

/-- R49: the capacity of a slot. -/
def slotCap (s : State) (core slot : Nat) : Nat :=
  ((s.slotCaps.find? fun c => c.1 == core && c.2.1 == slot).map fun c => c.2.2).getD 32

/-- R42: FOOTPRINT. -/
def footprintWord (cap tiles vregs : Nat) : Word := BitVec.ofNat 64 (cap * 2 ^ 16 + tiles * 2 ^ 8 + vregs)

/-- R38, R44: a hart READY at `pc` in slot `slot` of the cores, the first of them its home. It starts after what its SPAWN or the
read of its dependence word has acquired (R291). -/
def startedHart (s : State) (cores : List Nat) (slot : Nat) (asid : BitVec 12) (pc : Word) (csr : Csrs)
    (tiles vregs : Nat) : Hart :=
  let home := cores.headD 0
  { Hart.none with
    pc := pc, cores := cores, slot := slot, asid := asid, st := .ready, covered := unacknowledged s
    csr := { csr with
      hartid := BitVec.ofNat 64 (home * 4 + slot), span := BitVec.ofNat 64 cores.length,
      vlmaxc := BitVec.ofNat 64 (65536 * cores.length), footprint := footprintWord (slotCap s home slot) tiles vregs } }

/-- R357: a hart of no gang, the service hart or a supervisor hart, at a privilege level. -/
def bootHart (s : State) (core : Nat) (pc tvec : Word) (level : Nat) : Hart :=
  startedHart s [core] 3 0 pc { Csrs.start with tvec := tvec, priv := privWord level 0 false } 0 32

/-! ### Boot (R355-R357) -/

/-- R354: STAGE.NUM and STAGE.FAIL. -/
def stageNum (s : State) : Nat := bits s.ctl.stage 0 2
def setStage (s : State) (num fail : Nat) : State :=
  { s with ctl := { s.ctl with stage := BitVec.ofNat 64 (fail * 256 + num), bootgo := 0 } }

/-- `n` bytes of storage from key `k`. -/
def storedBytes (s : State) (k n : Nat) : List Byte := (List.range n).map fun i => memRead s.mem (k + i)

/-- R356, R357: the code STAGE.FAIL takes for the image whose first byte has key `k`, 0 when it is accepted. -/
def imageFailure (s : State) (k kind : Nat) : Nat :=
  let w0 := loadWord s k
  let len := bits w0 32 32
  let pub := storedBytes s (k + 16) 96
  let digest := Config.sha384 (storedBytes s k 112 ++ storedBytes s (k + 256) len)
  let keyOk := (List.range 4).any fun i => Config.fusedKeyDigest i == Config.sha384 pub && !Config.keyRevoked i
  if !(keyOk && Config.ecdsaVerify pub digest (storedBytes s (k + 112) 96)) then 1
  else if bits w0 16 16 < Config.fusedMinSvn kind then 2
  else if len % 64 ≠ 0 ∨ 12 * 2 ^ 20 - 256 < len ∨ bits w0 8 8 ≠ 0 ∨ bits w0 0 8 ≠ kind ∨
      len ≤ (loadWord s (k + 8)).toNat ∨ readLE s.mem (k + 208) 48 ≠ 0 then 3
  else 0

/-- R357: BOOTGO in stage 0: the service image is checked; on success its measurement is recorded, the service hart starts
on core 1 of Isle 0, slot 3, at its entry point in the load area, and stage 1 is entered. -/
def bootgo (s : State) : State :=
  if stageNum s ≠ 0 then s
  else
    let k := coreKey 0 0
    let s := { s with ctl := { s.ctl with bootgo := 1 } }
    let f := imageFailure s k 1
    if f ≠ 0 then setStage s 0 f
    else
      let len := bits (loadWord s k) 32 32
      let h := bootHart s 1 (0x000F000000000000 + 256 + loadWord s (k + 8)) 0 2
      let s := { s with
        serviceMeasure := Config.sha384 (storedBytes s k (256 + len)), parked := h :: s.parked }
      setStage s 1 0

/-! ### Drain (R367) -/

/-- R367: the gangs a drain spares. -/
def drainSpares (g : Gang) : Bool := g.prio == 7 || g.status == .held
/-- R354: DRAIN.REQ. -/
def draining (s : State) : Bool := bit s.ctl.drain 0
/-- R367: gangs to be saved and not yet saved. -/
def unsavedGangs (s : State) : Nat :=
  (s.gangs.filter fun g => !drainSpares g && (g.placed || g.status == .preempting)).length
/-- R354, R367: DRAIN as it reads. -/
def drainWord (s : State) : Word :=
  let done := draining s && unsavedGangs s == 0 &&
    !s.gangs.any fun g => g.placed || g.status == .preempting || g.status == .ending
  BitVec.ofNat 64 (unsavedGangs s % 2 ^ 16 * 2 ^ 32 + (if done then 2 else 0) + (if draining s then 1 else 0))

/-- R367: DRAIN.REQ = 1: every gang but those spared is pre-empted; placements are held (`draining`). -/
def drainRequest (s : State) : State :=
  let s := { s with ctl := { s.ctl with drain := 1 } }
  (s.gangs.filter fun g => g.placed && !drainSpares g).foldl (fun s g =>
    match findGang s g.gid.toNat with
    | some g => beginPreemption s g true
    | none => s) s
/-- R367: DRAIN.REQ = 0. -/
def drainRelease (s : State) : State := { s with ctl := { s.ctl with drain := 0 } }

/-! ### The module control page (R341, R354, R369) -/

/-- A register read; an offset that holds no register reads zero (log 15). -/
def readModuleCtl (s : State) (off : Nat) : Word :=
  let c := s.ctl
  if 0x1000 ≤ off ∧ off < 0x2000 then c.spdmReq.extractLsb' (8 * (off - 0x1000)) 64
  else if 0x2000 ≤ off ∧ off < 0x3000 then c.spdmResp.extractLsb' (8 * (off - 0x2000)) 64
  else match off with
    | 0x000 => c.node
    | 0x008 => c.host
    | 0x010 => c.ctbase
    | 0x018 => c.ctcnt
    | 0x020 => c.mode
    | 0x028 => c.power
    | 0x030 => c.stage
    | 0x038 => c.bootgo
    | 0x040 => c.seed[0]
    | 0x048 => c.seed[1]
    | 0x050 => c.seed[2]
    | 0x058 => c.seed[3]
    | 0x060 => c.seedv
    | 0x068 => c.ras
    | 0x070 => drainWord s
    | 0x080 => c.plx[0]
    | 0x088 => c.plx[1]
    | 0x090 => c.plx[2]
    | 0x098 => c.plx[3]
    | 0x0A0 => c.plx[4]
    | 0x0A8 => c.plx[5]
    | 0x0B0 => c.plx[6]
    | 0x0B8 => c.plx[7]
    | 0x100 => c.spdmctl
    | _ => 0

/-- The control registers replaced. -/
def setCtl (s : State) (c : ModuleCtl) : State := { s with ctl := c }

/-- R371, R362: POWER.LEVEL set, kind 0x0A posted when it changes. -/
def setPowerLevel (s : State) (level : Nat) : State :=
  if level = powerLevel s then s
  else
    let s := setCtl s { s.ctl with power := setBits s.ctl.power 0 2 level }
    (postNote s 0 0x0A 0 0 0 0 (BitVec.ofNat 64 (level + s.watts % 2 ^ 16 * 4)) false).1

/-- R354: a write to POWER: PLIMIT from 1,000 to 3,800 and FLOOR; LEVEL is never below FLOOR. -/
def writePower (s : State) (v : Word) : State :=
  let limit := bits v 16 16
  if bits v 32 32 ≠ 0 ∨ bits v 4 12 ≠ 0 ∨ limit < 1000 ∨ 3800 < limit then s
  else
    let s := setCtl s { s.ctl with power := setBits (setBits s.ctl.power 16 16 limit) 2 2 (bits v 2 2) }
    setPowerLevel s (max (powerLevel s) (bits v 2 2))

/-- R361: a SEED word written; SEEDV is cleared. -/
def writeSeed (s : State) (i : Nat) (v : Word) : State :=
  setCtl s { s.ctl with seed := s.ctl.seed.set (i % 4) v (Nat.mod_lt _ (by decide)), seedv := 0 }

/-- R369: SPDMCTL: [12:0] the length, [13] = 1 the request; discarded while a request stands. -/
def writeSpdmctl (s : State) (v : Word) : State :=
  if bit s.ctl.spdmctl 13 ∨ v.toNat ≥ 2 ^ 14 then s else setCtl s { s.ctl with spdmctl := v }

/-- R354: the registers whose write has no behaviour of its own. A value out of range or a nonzero reserved bit discards the
write whole: R354 says so of its registers, and the model takes the same for NODE, HOST, CTBASE and CTCNT (R341) and SPDMCTL
(R369) (log 70). -/
def writePlainCtl (s : State) (off : Nat) (v : Word) : State :=
  let c := s.ctl
  if 0x1000 ≤ off ∧ off < 0x2000 then
    let keep := c.spdmReq &&& ~~~(BitVec.ofNat 32768 ((2 ^ 64 - 1) * 2 ^ (8 * (off - 0x1000))))
    setCtl s { c with spdmReq := keep ||| BitVec.ofNat 32768 (v.toNat * 2 ^ (8 * (off - 0x1000))) }
  else if 0x080 ≤ off ∧ off < 0x0C0 ∧ off % 8 = 0 then
    setCtl s { c with plx := c.plx.set ((off - 0x080) / 8 % 8) v (Nat.mod_lt _ (by decide)) }
  else match off with
    | 0x000 => if v.toNat < 2 ^ 12 then setCtl s { c with node := v } else s
    | 0x008 => if v.toNat < 2 ^ 12 then setCtl s { c with host := v } else s
    | 0x010 => if bits v 56 8 = 0 ∧ bits v 0 6 = 0 then setCtl s { c with ctbase := v } else s
    | 0x018 => if v.toNat < 2 ^ 10 then setCtl s { c with ctcnt := v } else s
    | 0x020 => if v.toNat < 2 ^ 6 then setCtl s { c with mode := v } else s
    | 0x028 => writePower s v
    | 0x060 => if v.toNat < 2 then setCtl s { c with seedv := v } else s
    | 0x068 => if v.toNat < 2 ^ 24 ∧ bits v 8 16 ≠ 0 ∧ bits v 0 8 ≠ 0 then setCtl s { c with ras := v } else s
    | 0x100 => writeSpdmctl s v
    | _ => s

/-- R341, R354, R361, R367, R369: a register written. -/
def writeModuleCtl (s : State) (off : Nat) (v : Word) : State :=
  match off with
  | 0x038 => if v = 1 then bootgo s else s
  | 0x040 => writeSeed s 0 v
  | 0x048 => writeSeed s 1 v
  | 0x050 => writeSeed s 2 v
  | 0x058 => writeSeed s 3 v
  | 0x070 =>
    if bits v 48 16 ≠ 0 ∨ bits v 2 30 ≠ 0 then s
    else if bit v 0 then drainRequest s else drainRelease s
  | _ => writePlainCtl s off v

end Sys2Proof.Machine
end

