-- ==== Sys2Proof/Machine/LoadStore.lean ====
section
/-!
DEFINITION. Scalar memory instructions: loads (R107), stores (R108), atomics (R109-R111).
-/
namespace Sys2Proof.Machine

/-! ### Loads (R106, R107) -/

/-- R248: the word at physical address `pa` as the home core's L1D, or on a miss the memory, holds it is not poisoned. -/
def cleanWord (s : State) (pa : Nat) : Bool :=
  match l1dFind s s.hart.home (pa / 64) with
  | some l => !l.poison.getLsbD (pa % 64 / 8)
  | none => !poisoned s (64 * (pa / 64)) 64

/-- R106, R248, R268, R271: `n` bytes at `a` read by the scalar agent, its own queued stores included. -/
def scalarLoad (s : State) (a : Word) (n : Nat) : Res Nat :=
  match scalarLanding s a n .load with
  | .error t => .trap t s
  | .ok (.window k, s) =>
    (engineInterlock s (.key k) n false).andThen fun _ s =>
      let s := if poisoned s k n then performScalarOver s k n else s
      if poisoned s k n then .trap ⟨.poison, poisonTval (.key k) a⟩ s else .ok (ownView s k n (readLE s.mem k n)) s
  | .ok (.main pa, s) =>
    (engineInterlock s (.key pa) n false).andThen fun _ s =>
      let (v, p, s) := l1dLoad (if cleanWord s pa then s else performScalarOver s pa n) s.hart.home pa n
      if p then .trap ⟨.poison, poisonTval (.key pa) a⟩ s else .ok (ownView s pa n v) s
  | .ok (.remote pa, s) =>
    (engineInterlock s (.remote pa) n false).andThen fun _ s =>
      (remoteLoad s pa n).andThen fun (v, p) s => if p then .trap ⟨.poison, poisonTval (.remote pa) a⟩ s else .ok v s
  | .ok (.isleCtl i off, s) => .ok (readIsleCtl s i off).toNat s
  | .ok (.moduleCtl off, s) => .ok (readModuleCtl s off).toNat s

/-- R107: a load of `n` bytes into sd, extended as `ext` says. -/
def load (s : State) (i : BitVec 15) (a d : BitVec 5) (n : Nat) (ext : Nat → Word) : Out :=
  scalarRun s [a] fun s =>
    (scalarLoad s (s.rs a + sext15 i) n).andThen fun v s => .ok (s.hart.pc + 4) (s.setRs d (ext v))

/-- R107: one byte, sign-extended. -/
def execLdB (i : BitVec 15) (a d : BitVec 5) (s : State) : Out := load s i a d 1 fun v => (BitVec.ofNat 8 v).signExtend 64
/-- R107: two bytes, sign-extended. -/
def execLdH (i : BitVec 15) (a d : BitVec 5) (s : State) : Out := load s i a d 2 fun v => (BitVec.ofNat 16 v).signExtend 64
/-- R107: four bytes, sign-extended. -/
def execLdW (i : BitVec 15) (a d : BitVec 5) (s : State) : Out := load s i a d 4 fun v => (BitVec.ofNat 32 v).signExtend 64
/-- R107: eight bytes. -/
def execLdD (i : BitVec 15) (a d : BitVec 5) (s : State) : Out := load s i a d 8 (BitVec.ofNat 64)
/-- R107: one byte, zero-extended. -/
def execLdBu (i : BitVec 15) (a d : BitVec 5) (s : State) : Out := load s i a d 1 (BitVec.ofNat 64)
/-- R107: two bytes, zero-extended. -/
def execLdHu (i : BitVec 15) (a d : BitVec 5) (s : State) : Out := load s i a d 2 (BitVec.ofNat 64)
/-- R107: four bytes, zero-extended. -/
def execLdWu (i : BitVec 15) (a d : BitVec 5) (s : State) : Out := load s i a d 4 (BitVec.ofNat 64)

/-! ### Stores (R108) -/

/-- R272: the low `n` bytes of `v` stored at key `k` by the scalar agent: performed at once, or, while it lags, put into its
store queue. A store to a poisoned word does not lag. -/
def issueScalar (s : State) (k n : Nat) (v : Word) (clean : Bool) : State :=
  let s := dropShadows s k n
  if s.hart.order.lagScalar && clean then
    setOrder s { s.hart.order with scalar := s.hart.order.scalar ++ [.store k n v.toNat s.hart.csr.retired.toNat] }
  else performScalarEntry (performScalarOver s k n) (.store k n v.toNat s.hart.csr.retired.toNat)

/-- R106, R248, R272: the low `n` bytes of `v` written at `a` by the scalar agent. A write to ICMD is also a release of the
hart's scalar agent at PACKAGE scope (R257). -/
def scalarStore (s : State) (a : Word) (n : Nat) (v : Word) : Res Unit :=
  match scalarLanding s a n .store with
  | .error t => .trap t s
  | .ok (.window k, s) =>
    (engineInterlock s (.key k) n true).andThen fun _ s => .ok () (issueScalar s k n v (!poisoned s k n))
  | .ok (.main pa, s) =>
    (engineInterlock s (.key pa) n true).andThen fun _ s => .ok () (issueScalar s pa n v (cleanWord s pa))
  | .ok (.remote pa, s) =>
    (engineInterlock s (.remote pa) n true).andThen fun _ s => remoteStore s pa n v.toNat false
  | .ok (.isleCtl i off, s) =>
    let s := if off = 0x018 then cleanL1d (performScalar s s.hart.order.scalar.length) s.hart.home else s
    .ok () (writeIsleCtl s i off v (s.hart.cur == 2))
  | .ok (.moduleCtl off, s) => .ok () (writeModuleCtl s off v)

/-- R108: the low `n` bytes of sb stored at sa + off. -/
def store (s : State) (o : BitVec 12) (b a : BitVec 5) (n : Nat) : Out :=
  scalarRun s [a, b] fun s =>
    (scalarStore s (s.rs a + sext12 o) n (s.rs b)).andThen fun _ s => .ok (s.hart.pc + 4) s

/-- R108: one byte. -/
def execStB (o : BitVec 12) (b a : BitVec 5) (s : State) : Out := store s o b a 1
/-- R108: two bytes. -/
def execStH (o : BitVec 12) (b a : BitVec 5) (s : State) : Out := store s o b a 2
/-- R108: four bytes. -/
def execStW (o : BitVec 12) (b a : BitVec 5) (s : State) : Out := store s o b a 4
/-- R108: eight bytes. -/
def execStD (o : BitVec 12) (b a : BitVec 5) (s : State) : Out := store s o b a 8

/-! ### Atomics (R109-R111) -/

/-- What an atomic writes, if it writes, from the word's old value. -/
abbrev AtomicFn := Word → Option Word

/-- R109: the operations of codes 0 to 8 on the old value and the operand. -/
def atomicOp (op : Nat) (old v : Word) : Word :=
  match op with
  | 0 => old + v
  | 1 => old &&& v
  | 2 => old ||| v
  | 3 => old ^^^ v
  | 4 => if old.slt v then old else v
  | 5 => if old.slt v then v else old
  | 6 => if old.ult v then old else v
  | 7 => if old.ult v then v else old
  | _ => v

/-- An atomic at the storage of key `k`: the old value. -/
def storageAtomic (s : State) (k : Nat) (f : AtomicFn) : Word × State :=
  let old := loadWord s k
  (old, match f old with
    | some v => storeAgent (promoteChunk s k) k 8 v.toNat
    | none => s)

/-- R111, R284: an atomic in the L1D of the core, at scope HART. While the scalar agent lags, its write goes into the store
queue, and another hart's atomic may come between. -/
def l1dAtomic (s : State) (core pa : Nat) (f : AtomicFn) : Word × Bool × State :=
  let (v, p, s) := l1dLoad s core pa 8
  if p then (0, true, s)
  else (BitVec.ofNat 64 v, false, match f (BitVec.ofNat 64 v) with
    | some x =>
      if s.hart.order.lagScalar then
        setOrder s { s.hart.order with scalar := s.hart.order.scalar ++ [.atomic pa 8 x.toNat] }
      else l1dStore s core pa 8 x.toNat
    | none => s)

/-- R109-R111, R268, R294: the atomic access of the hart at `a`: the old value and its poison, which only another module's
answer carries. `op`, `arg0` and `arg1` are what a message to another module carries. -/
def atomicAccess (s : State) (a : Word) (scope : Nat) (f : AtomicFn) (op : Nat) (arg0 arg1 : Word) : Res (Word × Bool) :=
  match scalarLanding s a 8 .store with
  | .error t => .trap t s
  | .ok (.window k, s) =>
    (engineInterlock s (.key k) 8 true).andThen fun _ s =>
      let s := performScalarOver (dropShadows s k 8) k 8
      if poisoned s k 8 then .trap ⟨.poison, poisonTval (.key k) a⟩ s
      else let (old, s) := storageAtomic s k f; .ok (old, false) s
  | .ok (.main pa, s) =>
    (engineInterlock s (.key pa) 8 true).andThen fun _ s =>
      let s := performScalarOver (dropShadows s pa 8) pa 8
      if scope = 0 then
        let (old, p, s) := l1dAtomic s s.hart.home pa f
        if p then .trap ⟨.poison, poisonTval (.key pa) a⟩ s else .ok (old, false) s
      else
        let s := dropLine s s.hart.home (pa / 64)
        if poisoned s pa 8 then .trap ⟨.poison, poisonTval (.key pa) a⟩ s
        else let (old, s) := storageAtomic s pa f; .ok (old, false) s
  | .ok (.remote pa, s) =>
    (engineInterlock s (.remote pa) 8 true).andThen fun _ s =>
      remoteAtomic s pa op arg0 arg1
  | .ok (.isleCtl _ _, s) => .trap ⟨.addrRange, a⟩ s
  | .ok (.moduleCtl _, s) => .trap ⟨.addrRange, a⟩ s

/-- R28: a scalar register given a poisoned value (R345). -/
def State.poisonRs (s : State) (r : BitVec 5) (p : Bool) : State :=
  if p && r != 0 then setHart s { s.hart with sPoison := s.hart.sPoison ||| (1#32 <<< r.toNat) } else s

/-- R109-R111: an AMO or CAS: the release before it, the access, sd := the old value, the acquire after it. -/
def atomic (s : State) (o : BitVec 2) (sc : BitVec 4) (rs : List (BitVec 5)) (a d : BitVec 5) (f : State → AtomicFn)
    (op : Nat) (arg0 arg1 : State → Word) : Out :=
  scalarRun s rs fun s =>
    let scope := sc.toNat
    let rel := o.getLsbD 1
    let acq := o.getLsbD 0
    (if rel then settleScalar s scope else .ok () s).andThen fun _ s =>
      let s := if rel then releaseL1d s scope else s
      (atomicAccess s (s.rs a) scope (f s) op (arg0 s) (arg1 s)).andThen fun (old, p) s =>
        let s := (s.setRs d old).poisonRs d p
        .ok (s.hart.pc + 4) (if acq then acquireL1d s scope else s)

/-- R109: an AMO with operation code `op`. -/
def amo (s : State) (o : BitVec 2) (sc : BitVec 4) (b a d : BitVec 5) (op : Nat) : Out :=
  atomic s o sc [a, b] a d (fun s old => some (atomicOp op old (s.rs b))) op (fun s => s.rs b) fun _ => 0

/-- R109: the word becomes old + sb, wrapping; sd the old value. -/
def execAmoAdd (o : BitVec 2) (sc : BitVec 4) (b a d : BitVec 5) (s : State) : Out := amo s o sc b a d 0
/-- R109: the word becomes old & sb; sd the old value. -/
def execAmoAnd (o : BitVec 2) (sc : BitVec 4) (b a d : BitVec 5) (s : State) : Out := amo s o sc b a d 1
/-- R109: the word becomes old | sb; sd the old value. -/
def execAmoOr (o : BitVec 2) (sc : BitVec 4) (b a d : BitVec 5) (s : State) : Out := amo s o sc b a d 2
/-- R109: the word becomes old ^ sb; sd the old value. -/
def execAmoXor (o : BitVec 2) (sc : BitVec 4) (b a d : BitVec 5) (s : State) : Out := amo s o sc b a d 3
/-- R109: the word becomes the signed minimum; sd the old value. -/
def execAmoMin (o : BitVec 2) (sc : BitVec 4) (b a d : BitVec 5) (s : State) : Out := amo s o sc b a d 4
/-- R109: the word becomes the signed maximum; sd the old value. -/
def execAmoMax (o : BitVec 2) (sc : BitVec 4) (b a d : BitVec 5) (s : State) : Out := amo s o sc b a d 5
/-- R109: the word becomes the unsigned minimum; sd the old value. -/
def execAmoMinu (o : BitVec 2) (sc : BitVec 4) (b a d : BitVec 5) (s : State) : Out := amo s o sc b a d 6
/-- R109: the word becomes the unsigned maximum; sd the old value. -/
def execAmoMaxu (o : BitVec 2) (sc : BitVec 4) (b a d : BitVec 5) (s : State) : Out := amo s o sc b a d 7
/-- R109: the word becomes sb; sd the old value. -/
def execAmoSwap (o : BitVec 2) (sc : BitVec 4) (b a d : BitVec 5) (s : State) : Out := amo s o sc b a d 8
/-- R110: the word becomes sb when it equals sd; sd the old value. -/
def execCas (o : BitVec 2) (sc : BitVec 4) (b a d : BitVec 5) (s : State) : Out :=
  atomic s o sc [a, b, d] a d (fun s old => if old = s.rs d then some (s.rs b) else none) 9 (fun s => s.rs b) fun s => s.rs d

end Sys2Proof.Machine
end

