-- ==== Sys2Proof/Machine/Flags.lean ====
section
/-!
DEFINITION. Floating point (R52-R60, R66-R73, R75): formats, the exact value of a code, one rounding with its flags, the
sums and products every arithmetic instruction is made of, and the conversions. Codes are Nat below 2^w.
-/
namespace Sys2Proof.Machine

/-! ### Flags (R68) -/

/-- VFLAGS [4] NV, [3] DZ, [2] OF, [1] UF, [0] NX. -/
abbrev FpFlags := BitVec 5
def flagNV : FpFlags := 16
def flagDZ : FpFlags := 8
def flagOF : FpFlags := 4
def flagUF : FpFlags := 2
def flagNX : FpFlags := 1

/-- A rounded result: its code, the flags it raises, and whether VSTAT.SAT is set. -/
structure FRes where
  code : Nat
  flags : FpFlags
  sat : Bool
  deriving DecidableEq, Repr

/-! ### Formats -/

/-- Which codes are special. -/
inductive Specials where
  /-- The IEEE rules: exponent all ones is ∞ or NaN (R52, R55, R59). -/
  | ieee
  /-- E4M3: no ∞; S.1111.111 is NaN (R54). -/
  | e4m3
  /-- E2M1: no ∞ and no NaN (R56). -/
  | none
  deriving DecidableEq, Repr

/-- A format: exponent bits, fraction bits, special codes. -/
structure Fmt where
  ew : Nat
  fw : Nat
  sp : Specials
  deriving DecidableEq, Repr

def fp64 : Fmt := ⟨11, 52, .ieee⟩
def fp32 : Fmt := ⟨8, 23, .ieee⟩
def bf16 : Fmt := ⟨8, 7, .ieee⟩
def fp16 : Fmt := ⟨5, 10, .ieee⟩
def e5m2 : Fmt := ⟨5, 2, .ieee⟩
def e4m3 : Fmt := ⟨4, 3, .e4m3⟩
def e2m1 : Fmt := ⟨2, 1, .none⟩
/-- R59. -/
def ea80 : Fmt := ⟨15, 64, .ieee⟩

def Fmt.width (f : Fmt) : Nat := 1 + f.ew + f.fw
def Fmt.bias (f : Fmt) : Nat := 2 ^ (f.ew - 1) - 1
/-- The exponent of the smallest normal number. -/
def Fmt.emin (f : Fmt) : Int := 1 - (f.bias : Int)
/-- The exponent of the last place of a subnormal number. -/
def Fmt.qmin (f : Fmt) : Int := f.emin - f.fw
def Fmt.signBit (f : Fmt) : Nat := 2 ^ (f.ew + f.fw)
/-- The magnitude code of the largest finite number. -/
def Fmt.maxCode (f : Fmt) : Nat :=
  match f.sp with
  | .ieee => (2 ^ f.ew - 1) * 2 ^ f.fw - 1
  | .e4m3 => 2 ^ (f.ew + f.fw) - 2
  | .none => 2 ^ (f.ew + f.fw) - 1
/-- R57: the canonical NaN; an FP4 destination takes +0. -/
def Fmt.nan (f : Fmt) : Nat :=
  match f.sp with
  | .ieee => (2 ^ f.ew - 1) * 2 ^ f.fw + 2 ^ (f.fw - 1)
  | .e4m3 => 2 ^ (f.ew + f.fw) - 1
  | .none => 0
/-- The magnitude code of ∞ of an IEEE format. -/
def Fmt.infCode (f : Fmt) : Nat := (2 ^ f.ew - 1) * 2 ^ f.fw
/-- A magnitude code with its sign. -/
def Fmt.signed (f : Fmt) (neg : Bool) (c : Nat) : Nat := if neg then f.signBit + c else c

/-! ### Values -/

/-- The value of a code: NaN (`sig` when signalling), ∞, or exactly ±m * 2^e. -/
inductive FVal where
  | nan (sig : Bool)
  | inf (neg : Bool)
  | fin (neg : Bool) (m : Nat) (e : Int)
  deriving DecidableEq, Repr

/-- R52-R56, R59: the exact value of a code. -/
def Fmt.val (f : Fmt) (code : Nat) : FVal :=
  let neg := code / f.signBit % 2 == 1
  let mag := code % f.signBit
  let ex := mag / 2 ^ f.fw
  let fr := mag % 2 ^ f.fw
  if f.sp = .ieee ∧ ex = 2 ^ f.ew - 1 then
    if fr = 0 then .inf neg else .nan (fr / 2 ^ (f.fw - 1) == 0)
  else if f.sp = .e4m3 ∧ mag = f.signBit - 1 then .nan false
  else if ex = 0 then .fin neg fr f.qmin
  else .fin neg (2 ^ f.fw + fr) (f.qmin + (ex - 1 : Nat))

/-- The number of bits of a number. -/
def bitLen (n : Nat) : Nat := if n = 0 then 0 else n.log2 + 1

/-! ### One rounding (R66-R70) -/

/-- The integer part of (m + ε) * 2^e / 2^q, where 0 < ε < 1 when `sticky` and ε = 0 otherwise, and how the rest compares
with half: 0 none, 1 below, 2 exactly half, 3 above. -/
def splitAt_ (m : Nat) (e : Int) (sticky : Bool) (q : Int) : Nat × Nat :=
  if q ≤ e then (m * 2 ^ (e - q).toNat, if sticky then 1 else 0)
  else
    let sh := (q - e).toNat
    if bitLen m + 1 < sh then (0, if m = 0 ∧ !sticky then 0 else 1)
    else
      let rem := m % 2 ^ sh
      let half := 2 ^ (sh - 1)
      (m / 2 ^ sh,
        if rem < half then (if rem = 0 ∧ !sticky then 0 else 1)
        else if rem = half then (if sticky then 3 else 2) else 3)

/-- R66: does the mode round the magnitude `n` with rest `r` (as above) up? -/
def roundsUp (mode : Nat) (neg : Bool) (n r : Nat) : Bool :=
  match mode with
  | 0 => r == 3 || (r == 2 && n % 2 == 1)
  | 1 => false
  | 2 => neg && r != 0
  | 3 => !neg && r != 0
  | _ => decide (2 ≤ r)

/-- (m + ε) * 2^e rounded to a multiple of 2^q: the multiple, and whether it is inexact. -/
def roundMultiple (mode : Nat) (neg : Bool) (m : Nat) (e : Int) (sticky : Bool) (q : Int) : Nat × Bool :=
  let (n, r) := splitAt_ m e sticky q
  (if roundsUp mode neg n r then n + 1 else n, r != 0)

/-- R70: the magnitude delivered on overflow, where ∞ is given as `none`. -/
def overflowToMax (mode : Nat) (neg : Bool) : Bool :=
  match mode with
  | 1 => true
  | 2 => !neg
  | 3 => neg
  | _ => false

/-- R70: the result of an overflow. -/
def overflowResult (f : Fmt) (mode : Nat) (neg : Bool) : FRes :=
  match f.sp with
  | .ieee =>
    ⟨f.signed neg (if overflowToMax mode neg then f.maxCode else f.infCode), flagOF ||| flagNX, false⟩
  | .e4m3 =>
    ⟨if overflowToMax mode neg then f.signed neg f.maxCode else f.nan, flagOF ||| flagNX, false⟩
  | .none => ⟨f.signed neg f.maxCode, flagOF ||| flagNX, true⟩

/-- R67, R68: ±(m + ε) * 2^e rounded to the format in the mode, as if the exponent were unbounded, then checked for overflow
and underflow. With `sticky` the value has at least fw + 3 bits in m. -/
def roundFin (f : Fmt) (mode : Nat) (neg : Bool) (m : Nat) (e : Int) (sticky : Bool) : FRes :=
  if m = 0 ∧ !sticky then ⟨f.signed neg 0, 0, false⟩
  else
    let qu : Int := (bitLen m : Int) + e - (f.fw + 1 : Nat)
    let (nu, _) := roundMultiple mode neg m e sticky qu
    let tiny := decide ((bitLen nu : Int) + qu - 1 < f.emin)
    let q := max qu f.qmin
    let (n, inexact) := roundMultiple mode neg m e sticky q
    let k := q - f.qmin
    if ¬ tiny ∧ ((2 ^ f.ew : Nat) : Int) < k ∨ ¬ tiny ∧ f.maxCode < k.toNat * 2 ^ f.fw + n then overflowResult f mode neg
    else
      ⟨f.signed neg (k.toNat * 2 ^ f.fw + n),
        (if inexact then flagNX else 0) ||| (if tiny ∧ inexact then flagUF else 0), false⟩

/-- R57: an operation that yields a NaN; NV when `nv`. -/
def nanResult (f : Fmt) (nv : Bool) : FRes := ⟨f.nan, if nv then flagNV else 0, false⟩

/-- Two results combined by a floating-point operation, their flags merged. -/
def joinRes (g : Nat → Nat → FRes) (x y : FRes) : FRes :=
  let r := g x.code y.code
  ⟨r.code, r.flags ||| x.flags ||| y.flags, r.sat || x.sat || y.sat⟩
/-- A value with no flags. -/
def bare (v : Nat) : FRes := ⟨v, 0, false⟩

/-! ### Sums and products -/

/-- Is the value a NaN, a signalling NaN? -/
def FVal.isNan : FVal → Bool
  | .nan _ => true
  | _ => false
def FVal.isSnan : FVal → Bool
  | .nan b => b
  | _ => false
def FVal.neg? : FVal → Bool
  | .nan _ => false
  | .inf n => n
  | .fin n _ _ => n
def FVal.isZero : FVal → Bool
  | .fin _ m _ => m == 0
  | _ => false
def FVal.flip : FVal → FVal
  | .nan b => .nan b
  | .inf n => .inf !n
  | .fin n m e => .fin (!n) m e

/-- The exact product; an invalid one (0 × ∞) is a signalling NaN, so that its use raises NV. -/
def FVal.mul : FVal → FVal → FVal
  | .nan a, .nan b => .nan (a || b)
  | .nan a, _ => .nan a
  | _, .nan b => .nan b
  | .inf a, .inf b => .inf (a != b)
  | .inf a, .fin b m _ => if m = 0 then .nan true else .inf (a != b)
  | .fin a m _, .inf b => if m = 0 then .nan true else .inf (a != b)
  | .fin a m e, .fin b n k => .fin (a != b) (m * n) (e + k)

/-- A finite value's signed significand at exponent `q`, at or below its own. -/
def FVal.scaled (q : Int) : FVal → Int
  | .fin neg m e => let x : Int := (m * 2 ^ (e - q).toNat : Nat); if neg then -x else x
  | _ => 0
/-- The exponent of a finite value that is not zero. -/
def FVal.exp? : FVal → Option Int
  | .fin _ m e => if m = 0 then none else some e
  | _ => none

/-- R67, R73: the terms summed exactly and rounded once. -/
def sumRound (f : Fmt) (mode : Nat) (ts : List FVal) : FRes :=
  if ts.any FVal.isNan then nanResult f (ts.any FVal.isSnan)
  else
    let pos := ts.any fun t => t == .inf false
    let neg := ts.any fun t => t == .inf true
    if pos ∧ neg then nanResult f true
    else if pos ∨ neg then
      match f.sp with
      | .ieee => ⟨f.signed neg f.infCode, 0, false⟩
      | .e4m3 => ⟨f.nan, flagNV, false⟩
      | .none => ⟨f.signed neg f.maxCode, 0, true⟩
    else
      let q := (ts.filterMap FVal.exp?).foldl (fun a b => if a ≤ b then a else b)
        (((ts.filterMap FVal.exp?).head?).getD 0)
      let sum : Int := ts.foldl (fun a t => a + t.scaled q) 0
      if sum = 0 then
        let zneg := if ts.all FVal.neg? then true else if ts.any FVal.neg? then mode == 2 else false
        ⟨f.signed zneg 0, 0, false⟩
      else roundFin f mode (decide (sum < 0)) sum.natAbs q false

def fpAdd (f : Fmt) (mode a b : Nat) : FRes := sumRound f mode [f.val a, f.val b]
def fpSub (f : Fmt) (mode a b : Nat) : FRes := sumRound f mode [f.val a, (f.val b).flip]
def fpMul (f : Fmt) (mode a b : Nat) : FRes := sumRound f mode [(f.val a).mul (f.val b)]
/-- a × b + c, formed exactly and rounded once. -/
def fpFma (f : Fmt) (mode a b c : Nat) : FRes := sumRound f mode [(f.val a).mul (f.val b), f.val c]

/-- R68: a / b. -/
def fpDiv (f : Fmt) (mode a b : Nat) : FRes :=
  match f.val a, f.val b with
  | .nan x, .nan y => nanResult f (x || y)
  | .nan x, _ => nanResult f x
  | _, .nan y => nanResult f y
  | .inf _, .inf _ => nanResult f true
  | .inf x, .fin y _ _ => ⟨f.signed (x != y) f.infCode, 0, false⟩
  | .fin x _ _, .inf y => ⟨f.signed (x != y) 0, 0, false⟩
  | .fin x m e, .fin y n k =>
    if n = 0 then
      if m = 0 then nanResult f true else ⟨f.signed (x != y) f.infCode, flagDZ, false⟩
    else if m = 0 then ⟨f.signed (x != y) 0, 0, false⟩
    else
      let sh := f.fw + 4 + bitLen n
      roundFin f mode (x != y) (m * 2 ^ sh / n) (e - k - sh) (m * 2 ^ sh % n != 0)

/-- The integer square root, one bit of the root at a time from bit `i`-1 down. -/
def isqrtFrom (n : Nat) : Nat → Nat → Nat
  | 0, r => r
  | i + 1, r => isqrtFrom n i (if (r + 2 ^ i) * (r + 2 ^ i) ≤ n then r + 2 ^ i else r)
def isqrt (n : Nat) : Nat := isqrtFrom n (bitLen n / 2 + 1) 0

/-- R68, R103: the square root. -/
def fpSqrt (f : Fmt) (mode a : Nat) : FRes :=
  match f.val a with
  | .nan x => nanResult f x
  | .inf true => nanResult f true
  | .inf false => ⟨f.infCode, 0, false⟩
  | .fin neg m e =>
    if m = 0 then ⟨f.signed neg 0, 0, false⟩
    else if neg then nanResult f true
    else
      let odd := e % 2 != 0
      let m' := (if odd then 2 * m else m) * 2 ^ (2 * (f.fw + 4))
      let e' := (if odd then e - 1 else e) - 2 * (f.fw + 4 : Nat)
      let r := isqrt m'
      roundFin f mode false r (e' / 2) (r * r != m')

/-! ### Comparison (R75) -/

/-- The order of two values that are no NaN; −0 = +0. -/
def cmpVal (a b : FVal) : Ordering :=
  match a, b with
  | .inf x, .inf y => if x = y then .eq else if x then .lt else .gt
  | .inf x, _ => if x then .lt else .gt
  | _, .inf y => if y then .gt else .lt
  | .fin .., .fin .. =>
    let es := [a, b].filterMap FVal.exp?
    let q := es.foldl min (es.headD 0)
    compare (a.scaled q) (b.scaled q)
  | _, _ => .eq

/-- R75: IEEE comparison of two codes: the order, or unordered. -/
def fpCompare (f : Fmt) (a b : Nat) : Option Ordering :=
  if (f.val a).isNan || (f.val b).isNan then none else some (cmpVal (f.val a) (f.val b))

/-- R68: NV of an operation whose operands are the two codes: one is a signalling NaN. -/
def snanFlag (f : Fmt) (a b : Nat) : FpFlags := if (f.val a).isSnan || (f.val b).isSnan then flagNV else 0

/-- R75: minimum (`isMax` false) and maximum: a NaN gives the canonical NaN, −0 is less than +0. -/
def fpMinMax (f : Fmt) (isMax : Bool) (a b : Nat) : FRes :=
  let x := f.val a
  let y := f.val b
  if x.isNan || y.isNan then nanResult f (x.isSnan || y.isSnan)
  else
    let less := match cmpVal x y with
      | .lt => true
      | .gt => false
      | .eq => x.neg?
    ⟨if less != isMax then a else b, 0, false⟩

/-! ### Conversions (R71, R72) -/

/-- R71, R72: a value rounded to a float format; `sat` selects the saturating column of R72 for FP8. A finite overflow to E4M3
in the other column gives 0x7F in every mode. -/
def valToFp (f : Fmt) (mode : Nat) (sat : Bool) (v : FVal) : FRes :=
  match v with
  | .nan s => if f.sp = .none then ⟨0, flagNV, false⟩ else nanResult f s
  | .inf neg =>
    if sat then ⟨f.signed neg f.maxCode, 0, true⟩
    else sumRound f mode [.inf neg]
  | .fin neg m e =>
    let r := roundFin f mode neg m e false
    if r.flags &&& flagOF = 0 then r
    else if sat then ⟨f.signed neg f.maxCode, flagOF ||| flagNX, true⟩
    else if f.sp = .e4m3 then ⟨f.nan, flagOF ||| flagNX, false⟩
    else r

/-- A value rounded to an integer in the mode: the integer, and whether it is inexact; none for NaN and ∞. -/
def valToInt (mode : Nat) : FVal → Option (Int × Bool)
  | .fin neg m e =>
    let (n, x) := roundMultiple mode neg m e false 0
    some (if neg then -(n : Int) else n, x)
  | _ => none

/-- R71: a value converted to an integer in [lo, hi]: NaN gives 0, out of range the nearer bound, both with NV and SAT. -/
def valToRange (mode : Nat) (lo hi : Int) (v : FVal) : Int × FpFlags × Bool :=
  match v with
  | .nan _ => (0, flagNV, true)
  | .inf neg => (if neg then lo else hi, flagNV, true)
  | .fin .. =>
    match valToInt mode v with
    | some (n, x) =>
      if n < lo then (lo, flagNV, true) else if hi < n then (hi, flagNV, true)
      else (n, if x then flagNX else 0, false)
    | none => (0, 0, false)

/-- An integer as a value. -/
def intVal (n : Int) : FVal := .fin (decide (n < 0)) n.natAbs 0

/-- R140: a value rounded to an integral value of its format; NX is never set. -/
def fpRoundInt (f : Fmt) (mode a : Nat) : FRes :=
  match f.val a with
  | .nan s => nanResult f s
  | .inf _ => ⟨a, 0, false⟩
  | .fin neg m e =>
    if m = 0 then ⟨a, 0, false⟩
    else
      let (n, _) := roundMultiple mode neg m e false 0
      if n = 0 then ⟨f.signed neg 0, 0, false⟩
      else ⟨(roundFin f 0 neg n 0 false).code, 0, false⟩

/-- R139: va × 2^n rounded. -/
def fpLdexp (f : Fmt) (mode a : Nat) (n : Int) : FRes :=
  match f.val a with
  | .nan s => nanResult f s
  | .inf _ => ⟨a, 0, false⟩
  | .fin neg m e => roundFin f mode neg m (e + n) false

/-- R103: the mode of an instruction: its field, or VRM.RM for 7. -/
def effMode (m : BitVec 3) (vrm : Word) : Nat := if m = 7 then vrm.toNat % 8 else m.toNat

end Sys2Proof.Machine
end

