-- ==== Sys2Proof/Machine/Operands.lean ====
section
/-!
DEFINITION. Vector operands: tags (R33, R35), the placement of elements in a register (R19, R20, R61, R62), poison of
register words (R267, R268), masks (R29), the checks made at issue in the order of R86, convoys (R89), and the two shapes of
a vector instruction: element-wise (R131) and whole-vector (R132).
-/
namespace Sys2Proof.Machine

/-! ### Tags (R33, R35) -/

abbrev VTag := BitVec 32

def VTag.type (t : VTag) : Nat := t.toNat % 32
def VTag.s (t : VTag) : Bool := t.getLsbD 5
def VTag.dir (t : VTag) : Bool := t.getLsbD 6
def VTag.pay (t : VTag) : Bool := t.getLsbD 7
def VTag.strict (t : VTag) : Bool := t.getLsbD 8
def VTag.len (t : VTag) : Nat := t.toNat / 512 % 2 ^ 15
/-- R33: PW of a plane type. -/
def VTag.pw (t : VTag) : Nat := t.toNat / 2 ^ 24 % 16
/-- R61: PLn, PL1 and PZn. -/
def isPlaneType (t : Nat) : Bool := t == 16 || t == 17 || t == 18
/-- SC, which only a non-plane type has. -/
def VTag.sc (t : VTag) : Bool := !isPlaneType (VTag.type t) && t.getLsbD 24
def VTag.bs (t : VTag) : Nat := t.toNat / 2 ^ 25 % 4
def VTag.sreg (t : VTag) : Nat := t.toNat / 2 ^ 27
/-- R37: the tag with S, DIR, PAY, STRICT and LEN cleared. -/
def VTag.unsorted (t : VTag) : VTag := t &&& 0xFF00001F
/-- A tag that holds only a TYPE. -/
def typeTag (t : Nat) : VTag := BitVec.ofNat 32 t
/-- A plane tag of n planes. -/
def planeTag (t n : Nat) : VTag := BitVec.ofNat 32 (t + (n - 1) * 2 ^ 24)
/-- A sorted tag over the TYPE, SC, BS and SREG of `t`. -/
def sortedTag (t : VTag) (dir pay strict : Bool) (len : Nat) : VTag :=
  VTag.unsorted t ||| BitVec.ofNat 32 (32 + (if dir then 64 else 0) + (if pay then 128 else 0) +
    (if strict then 256 else 0) + len % 2 ^ 15 * 512)

/-- Integer types, signed, unsigned, and the floating-point types of element arithmetic (R87). -/
def isSigned (t : Nat) : Bool := decide (1 ≤ t) && decide (t ≤ 4)
def isUnsigned (t : Nat) : Bool := decide (5 ≤ t) && decide (t ≤ 8)
def isInt (t : Nat) : Bool := decide (1 ≤ t) && decide (t ≤ 8)
def isFp (t : Nat) : Bool := decide (9 ≤ t) && decide (t ≤ 12)
/-- R34: the floating-point TYPEs, FP8 and FP4 among them. -/
def isFloat (t : Nat) : Bool := decide (9 ≤ t) && decide (t ≤ 15)
def isArith (t : Nat) : Bool := decide (1 ≤ t) && decide (t ≤ 12)
/-- R35: the types that may be sorted. -/
def isSortable (t : Nat) : Bool := decide (1 ≤ t) && decide (t ≤ 14)
/-- R34: the format of a floating-point TYPE. -/
def fmtOf (t : Nat) : Fmt :=
  match t with
  | 9 => fp64 | 10 => fp32 | 11 => bf16 | 12 => fp16 | 13 => e4m3 | 14 => e5m2 | _ => e2m1

/-- R35: the tag of register `r` of a hart with footprint `foot` is well-formed; a plane tag with a bit in its reserved field is not
(log 93). -/
def tagOk (t : VTag) (r foot : Nat) : Bool :=
  let ty := VTag.type t
  decide (ty ≤ 18) && (ty != 0 || t == 0) &&
  (!VTag.s t || (isSortable ty && decide (VTag.len t ≤ 65536 / typeWidth ty))) &&
  (VTag.s t || (!VTag.dir t && !VTag.pay t && !VTag.strict t && VTag.len t == 0)) &&
  (!VTag.pay t || (r % 2 == 0 && decide (r + 1 < foot))) &&
  (if isPlaneType ty then
     t.toNat / 2 ^ 28 == 0 && (match ty with | 16 => VTag.pw t != 0 | 17 => VTag.pw t == 0 | _ => true)
   else
     (!VTag.sc t || ((ty == 1 || ty == 13 || ty == 14 || ty == 15) && decide (VTag.sreg t < foot))) &&
     (VTag.sc t || (VTag.bs t == 0 && VTag.sreg t == 0)))

/-! ### Elements (R19, R20) -/

/-- How the elements of a register are read: a TYPE code, and the planes of a plane type. -/
structure ElTy where
  code : Nat
  planes : Nat
  deriving DecidableEq, Repr

/-- The element type a tag gives. -/
def elTy (t : VTag) : ElTy := ⟨VTag.type t, if isPlaneType (VTag.type t) then VTag.pw t + 1 else 0⟩
/-- A type with no planes. -/
def plain (code : Nat) : ElTy := ⟨code, 0⟩
/-- R34, R130: the width of an element in bits; plane types count as 16. -/
def ElTy.w (t : ElTy) : Nat := typeWidth t.code
def ElTy.isPlane (t : ElTy) : Bool := isPlaneType t.code

/-- R19: the global index of local element `l` of slice `c`. -/
def globalOf (span w c l : Nat) : Nat :=
  let g := 2048 / w
  (l / g * span + c) * g + l % g
/-- R20: the first register bit of element `e`. -/
def regPos (span w e : Nat) : Nat := 65536 * (slotOf span w e).1 + w * (slotOf span w e).2
/-- R20, R62: the register bit of plane 0 of element `e`; plane p lies 4096p above it. -/
def planePos (span e : Nat) : Nat := 65536 * (slotOf span 16 e).1 + (slotOf span 16 e).2

/-- `w` bits at `pos` replaced by the low `w` bits of `v`. -/
def setField {n : Nat} (d : BitVec n) (pos w v : Nat) : BitVec n :=
  d ^^^ BitVec.ofNat n (((d.extractLsb' pos w).toNat ^^^ (v % 2 ^ w)) * 2 ^ pos)

/-- R61, R62: the code of a plane element: bit p is plane p. -/
def planeCode {n : Nat} (d : BitVec n) (pos : Nat) : Nat → Nat
  | 0 => 0
  | p + 1 => planeCode d pos p + (if d.getLsbD (pos + 4096 * p) then 2 ^ p else 0)
/-- The 16 planes of an element set to the bits of a code. -/
def setPlanes {n : Nat} (d : BitVec n) (pos v : Nat) : Nat → BitVec n
  | 0 => d
  | p + 1 => setPlanes (setField d (pos + 4096 * p) 1 (v / 2 ^ p)) pos v p

/-- R20, R62: element `e` of a register, read as `ty`. -/
def VReg.elem (r : VReg) (span : Nat) (ty : ElTy) (e : Nat) : Nat :=
  if ty.isPlane then planeCode r.data (planePos span e) ty.planes
  else (r.data.extractLsb' (regPos span ty.w e) ty.w).toNat
/-- R20, R62: element `e` of a register written as `ty`; the planes above its own are written 0. -/
def VReg.setElem (r : VReg) (span : Nat) (ty : ElTy) (e v : Nat) : VReg :=
  if ty.isPlane then { r with data := setPlanes r.data (planePos span e) (v % 2 ^ ty.planes) 16 }
  else { r with data := setField r.data (regPos span ty.w e) ty.w v }
/-- R268: element `e` lies in a poisoned word. -/
def VReg.elemPoisoned (r : VReg) (span : Nat) (ty : ElTy) (e : Nat) : Bool :=
  if r.poison = 0 then false
  else if ty.isPlane then (List.range ty.planes).any fun p => r.poison.getLsbD ((planePos span e + 4096 * p) / 64)
  else r.poison.getLsbD (regPos span ty.w e / 64)

/-- R267: were all 64 bits of word `i` written, when exactly the elements with `written` were? -/
def wordWritten (span : Nat) (ty : ElTy) (written : Nat → Bool) (i : Nat) : Bool :=
  let c := i / 1024
  let b := i % 1024 * 64
  if ty.isPlane then (List.range 64).all fun j => written (globalOf span 16 c (b % 4096 + j))
  else (List.range (64 / ty.w)).all fun j => written (globalOf span ty.w c (b / ty.w + j))

/-- R267: the words of a register that one instruction replaced whole are clean. -/
def VReg.clean (r : VReg) (span : Nat) (ty : ElTy) (written : Nat → Bool) : VReg :=
  if r.poison = 0 then r
  else
    let step (p : BitVec 8192) (i : Nat) : BitVec 8192 :=
      if r.poison.getLsbD i && wordWritten span ty written i then p &&& ~~~(1#8192 <<< i) else p
    { r with poison := (List.range 8192).foldl step r.poison }

/-! ### Registers of the hart under the cursor -/

/-- R38: SPAN. -/
def State.span (s : State) : Nat := s.hart.csr.span.toNat
/-- R130: n(w). -/
def State.nOf (s : State) (w : Nat) : Nat := min s.hart.csr.vl.toNat (s.hart.csr.vlmaxc.toNat / w)
/-- R42: VREGS and TILES. -/
def State.foot (s : State) : Nat := bits s.hart.csr.footprint 0 6
def State.tiles (s : State) : Nat := bits s.hart.csr.footprint 8 4
/-- R43: VSTART as an index. -/
def State.vstart (s : State) : Nat := s.hart.csr.vstart.toNat
/-- R41: VRM.RM. -/
def State.rm (s : State) : Nat := s.hart.csr.vrm.toNat % 8

/-- Vector register number `r`. -/
def State.v (s : State) (r : Nat) : VReg := s.hart.v[r % 32]'(Nat.mod_lt _ (by decide))
/-- Its tag and TYPE. -/
def State.vtag (s : State) (r : Nat) : VTag := (s.v r).tag
def State.vtype (s : State) (r : Nat) : Nat := VTag.type (s.vtag r)
/-- Vector register number `r` replaced. -/
def State.setV (s : State) (r : Nat) (x : VReg) : State :=
  setHart s { s.hart with v := s.hart.v.set (r % 32) x (Nat.mod_lt _ (by decide)) }
/-- R37, R39: the tag of a register written; VDIRTY is set. -/
def State.retag (s : State) (r : Nat) (t : VTag) : State :=
  (s.setV r { s.v r with tag := t }).modCsr fun c => { c with vdirty := c.vdirty ||| (1#64 <<< (r % 32)) }
/-- Element `e` of register `r`, read as `ty`. -/
def State.elem (s : State) (r : Nat) (ty : ElTy) (e : Nat) : Nat := (s.v r).elem s.span ty e
/-- R268, R328: the same for an instruction that consumes it: a poisoned word traps POISON. -/
def State.readElem (s : State) (r : Nat) (ty : ElTy) (e : Nat) : Res Nat :=
  if (s.v r).elemPoisoned s.span ty e then .trap ⟨.poison, regPoisonTval 0 r⟩ s else .ok (s.elem r ty e) s
/-- Element `e` of register `r` written as `ty`. -/
def State.setElem (s : State) (r : Nat) (ty : ElTy) (e v : Nat) : State := s.setV r ((s.v r).setElem s.span ty e v)
/-- R267: the words of register `r` that the instruction replaced whole are clean. -/
def State.cleanV (s : State) (r : Nat) (ty : ElTy) (written : Nat → Bool) : State :=
  s.setV r ((s.v r).clean s.span ty written)

/-! ### Masks (R29) -/

/-- A mask; k0 reads all ones. -/
def State.mask (s : State) (k : Nat) : MaskReg :=
  if k = 0 then ⟨BitVec.allOnes _, 0⟩ else s.hart.k[k % 8]'(Nat.mod_lt _ (by decide))
/-- R28: a mask replaced; a write to k0 is discarded. -/
def State.setMask (s : State) (k : Nat) (m : MaskReg) : State :=
  if k = 0 then s else setHart s { s.hart with k := s.hart.k.set (k % 8) m (Nat.mod_lt _ (by decide)) }
/-- R29: is element `e` active under mask `k`? -/
def State.active (s : State) (k e : Nat) : Bool := k == 0 || (s.mask k).bits.getLsbD e
/-- R268: the mask bit read by an instruction that consumes it. -/
def State.readMask (s : State) (k e : Nat) : Res Bool :=
  if k = 0 then .ok true s
  else if (s.mask k).poison.getLsbD (e / 64) then .trap ⟨.poison, regPoisonTval 2 k⟩ s
  else .ok ((s.mask k).bits.getLsbD e) s
/-- The first poisoned word of the first `n` bits of a mask: the POISON trap a whole-vector instruction takes, with the
element it lies at. -/
def State.maskPoison (s : State) (k n : Nat) : Option (Nat × Trap) :=
  if k = 0 ∨ (s.mask k).poison = 0 then none
  else ((List.range ((n + 63) / 64)).find? fun i => (s.mask k).poison.getLsbD i).map fun i =>
    (64 * i, ⟨.poison, regPoisonTval 2 k⟩)
/-- The mask whose bit e, below `n`, is `f e`; bits from `n` upward are 0 (R29). -/
def maskFrom (n : Nat) (f : Nat → Bool) : BitVec 131072 :=
  BitVec.ofNat 131072 (((List.range n).filter f).foldl (fun a e => a ||| 2 ^ e) 0)
/-- The low `n` bits of a mask. -/
def maskLow (m : BitVec 131072) (n : Nat) : BitVec 131072 := m &&& BitVec.ofNat 131072 (2 ^ n - 1)

/-! ### Checks at issue (R86) -/

/-- R88: pipe classes. -/
inductive PipeClass where
  | ls
  | ab
  | b
  | mp
  deriving DecidableEq, Repr

/-- What an instruction of the vector queue names: its pipe class, whether it is cross-group (R88) and whole-vector (R132),
its C bit, and the registers it reads and writes. -/
structure VUse where
  c : Bool := false
  cls : Option PipeClass := none
  cross : Bool := false
  whole : Bool := false
  /-- R240: an engine instruction that completes before a save. -/
  engine : Bool := false
  /-- Its effect depends on VL or it names a vector register or a mask (R45). -/
  needsVl : Bool := true
  vr : List Nat := []
  vw : List Nat := []
  /-- Vector registers read and written besides these as a source's tag decides; a footprint check of them comes later. -/
  reads : List Nat := []
  writes : List Nat := []
  kr : List Nat := []
  kw : List Nat := []
  sr : List Nat := []
  sw : List Nat := []
  zs : List Nat := []
  deriving Repr

/-- R45: VSTAT.VON. -/
def State.von (s : State) : Bool := bit s.hart.csr.vstat 8

/-- R48: ILLEGAL_REG of the least vector register beyond the footprint, or else of the least tile beyond the grant. -/
def illegalReg (s : State) (vs zs : List Nat) : Option Trap :=
  match (vs.filter fun r => decide (s.foot ≤ r)).min? with
  | some r => some ⟨.illegalReg, BitVec.ofNat 64 r⟩
  | none => ((zs.filter fun z => decide (s.tiles ≤ z)).min?).map fun z => ⟨.illegalReg, BitVec.ofNat 64 (0x100 + z)⟩

/-- The set of register numbers as bits. -/
def regSet (n : Nat) (l : List Nat) : BitVec n := l.foldl (fun a r => a ||| (1#n <<< r)) 0
/-- The same without s0 or k0, which read as constants and discard writes. -/
def regSet0 (n : Nat) (l : List Nat) : BitVec n := regSet n (l.filter (· != 0))

/-- R64: the scale register a tag with SC = 1 has the instruction read. -/
def scaleUse (s : State) (r : Nat) : List Nat := if VTag.sc (s.vtag r) then [VTag.sreg (s.vtag r)] else []

/-- R89: the pipe an instruction of the class takes; none when no pipe of its class is free. -/
def freePipe (cls : PipeClass) (used : List Pipe) : Option Pipe :=
  let one (p : Pipe) := if p ∈ used then none else some p
  match cls with
  | .ls => one .ls
  | .ab => if Pipe.a ∈ used then one .b else some .a
  | .b => one .b
  | .mp => one .mp

/-- R89: the convoy after the instruction, or the number of the first condition that fails (log 86). -/
def joinConvoy (cv : Convoy) (u : VUse) : Except Nat Convoy :=
  match u.cls with
  | none => .ok .closed
  | some cls =>
    let head := !u.c || cv.fresh
    let base : Convoy := if head then { Convoy.none with fresh := false } else cv
    if !head && !cv.joinable then .error 1
    else if 4 ≤ base.size then .error 2
    else match freePipe cls base.pipes with
      | none => .error 3
      | some p =>
        let vr := regSet 32 (u.vr ++ u.reads)
        let vw := regSet 32 (u.vw ++ u.writes)
        let kr := regSet0 8 u.kr
        let kw := regSet0 8 u.kw
        let sr := regSet0 32 u.sr
        let sw := regSet0 32 u.sw
        if vw &&& (base.vread ||| base.vwritten) ≠ 0 ∨ kw &&& (base.kread ||| base.kwritten) ≠ 0 ∨
            sw &&& (base.sread ||| base.swritten) ≠ 0 then .error 4
        else if u.cross ∧ vr &&& base.vwritten ≠ 0 then .error 5
        else .ok ⟨false, true, base.size + 1, p :: base.pipes, base.vread ||| vr, base.vwritten ||| vw,
          base.kread ||| kr, base.kwritten ||| kw, base.sread ||| sr, base.swritten ||| sw⟩

/-- R86, steps 3 to 5: NO_VL, ILLEGAL_REG, CONVOY_CONFLICT; the convoy after the instruction. -/
def issueChecks (s : State) (u : VUse) : Except Trap Convoy :=
  if u.needsVl && !s.von then .error ⟨.noVl, 0⟩
  else match illegalReg s (u.vr ++ u.vw) u.zs with
    | some t => .error t
    | none =>
      match joinConvoy s.hart.convoy u with
      | .error n => .error ⟨.convoyConflict, BitVec.ofNat 64 n⟩
      | .ok c => .ok c

/-! ### Checks of types (R87) -/

/-- R119: TVAL of TYPE_MISMATCH for the TYPE codes of up to three sources. -/
def mismatch (codes : List Nat) : Trap :=
  ⟨.typeMismatch, BitVec.ofNat 64 (codes.getD 0 0 + codes.getD 1 0 * 2 ^ 8 + codes.getD 2 0 * 2 ^ 16)⟩
/-- A condition that a check demands. -/
def demand (b : Bool) (t : Trap) : Except Trap Unit := if b then .ok () else .error t
/-- R87: no source is ILLEGAL. -/
def typed (s : State) (rs : List Nat) : Except Trap Unit :=
  match rs.find? fun r => s.vtype r == 0 with
  | some r => .error ⟨.typeIllegal, BitVec.ofNat 64 r⟩
  | none => .ok ()
/-- R65: no source has SC = 1. -/
def unscaled (s : State) (rs : List Nat) : Except Trap Unit :=
  match rs.find? fun r => VTag.sc (s.vtag r) with
  | some r => .error ⟨.scale, BitVec.ofNat 64 r⟩
  | none => .ok ()
/-- R48, R65: an operand that an instruction accepts with SC = 1: its scale register is within the footprint, of TYPE BF16,
and not the operand itself. The first check is of ILLEGAL_REG, the second of SCALE. -/
def scaleReg (s : State) (r : Nat) : Except Trap Unit :=
  if VTag.sc (s.vtag r) then
    demand (decide (VTag.sreg (s.vtag r) < s.foot)) ⟨.illegalReg, BitVec.ofNat 64 (VTag.sreg (s.vtag r))⟩
  else .ok ()
def scaleOk (s : State) (r : Nat) : Except Trap Unit :=
  if VTag.sc (s.vtag r) then
    demand (s.vtype (VTag.sreg (s.vtag r)) == 11 && VTag.sreg (s.vtag r) != r) ⟨.scale, BitVec.ofNat 64 r⟩
  else .ok ()
/-- The checks of R65 on the operands of an instruction that takes scaled ones (R87: accepted, copied or stored raw). That the
last two conditions of R65 also bind an instruction that moves or stores the codes and reads no scale is log 59. -/
def movable (s : State) (rs : List Nat) : Except Trap Unit := do
  rs.forM (scaleReg s)
  rs.forM (scaleOk s)

/-! ### Vector instructions -/

/-- R328: a scalar operand whose content a check judges is not poisoned. R86 does not place POISON among the checks at issue: that
of a judged scalar stands at the check, that of the others after all of them (log 48). -/
def cleanScalars (s : State) (rs : List (BitVec 5)) : Except Trap Unit :=
  match poisonedScalar s rs with
  | some t => .error t
  | none => .ok ()

/-- How the effect of a vector instruction ends; a trap or a hold names the element VSTART then holds. -/
inductive VRes where
  | ok (s : State)
  | trap (e : Nat) (t : Trap) (s : State)
  | hold (e : Nat) (s : State)

/-- R43, R89: a vector instruction completes: VSTART is 0, it retires, and it is a member of the convoy. -/
def vectorDone (s : State) (c : Convoy) : State :=
  let s := (s.modCsr fun c => { c with vstart := 0 }).countRetired
  setHart s { s.hart with pc := s.hart.pc + 4, convoy := c }

/-- R240: whether an engine instruction of the hart under the cursor has begun and is not complete. -/
def engineAt (s : State) (b : Bool) : State := if s.hart.engine = b then s else setHart s { s.hart with engine := b }

/-- R274: an instruction that has written a scalar register has completed what that value comes from, so that a later scalar load follows
the vector agent's atomics (log 8). -/
def resultKnown (s : State) (u : VUse) : State := if u.sw.isEmpty then s else noShadows s

/-- The instruction stands in `t` between two elements and, stopped there, would give a register that it reads another TYPE or scale,
in which the elements left could not be read again (R131, R321): it is completed before it is stopped (R392, log 100). -/
def retypes (u : VUse) (s t : State) : Bool :=
  t.hart.progress.any fun p => p.tags.any fun d => decide (d.1 ∈ u.vr ++ u.reads) &&
    (elTy d.2 != elTy (s.vtag d.1) || VTag.sc d.2 != VTag.sc (s.vtag d.1))

/-- The effect of a vector instruction, to its end in a turn that names an element where it would not be stopped. -/
def wholeTurn {α : Type} (u : VUse) (run : α → State → VRes) (a : α) (s : State) : VRes :=
  match run a s with
  | .hold e t => if s.stopAt.isSome && retypes u s t then run a { s with stopAt := none } else .hold e t
  | r => r

/-- R86, R320, R321: a vector instruction. The checks at issue come first and leave no effect on a trap; VSTART then stays as
it is for an element-wise instruction and is 0 for a whole-vector one. Then its effect. -/
def vectorRun {α : Type} (u : VUse) (check : State → Except Trap α) (run : α → State → VRes) (s : State) : Out :=
  let keep := if u.whole then 0 else s.vstart
  match issueChecks s u with
  | .error t => .next (trapAt s t keep)
  | .ok cv =>
    match check s with
    | .error t => .next (trapAt s t keep)
    | .ok a =>
      match poisonedScalar s (u.sr.map (BitVec.ofNat 5)) with
      | some t => .next (trapAt s t keep)
      | none =>
        match wholeTurn u run a s with
        | .ok s => .next (vectorDone (resultKnown (engineAt s false) u) cv)
        | .trap e t s => .next (trapAt s t e)
        | .hold e t => .next (engineAt (t.modCsr fun c => { c with vstart := BitVec.ofNat 64 e }) (u.engine || retypes u s t))

/-- A destination of an element-wise instruction: the register, the tag it takes, the type its elements are written as, and
the source element that writes element i of it. -/
structure Dest where
  reg : Nat
  tag : VTag
  ty : ElTy
  source : Nat → Nat := id

/-- R131, R321, R267: an element-wise instruction that stops at `stop` writes its destination tags, sets VDIRTY and clears
the poison of the words it replaced whole; `act` tells the elements that were active. -/
def sealDests (ds : List Dest) (act : Nat → Bool) (start stop : Nat) (s : State) : State :=
  ds.foldl (fun s d =>
    (s.cleanV d.reg d.ty fun i => decide (start ≤ d.source i) && decide (d.source i < stop) && act (d.source i)).retag
      d.reg d.tag) s

/-- R26, R315, R320: the element at which an element-wise instruction that goes from `start` to `n` stops in this turn: n, or the
one a pre-emption names. -/
def State.stopOf (s : State) (start n : Nat) : Nat :=
  match s.stopAt with
  | some e => if start < e ∧ e < n then e else n
  | none => n

/-- R276: the first element from `e` on before which an instruction over `n` elements may stop so that no aligned word of eight bytes
is read by an element below and by one that is left; `words` gives the words an element reads. The third argument bounds the search. -/
def wholeWords (words : Nat → List Nat) (n : Nat) : Nat → Nat → Nat
  | 0, _ => n
  | fuel + 1, e =>
    let seen := (List.range e).flatMap words
    match ((List.range (n - e)).map (e + ·)).reverse.find? fun j => (words j).any (· ∈ seen) with
    | some j => wholeWords words n fuel (j + 1)
    | none => e

/-- R276: a load that stops in this turn stops between two words. -/
def State.stopsBetweenWords (s : State) (n km : Nat) (words : Nat → List Nat) : State :=
  { s with stopAt := s.stopAt.map fun e =>
      if e < n then wholeWords (fun j => if s.active km j then words j else []) n n e else e }

/-- R131, R320: the element the instruction of the hart under the cursor went on from, where a turn left it between two elements,
and else VSTART. -/
def State.began (s : State) : Nat := (s.hart.progress.map (·.start)).getD s.vstart

/-- An element-wise instruction that stands at element `e` and goes on later: its destinations take their tags when it stops there
or completes (R131, R321). -/
def standAt (ds : List Dest) (act : Nat → Bool) (start e : Nat) (s : State) : State :=
  if start < e then
    let s := ds.foldl (fun s d =>
      s.cleanV d.reg d.ty fun i => decide (start ≤ d.source i) && decide (d.source i < e) && act (d.source i)) s
    setHart s { s.hart with progress := some ⟨start, ds.map fun d => (d.reg, d.tag)⟩ }
  else s

/-- R131: `body` on every active element from VSTART to n-1. -/
def elementWise (n km : Nat) (ds : List Dest) (body : Nat → State → Res Unit) (s : State) : VRes :=
  let start := s.vstart
  let began := s.began
  let act := s.active km
  let stop := s.stopOf start n
  match elemLoop (fun e s => (s.readMask km e).andThen fun a s => if a then body e s else .ok () s) (stop - start) start s with
  | .done s =>
    if stop < n then .hold stop (standAt ds act began stop s) else .ok (sealDests ds act began (max start n) s)
  | .trap e t s => .trap e t (sealDests ds act began e s)
  | .hold e s => .hold e (standAt ds act began e s)

/-! ### Element values -/

/-- R76: the ordered key of an element of TYPE `t`. -/
def orderedKey (t x : Nat) : Nat :=
  let top := 2 ^ (typeWidth t - 1)
  if isUnsigned t then x
  else if isSigned t then (if top ≤ x then x - top else x + top)
  else if top ≤ x then 2 * top - 1 - x else x + top
/-- R76: the inverse. -/
def unorderedKey (t k : Nat) : Nat :=
  let top := 2 ^ (typeWidth t - 1)
  if isUnsigned t then k
  else if isSigned t then (if top ≤ k then k - top else k + top)
  else if k < top then 2 * top - 1 - k else k - top

/-- The value of an integer element. -/
def intOf (t x : Nat) : Int :=
  if isSigned t ∧ x / 2 ^ (typeWidth t - 1) % 2 = 1 then (x : Int) - (2 ^ typeWidth t : Nat) else x
/-- R51: an integer wrapped to `w` bits. -/
def wrapTo (w : Nat) (z : Int) : Nat := (z % (2 ^ w : Nat)).toNat
/-- The range of an integer type. -/
def intLo (t : Nat) : Int := if isSigned t then -(2 ^ (typeWidth t - 1) : Nat) else 0
def intHi (t : Nat) : Int := if isSigned t then (2 ^ (typeWidth t - 1) : Nat) - 1 else (2 ^ typeWidth t : Nat) - 1
/-- R134: a scalar result of an integer type, extended to 64 bits. -/
def extend (t x : Nat) : Word := BitVec.ofInt 64 (intOf t x)

/-- R61: the value of a plane element. -/
def planeValue (ty : ElTy) (x : Nat) : Int :=
  if ty.code = 17 then (if x % 2 = 1 then 1 else -1)
  else if ty.code = 16 ∧ x / 2 ^ (ty.planes - 1) % 2 = 1 then (x : Int) - (2 ^ ty.planes : Nat)
  else x
/-- R61: the reserved code of PLn. -/
def isReserved (ty : ElTy) (x : Nat) : Bool := ty.code == 16 && x == 2 ^ (ty.planes - 1)

/-- R64: the exact value of element `e` of register `r`, which the tag types, its scale included. The scale register is read
as it stood at issue, in `s0` (R65). -/
def State.logical (s s0 : State) (r : Nat) (tag : VTag) (e : Nat) : Res FVal :=
  let ty := elTy tag
  (s.readElem r ty e).andThen fun x s =>
    let v := if isInt ty.code then intVal (intOf ty.code x) else (fmtOf ty.code).val x
    if VTag.sc tag then
      match s0.readElem (VTag.sreg tag) (plain 11) (e / (16 * 2 ^ VTag.bs tag)) with
      | .ok y _ => .ok (v.mul (bf16.val y)) s
      | .trap t _ => .trap t s
      | .hold _ => .hold s
    else .ok v s

end Sys2Proof.Machine
end

