-- ==== Sys2Proof/Machine/Transc.lean ====
section
/-!
DEFINITION. Elementary functions (R141, R159, R160, R162): the exact result enclosed far below the last place of any format
by fixed-point series, and the results an error bound admits, of which a free value picks one.
-/
namespace Sys2Proof.Machine

/-! ### Fixed-point series: a Nat n stands for n / 2^P -/

/-- Σ t * r^j / (i (i+1) … ) from the term `t` on: the series of exp. The first argument bounds the terms. -/
def fxExp (P r : Nat) : Nat → Nat → Nat → Nat
  | 0, _, _ => 0
  | n + 1, i, t => if t = 0 then 0 else t + fxExp P r n (i + 1) (t * r / 2 ^ P / (i + 1))
/-- The alternating series of cos (i = 0, t = 1) and sin (i = 1, t = y) from the term `t` on; `y2` is y². -/
def fxAlt (P y2 : Nat) : Nat → Nat → Nat → Int
  | 0, _, _ => 0
  | n + 1, i, t => if t = 0 then 0 else (t : Int) - fxAlt P y2 n (i + 2) (t * y2 / 2 ^ P / ((i + 1) * (i + 2)))
/-- The series of atan(1/k); `p` is 2^P / k^i. -/
def fxAtan (k : Nat) : Nat → Nat → Nat → Int
  | 0, _, _ => 0
  | n + 1, i, p => if p = 0 then 0 else ((p / i : Nat) : Int) - fxAtan k n (i + 2) (p / (k * k))
/-- The series of atanh; `p` is z^i and `z2` is z². -/
def fxAtanh (P z2 : Nat) : Nat → Nat → Nat → Nat
  | 0, _, _ => 0
  | n + 1, i, p => if p = 0 then 0 else p / i + fxAtanh P z2 n (i + 2) (p * z2 / 2 ^ P)

/-- π, by Machin's formula. -/
def fxPi (P : Nat) : Nat :=
  ((16 * fxAtan 5 P 1 (2 ^ (P + 16) / 5) - 4 * fxAtan 239 P 1 (2 ^ (P + 16) / 239)) / 65536).toNat
/-- ln of m in [1, 2). -/
def fxLn (P m : Nat) : Nat :=
  let z := (m - 2 ^ P) * 2 ^ P / (m + 2 ^ P)
  2 * fxAtanh P (z * z / 2 ^ P) P 1 z
/-- ln 2. -/
def fxLn2 (P : Nat) : Nat := fxLn P (2 ^ (P + 1))

/-! ### Enclosed results -/

/-- A positive result (m + ε) * 2^e, where 0 < ε < 1 when `sticky` and ε = 0 otherwise. -/
structure Approx where
  m : Nat
  e : Int
  sticky : Bool
  deriving DecidableEq, Repr

/-- 1 / (m * 2^e). -/
def approxRcp (m : Nat) (e : Int) : Approx :=
  let sh := 128 + 2 * bitLen m
  ⟨2 ^ sh / m, -e - sh, 2 ^ sh % m != 0⟩
/-- 1 / √(m * 2^e). -/
def approxRsqrt (m : Nat) (e : Int) : Approx :=
  let m' := if e % 2 = 0 then m else 2 * m
  let e' := if e % 2 = 0 then e else e - 1
  let t := 128 + bitLen m'
  let r := isqrt (2 ^ (2 * t) / m')
  ⟨r, -(t : Int) - e' / 2, r * r * m' != 2 ^ (2 * t)⟩
/-- 2^(n / 2^d). -/
def approxExp2 (n : Int) (d : Nat) : Approx :=
  let k := max (-1000000) (min 1000000 (n / (2 ^ d : Nat)))
  let fr := (n % (2 ^ d : Nat)).toNat
  if fr = 0 then ⟨1, k, false⟩
  else
    let P := 256
    let r := fr * 2 ^ P / 2 ^ d * fxLn2 P / 2 ^ P
    ⟨fxExp P r P 0 (2 ^ P), k - P, true⟩
/-- exp(-(n / 2^d)), n not 0, to `P` bits. -/
def approxExpNeg (P n d : Nat) : Approx :=
  if 2 ^ 14 ≤ n / 2 ^ d then ⟨2 ^ P, -20000 - P, true⟩
  else
    let y := n * 2 ^ (P + 32) / 2 ^ d
    let l := fxLn2 (P + 32)
    let k := y / l + 1
    ⟨fxExp (P + 32) (k * l - y) (P + 32) 0 (2 ^ (P + 32)) / 2 ^ 32, -(k : Int) - P, true⟩
/-- log₂(m * 2^e): its sign and its size. -/
def approxLog2 (m : Nat) (e : Int) : Bool × Approx :=
  let b := bitLen m - 1
  let E : Int := b + e
  if m = 2 ^ b then (decide (E < 0), ⟨E.natAbs, 0, false⟩)
  else
    let P := 256
    let v : Int := E * (2 ^ P : Nat) + (fxLn P (m * 2 ^ (P - b)) * 2 ^ P / fxLn2 P : Nat)
    (decide (v < 0), ⟨v.natAbs, -(P : Int), true⟩)

/-- sin and cos of a/2^d turn in (0, 1/8]. -/
def sinOct (a d : Nat) : Approx :=
  if bitLen a + 200 < d then ⟨2 * fxPi 256 * a, -256 - (d : Int), true⟩
  else
    let y := 2 * fxPi 512 * a / 2 ^ d
    ⟨(fxAlt 512 (y * y / 2 ^ 512) 512 1 y).toNat, -512, true⟩
def cosOct (a d : Nat) : Approx :=
  let y := 2 * fxPi 512 * a / 2 ^ d
  ⟨min (2 ^ 512 - 1) (fxAlt 512 (y * y / 2 ^ 512) 512 0 (2 ^ 512)).toNat, -512, true⟩
/-- sin and cos of a/2^d turn in [0, 1/4), d at least 3. -/
def sinQuarter (a d : Nat) : Approx :=
  if a = 0 then ⟨0, 0, false⟩ else if a ≤ 2 ^ (d - 3) then sinOct a d else cosOct (2 ^ (d - 2) - a) d
def cosQuarter (a d : Nat) : Approx :=
  if a = 0 then ⟨1, 0, false⟩ else if a ≤ 2 ^ (d - 3) then cosOct a d else sinOct (2 ^ (d - 2) - a) d
/-- sin of a/2^d turn, 0 ≤ a < 2^d, d at least 3: its sign and its size. -/
def sinTurn (a d : Nat) : Bool × Approx :=
  let g := a % 2 ^ (d - 2)
  match a / 2 ^ (d - 2) with
  | 0 => (false, sinQuarter g d)
  | 1 => (false, cosQuarter g d)
  | 2 => (true, sinQuarter g d)
  | _ => (true, cosQuarter g d)
/-- cos of a/2^d turn. -/
def cosTurn (a d : Nat) : Bool × Approx := sinTurn ((a + 2 ^ (d - 2)) % 2 ^ d) d
/-- The fraction of a turn of ±m * 2^e, over 2^(result's second). -/
def turnOf (neg : Bool) (m : Nat) (e : Int) : Nat × Nat :=
  if 0 ≤ e then (0, 3)
  else
    let d := (-e).toNat + 3
    let a := m * 8 % 2 ^ d
    (if neg then (2 ^ d - a) % 2 ^ d else a, d)

/-! ### Results within an error bound -/

/-- Can the finite code `c` be within `ulps` places of the result? The place is that of the result's own binade. -/
def withinUlps (f : Fmt) (ulps : Nat) (x : Approx) (c : Nat) : Bool :=
  match f.val c with
  | .fin _ cm ce =>
    let q := max ((bitLen x.m : Int) + x.e - (f.fw + 1 : Nat)) f.qmin
    let g := min x.e (min ce q)
    let C : Int := (cm * 2 ^ (ce - g).toNat : Nat)
    let M : Int := (x.m * 2 ^ (x.e - g).toNat : Nat)
    let K : Int := (ulps * 2 ^ (q - g).toNat : Nat)
    let U : Int := (2 ^ (x.e - g).toNat : Nat)
    if x.sticky then decide (-K < C - M) && decide (C - M < K + U) else decide (-K ≤ C - M) && decide (C - M ≤ K)
  | _ => false

/-- The magnitude codes within `ulps` places of the result, near the code `n` it rounds to. -/
def admitted (f : Fmt) (ulps : Nat) (x : Approx) (n : Nat) : List Nat :=
  (((List.range (4 * ulps + 5)).map fun i => n + i).filterMap fun c =>
    if 2 * ulps + 2 ≤ c then some (c - (2 * ulps + 2)) else none).filter fun c =>
      decide (c ≤ f.maxCode) && withinUlps f ulps x c

/-- The result that `pick` chooses among those within `ulps` places; NX when it differs from the exact one. -/
def pickWithin (f : Fmt) (ulps : Nat) (neg : Bool) (x : Approx) (pick : Nat) (r : FRes) : FRes :=
  let n := r.code % f.signBit
  let l := admitted f ulps x n
  ⟨f.signed neg (l.getD (pick % l.length) n), r.flags, r.sat⟩

/-- R141: a result: exact where it is representable; ±∞ on overflow; correctly rounded (`ulps` 0); otherwise a subnormal or zero
that `pick` chooses where it is tiny and inexact, or else within `ulps` places. -/
def boundedResult (f : Fmt) (ulps : Nat) (neg : Bool) (x : Approx) (pick : Nat) : FRes :=
  let r := roundFin f 0 neg x.m x.e x.sticky
  if r.flags &&& flagNX = 0 ∨ r.flags &&& flagOF ≠ 0 ∨ ulps = 0 then r
  else if r.flags &&& flagUF ≠ 0 then ⟨f.signed neg (pick % 2 ^ f.fw), r.flags, false⟩
  else pickWithin f ulps neg x pick r

/-- R141: the error bound of a function on a TYPE: 0 stands for correctly rounded. -/
def sfuUlps (fn t : Nat) : Nat := if t = 9 ∨ t = 10 then (if fn ≤ 1 then 1 else 2) else 0

/-- R141: VSFU function `fn` (0 rcp, 1 rsqrt, 2 sqrt, 3 exp2, 4 log2, 5 sin, 6 cos) of code `a` of TYPE `t` in format `f`. -/
def sfu (f : Fmt) (fn t mode a : Nat) : FRes :=
  let bounded (neg : Bool) (x : Approx) : FRes := boundedResult f (sfuUlps fn t) neg x (Config.sfuPick fn t a)
  if fn = 2 then fpSqrt f mode a
  else match f.val a with
    | .nan s => nanResult f s
    | .inf neg =>
      match fn with
      | 0 => ⟨f.signed neg 0, 0, false⟩
      | 1 => if neg then nanResult f true else ⟨0, 0, false⟩
      | 3 => ⟨if neg then 0 else f.infCode, 0, false⟩
      | 4 => if neg then nanResult f true else ⟨f.infCode, 0, false⟩
      | _ => nanResult f true
    | .fin neg m e =>
      match fn with
      | 0 => if m = 0 then ⟨f.signed neg f.infCode, flagDZ, false⟩ else bounded neg (approxRcp m e)
      | 1 =>
        if m = 0 then ⟨f.signed neg f.infCode, flagDZ, false⟩
        else if neg then nanResult f true else bounded false (approxRsqrt m e)
      | 3 =>
        let n : Int := if neg then -(m : Int) else m
        bounded false (if 0 ≤ e then approxExp2 (n * (2 ^ e.toNat : Nat)) 0 else approxExp2 n (-e).toNat)
      | 4 =>
        if m = 0 then ⟨f.signed true f.infCode, flagDZ, false⟩
        else if neg then nanResult f true
        else let (sg, x) := approxLog2 m e; bounded sg x
      | 5 =>
        let (t, d) := turnOf neg m e
        let (sg, x) := sinTurn t d
        if x.m = 0 ∧ !x.sticky then ⟨0, 0, false⟩ else bounded sg x
      | _ =>
        let (t, d) := turnOf neg m e
        let (sg, x) := cosTurn t d
        if x.m = 0 ∧ !x.sticky then ⟨0, 0, false⟩ else bounded sg x

/-! ### Exponentials of differences (R160) -/

/-- R160: exp(a - m) within 2 ulp of format `f`, for values with a ≤ m where both are finite; -∞ - (-∞) gives 0 and so does
-∞ - m. -/
def expDiff (f : Fmt) (a m : FVal) (pick : Nat) : FRes :=
  match a, m with
  | .nan s, _ => nanResult f s
  | _, .nan s => nanResult f s
  | .inf true, _ => ⟨0, 0, false⟩
  | .inf false, _ => nanResult f true
  | .fin .., .inf _ => ⟨0, 0, false⟩
  | .fin .., .fin .. =>
    let es := [a, m].filterMap FVal.exp?
    let q := es.foldl min (es.headD 0)
    let n := m.scaled q - a.scaled q
    let one := roundFin f 0 false 1 0 false
    if n ≤ 0 then one
    else
      let x := if 0 ≤ q then approxExpNeg 256 (n.toNat * 2 ^ q.toNat) 0 else approxExpNeg 256 n.toNat (-q).toNat
      pickWithin f 2 false x pick (roundFin f 0 false x.m x.e x.sticky)

/-- R160: the same with the exponential as it is before its rounding, within 2 ulp of exact as `pick` chooses, and as rounded,
which is never exact where the exponential is not 1. -/
def expDiffUnrounded (f : Fmt) (a m : FVal) (pick : Nat) : FVal × FRes :=
  match a, m with
  | .fin .., .fin .. =>
    let es := [a, m].filterMap FVal.exp?
    let q := es.foldl min (es.headD 0)
    let n := m.scaled q - a.scaled q
    if n ≤ 0 then (.fin false 1 0, roundFin f 0 false 1 0 false)
    else
      let x := if 0 ≤ q then approxExpNeg 256 (n.toNat * 2 ^ q.toNat) 0 else approxExpNeg 256 n.toNat (-q).toNat
      let ulp := max ((bitLen x.m : Int) + x.e - (f.fw + 1 : Nat)) f.qmin
      let k := 2 * 2 ^ (ulp - x.e).toNat
      let c := x.m + pick % (2 * k + 1) - k
      (.fin false c x.e, roundFin f 0 false c x.e true)
  | _, _ =>
    let r := expDiff f a m pick
    (f.val r.code, r)

end Sys2Proof.Machine
end

