-- ==== Sys2Proof/Machine/VectorArith.lean ====
section
/-!
DEFINITION. Vector length and configuration (R137, R138) and element arithmetic (R139-R142, R145, R146, R148-R150).
-/
namespace Sys2Proof.Machine

/-! ### Vector length and configuration -/

/-- R46, steps 1 to 3: the data of the footprint and of k1-k7 zeroed, every tag zero, VDIRTY clear, VSTAT.VON set. -/
def firstVsetvl (s : State) : State :=
  setHart s { s.hart with
    v := Vector.ofFn fun i => if i.val < s.foot then VReg.zero else { s.hart.v[i] with tag := 0 }
    k := Vector.replicate 8 .zero
    csr := { s.hart.csr with vdirty := 0, vstat := s.hart.csr.vstat ||| 0x100 } }

/-- R137: the width a width code names. -/
def vsetvlWidth (w : BitVec 3) : Nat := if w = 5 then 16 else 4 * 2 ^ w.toNat

/-- R137: VSETVL; `x` for the form that takes the request whole. -/
def vsetvl (x : Bool) (w : BitVec 3) (a d : BitVec 5) (s : State) : Out :=
  scalarRun s [a] fun s =>
    let req := (s.rs a).toNat
    let lim := s.hart.csr.vlmaxc.toNat / vsetvlWidth w
    if x ∧ lim < req then .trap ⟨.noVl, 0⟩ s
    else
      let s := if s.von then s else firstVsetvl s
      let g := if x then req else min req (min lim (s.hart.csr.budget.toNat / vsetvlWidth w))
      .ok (s.hart.pc + 4) ((s.modCsr fun c => { c with vl := BitVec.ofNat 64 g }).setRs d (BitVec.ofNat 64 g))

/-- R137: grants the least of the request, VLMAXC/w and BUDGET/w. -/
def execVsetvl (w : BitVec 3) (a d : BitVec 5) (s : State) : Out := vsetvl false w a d s
/-- R137: grants the request or traps NO_VL. -/
def execVsetvlX (w : BitVec 3) (a d : BitVec 5) (s : State) : Out := vsetvl true w a d s

/-- R138: sets the tag of vd from sb[31:0]. -/
def execVcfg (b d : BitVec 5) (s : State) : Out :=
  let tag : VTag := (s.rs b).extractLsb' 0 32 &&& 0xFF00001F
  vectorRun { whole := true, vw := [d.toNat], sr := [b.toNat] }
    (fun s => do
      cleanScalars s [b]
      demand (!bit (s.rs b) 5 && bits (s.rs b) 32 32 == 0 && tagOk tag d.toNat s.foot)
        ⟨.typeMismatch, BitVec.ofNat 64 (bits (s.rs b) 0 5)⟩)
    (fun _ s => .ok (s.retag d.toNat tag)) s

/-! ### The last source operand (R79, R87) -/

/-- The last source of an element instruction: vector register, scalar register or immediate. -/
inductive VSrc where
  | vec (b : BitVec 5)
  | sca (b : BitVec 5)
  | imm (i : BitVec 5)
  deriving DecidableEq, Repr

def VSrc.regs : VSrc → List Nat
  | .vec b => [b.toNat]
  | _ => []
def VSrc.sregs : VSrc → List Nat
  | .sca b => [b.toNat]
  | _ => []
/-- R87: its TYPE, where it is a vector. -/
def VSrc.type (x : VSrc) (s : State) : Option Nat :=
  match x with
  | .vec b => some (s.vtype b.toNat)
  | _ => none
/-- R87: its value at element `e`: the element, the low w bits of the scalar, or the immediate sign-extended to the type. -/
def VSrc.read (x : VSrc) (s : State) (ty : ElTy) (e : Nat) : Res Nat :=
  match x with
  | .vec b => s.readElem b.toNat ty e
  | .sca b => .ok ((s.rs b).toNat % 2 ^ ty.w) s
  | .imm i => .ok (wrapTo ty.w i.toInt) s
/-- R139: an immediate needs an integer type. -/
def VSrc.fits (x : VSrc) (t : Nat) : Bool :=
  match x with
  | .imm _ => isInt t
  | _ => true

/-- What an element instruction of class AB names. -/
def useOf (c : Bool) (cls : PipeClass) (k : BitVec 3) (a d : BitVec 5) (x : VSrc) : VUse :=
  { c := c, cls := some cls, vr := a.toNat :: x.regs, vw := [d.toNat], kr := [k.toNat], sr := x.sregs }

/-- The type an element is read as where the instruction only moves it: all 16 planes of a plane type (R58, R62). -/
def rawTy (t : VTag) : ElTy := ⟨VTag.type t, if isPlaneType (VTag.type t) then 16 else 0⟩

/-- A result written to element `e` of `d`, its flags merged (R69) and VSTAT.SAT set where it saturated (R51). -/
def State.put (s : State) (d : Nat) (ty : ElTy) (e : Nat) (r : FRes) : State :=
  let s := if r.flags = 0 then s else s.raise r.flags
  (s.saturate r.sat).setElem d ty e r.code

/-- An integer result, wrapped to the width of TYPE `t` (R51). -/
def intRes (t : Nat) (z : Int) : FRes := ⟨wrapTo (typeWidth t) z, 0, false⟩

/-! ### Element arithmetic (R139) -/

/-- R139: `op` of va and the last source per element, in T, the TYPE of va; the result's tag holds T alone (log 60); `legal` is the row of R87 for T and the TYPE of
vb. `f` takes the rounding mode, T, vb's TYPE and the two elements. -/
def arith (c : Bool) (cls : PipeClass) (k : BitVec 3) (x : VSrc) (a d : BitVec 5) (legal : Nat → Option Nat → Bool)
    (f : Nat → Nat → Nat → Nat → Nat → FRes) (s : State) : Out :=
  vectorRun (useOf c cls k a d x)
    (fun s => do
      typed s (a.toNat :: x.regs)
      unscaled s (a.toNat :: x.regs)
      let t := s.vtype a.toNat
      demand (legal t (x.type s) && x.fits t) (mismatch (t :: (x.type s).toList))
      .ok (t, (x.type s).getD t))
    (fun (t, tb) s =>
      let mode := s.rm
      elementWise (s.nOf (typeWidth t)) k.toNat [⟨d.toNat, typeTag t, plain t, id⟩] (fun e s =>
        (s.readElem a.toNat (plain t) e).andThen fun p s =>
          (x.read s (plain tb) e).andThen fun q s => .ok () (s.put d.toNat (plain t) e (f mode t tb p q))) s) s

/-- R87, first row: va and vb both T, an arithmetic type. -/
def sameArith (t : Nat) (tb : Option Nat) : Bool := isArith t && tb.all (· == t)
/-- R87: T an integer type, vb an integer type of the same width. -/
def intPair (t : Nat) (tb : Option Nat) : Bool := isInt t && tb.all fun u => isInt u && typeWidth u == typeWidth t
/-- R87: any non-plane types of equal width. -/
def bitPair (t : Nat) (tb : Option Nat) : Bool :=
  !isPlaneType t && tb.all fun u => !isPlaneType u && typeWidth u == typeWidth t
/-- R87: T a floating-point type, vb of T. -/
def sameFp (t : Nat) (tb : Option Nat) : Bool := isFp t && tb.all (· == t)
/-- R87: T a floating-point type, vb a signed integer of the same width, of which there is none for the 4 bits of FP4. -/
def ldexpPair (t : Nat) (tb : Option Nat) : Bool := isFloat t && t != 15 && tb.all fun u => isSigned u && typeWidth u == typeWidth t

/-- An operation with an integer and a floating-point form. -/
def byKind (i : Int → Int → Int) (g : Fmt → Nat → Nat → Nat → FRes) (mode t tb p q : Nat) : FRes :=
  if isFp t then g (fmtOf t) mode p q else intRes t (i (intOf t p) (intOf tb q))
/-- An operation on bit patterns. -/
def onBits (g : Nat → Nat → Nat → Nat) (_mode t _tb p q : Nat) : FRes :=
  ⟨g (typeWidth t) p q % 2 ^ typeWidth t, 0, false⟩
/-- An integer operation on values. -/
def onInts (i : Nat → Int → Int → Int) (_mode t tb p q : Nat) : FRes :=
  intRes t (i (typeWidth t) (intOf t p) (intOf tb q))

/-- R139: integer division: toward zero, all ones for a divisor of 0. -/
def divInt (x y : Int) : Int := if y = 0 then -1 else x.tdiv y
/-- R139: a shift right by the count mod w, arithmetic for signed T. -/
def shrOp (_mode t _tb p q : Nat) : FRes := intRes t (intOf t p / (2 ^ (q % typeWidth t) : Nat))
/-- R139: va × 2^vb, vb signed. -/
def ldexpOp (mode t _tb p q : Nat) : FRes :=
  fpLdexp (fmtOf t) mode p (BitVec.ofNat (typeWidth t) q).toInt
/-- R139: the magnitude of va with the sign bit of vb. -/
def sgnOp (_mode t _tb p q : Nat) : FRes :=
  ⟨p % 2 ^ (typeWidth t - 1) + q / 2 ^ (typeWidth t - 1) * 2 ^ (typeWidth t - 1), 0, false⟩

def addOp : Nat → Nat → Nat → Nat → Nat → FRes := byKind (· + ·) fpAdd
def subOp : Nat → Nat → Nat → Nat → Nat → FRes := byKind (· - ·) fpSub
def mulOp : Nat → Nat → Nat → Nat → Nat → FRes := byKind (· * ·) fpMul
def mulhOp : Nat → Nat → Nat → Nat → Nat → FRes := onInts fun w x y => x * y / (2 ^ w : Nat)
def divOp : Nat → Nat → Nat → Nat → Nat → FRes := byKind divInt fpDiv
def minOp : Nat → Nat → Nat → Nat → Nat → FRes := byKind min fun f _ => fpMinMax f false
def maxOp : Nat → Nat → Nat → Nat → Nat → FRes := byKind max fun f _ => fpMinMax f true
def andOp : Nat → Nat → Nat → Nat → Nat → FRes := onBits fun _ => (· &&& ·)
def orOp : Nat → Nat → Nat → Nat → Nat → FRes := onBits fun _ => (· ||| ·)
def xorOp : Nat → Nat → Nat → Nat → Nat → FRes := onBits fun _ => (· ^^^ ·)
def shlOp : Nat → Nat → Nat → Nat → Nat → FRes := onBits fun w p q => p * 2 ^ (q % w)

/-- R139: va + vb. -/
def execVaddVV (c : Bool) (k : BitVec 3) (b a d : BitVec 5) (s : State) : Out :=
  arith c .ab k (.vec b) a d sameArith addOp s
/-- R139: va + sb. -/
def execVaddVS (c : Bool) (k : BitVec 3) (b a d : BitVec 5) (s : State) : Out :=
  arith c .ab k (.sca b) a d sameArith addOp s
/-- R139: va + imm. -/
def execVaddVI (c : Bool) (k : BitVec 3) (i a d : BitVec 5) (s : State) : Out :=
  arith c .ab k (.imm i) a d sameArith addOp s
/-- R139: va − vb. -/
def execVsubVV (c : Bool) (k : BitVec 3) (b a d : BitVec 5) (s : State) : Out :=
  arith c .ab k (.vec b) a d sameArith subOp s
/-- R139: va − sb. -/
def execVsubVS (c : Bool) (k : BitVec 3) (b a d : BitVec 5) (s : State) : Out :=
  arith c .ab k (.sca b) a d sameArith subOp s
/-- R139: va − imm. -/
def execVsubVI (c : Bool) (k : BitVec 3) (i a d : BitVec 5) (s : State) : Out :=
  arith c .ab k (.imm i) a d sameArith subOp s
/-- R139: va × vb. -/
def execVmulVV (c : Bool) (k : BitVec 3) (b a d : BitVec 5) (s : State) : Out :=
  arith c .ab k (.vec b) a d sameArith mulOp s
/-- R139: va × sb. -/
def execVmulVS (c : Bool) (k : BitVec 3) (b a d : BitVec 5) (s : State) : Out :=
  arith c .ab k (.sca b) a d sameArith mulOp s
/-- R139: the high half of va × vb. -/
def execVmulhVV (c : Bool) (k : BitVec 3) (b a d : BitVec 5) (s : State) : Out :=
  arith c .ab k (.vec b) a d intPair mulhOp s
/-- R139: the high half of va × sb. -/
def execVmulhVS (c : Bool) (k : BitVec 3) (b a d : BitVec 5) (s : State) : Out :=
  arith c .ab k (.sca b) a d intPair mulhOp s
/-- R139: va / vb. -/
def execVdivVV (c : Bool) (k : BitVec 3) (b a d : BitVec 5) (s : State) : Out :=
  arith c .b k (.vec b) a d sameArith divOp s
/-- R139: va / sb. -/
def execVdivVS (c : Bool) (k : BitVec 3) (b a d : BitVec 5) (s : State) : Out :=
  arith c .b k (.sca b) a d sameArith divOp s
/-- R139: the minimum of va and vb. -/
def execVminVV (c : Bool) (k : BitVec 3) (b a d : BitVec 5) (s : State) : Out :=
  arith c .ab k (.vec b) a d sameArith minOp s
/-- R139: the minimum of va and sb. -/
def execVminVS (c : Bool) (k : BitVec 3) (b a d : BitVec 5) (s : State) : Out :=
  arith c .ab k (.sca b) a d sameArith minOp s
/-- R139: the maximum of va and vb. -/
def execVmaxVV (c : Bool) (k : BitVec 3) (b a d : BitVec 5) (s : State) : Out :=
  arith c .ab k (.vec b) a d sameArith maxOp s
/-- R139: the maximum of va and sb. -/
def execVmaxVS (c : Bool) (k : BitVec 3) (b a d : BitVec 5) (s : State) : Out :=
  arith c .ab k (.sca b) a d sameArith maxOp s
/-- R139: va AND vb. -/
def execVandVV (c : Bool) (k : BitVec 3) (b a d : BitVec 5) (s : State) : Out :=
  arith c .ab k (.vec b) a d bitPair andOp s
/-- R139: va AND sb. -/
def execVandVS (c : Bool) (k : BitVec 3) (b a d : BitVec 5) (s : State) : Out :=
  arith c .ab k (.sca b) a d bitPair andOp s
/-- R139: va AND imm. -/
def execVandVI (c : Bool) (k : BitVec 3) (i a d : BitVec 5) (s : State) : Out :=
  arith c .ab k (.imm i) a d bitPair andOp s
/-- R139: va OR vb. -/
def execVorVV (c : Bool) (k : BitVec 3) (b a d : BitVec 5) (s : State) : Out :=
  arith c .ab k (.vec b) a d bitPair orOp s
/-- R139: va OR sb. -/
def execVorVS (c : Bool) (k : BitVec 3) (b a d : BitVec 5) (s : State) : Out :=
  arith c .ab k (.sca b) a d bitPair orOp s
/-- R139: va OR imm. -/
def execVorVI (c : Bool) (k : BitVec 3) (i a d : BitVec 5) (s : State) : Out :=
  arith c .ab k (.imm i) a d bitPair orOp s
/-- R139: va XOR vb. -/
def execVxorVV (c : Bool) (k : BitVec 3) (b a d : BitVec 5) (s : State) : Out :=
  arith c .ab k (.vec b) a d bitPair xorOp s
/-- R139: va XOR sb. -/
def execVxorVS (c : Bool) (k : BitVec 3) (b a d : BitVec 5) (s : State) : Out :=
  arith c .ab k (.sca b) a d bitPair xorOp s
/-- R139: va XOR imm. -/
def execVxorVI (c : Bool) (k : BitVec 3) (i a d : BitVec 5) (s : State) : Out :=
  arith c .ab k (.imm i) a d bitPair xorOp s
/-- R139: va shifted left by vb. -/
def execVshlVV (c : Bool) (k : BitVec 3) (b a d : BitVec 5) (s : State) : Out :=
  arith c .ab k (.vec b) a d intPair shlOp s
/-- R139: va shifted left by sb. -/
def execVshlVS (c : Bool) (k : BitVec 3) (b a d : BitVec 5) (s : State) : Out :=
  arith c .ab k (.sca b) a d intPair shlOp s
/-- R139: va shifted left by imm. -/
def execVshlVI (c : Bool) (k : BitVec 3) (i a d : BitVec 5) (s : State) : Out :=
  arith c .ab k (.imm i) a d intPair shlOp s
/-- R139: va shifted right by vb. -/
def execVshrVV (c : Bool) (k : BitVec 3) (b a d : BitVec 5) (s : State) : Out :=
  arith c .ab k (.vec b) a d intPair shrOp s
/-- R139: va shifted right by sb. -/
def execVshrVS (c : Bool) (k : BitVec 3) (b a d : BitVec 5) (s : State) : Out :=
  arith c .ab k (.sca b) a d intPair shrOp s
/-- R139: va shifted right by imm. -/
def execVshrVI (c : Bool) (k : BitVec 3) (i a d : BitVec 5) (s : State) : Out :=
  arith c .ab k (.imm i) a d intPair shrOp s
/-- R139: va × 2^vb. -/
def execVldexpVV (c : Bool) (k : BitVec 3) (b a d : BitVec 5) (s : State) : Out :=
  arith c .ab k (.vec b) a d ldexpPair ldexpOp s
/-- R139: va × 2^sb. -/
def execVldexpVS (c : Bool) (k : BitVec 3) (b a d : BitVec 5) (s : State) : Out :=
  arith c .ab k (.sca b) a d ldexpPair ldexpOp s
/-- R139: va × 2^imm. -/
def execVldexpVI (c : Bool) (k : BitVec 3) (i a d : BitVec 5) (s : State) : Out :=
  arith c .ab k (.imm i) a d ldexpPair ldexpOp s
/-- R139: va with the sign of vb. -/
def execVsgnVV (c : Bool) (k : BitVec 3) (b a d : BitVec 5) (s : State) : Out :=
  arith c .ab k (.vec b) a d sameFp sgnOp s
/-- R139: va with the sign of sb. -/
def execVsgnVS (c : Bool) (k : BitVec 3) (b a d : BitVec 5) (s : State) : Out :=
  arith c .ab k (.sca b) a d sameFp sgnOp s

/-! ### VFMA (R139) -/

/-- R139: vd + va × vb per element; vd must be of TYPE T. -/
def vfma (c : Bool) (k : BitVec 3) (x : VSrc) (a d : BitVec 5) (s : State) : Out :=
  let u := useOf c .ab k a d x
  vectorRun { u with vr := u.vr ++ [d.toNat] }
    (fun s => do
      let rs := a.toNat :: x.regs ++ [d.toNat]
      typed s rs
      unscaled s rs
      let t := s.vtype a.toNat
      demand (sameArith t (x.type s) && s.vtype d.toNat == t) (mismatch (rs.map s.vtype))
      .ok t)
    (fun t s =>
      let mode := s.rm
      elementWise (s.nOf (typeWidth t)) k.toNat [⟨d.toNat, typeTag t, plain t, id⟩] (fun e s =>
        (s.readElem a.toNat (plain t) e).andThen fun p s =>
          (x.read s (plain t) e).andThen fun q s =>
            (s.readElem d.toNat (plain t) e).andThen fun r s =>
              .ok () (s.put d.toNat (plain t) e
                (if isFp t then fpFma (fmtOf t) mode p q r else intRes t (intOf t r + intOf t p * intOf t q)))) s) s

/-- R139: vd + va × vb. -/
def execVfmaVV (c : Bool) (k : BitVec 3) (b a d : BitVec 5) (s : State) : Out := vfma c k (.vec b) a d s
/-- R139: vd + va × sb. -/
def execVfmaVS (c : Bool) (k : BitVec 3) (b a d : BitVec 5) (s : State) : Out := vfma c k (.sca b) a d s

/-! ### VSEL (R142) -/

/-- R142: vd[e] := va[e] where the mask is set, else the last source; every element from VSTART is written. The result takes
the tag of va with S cleared. -/
def vsel (c : Bool) (k : BitVec 3) (x : VSrc) (a d : BitVec 5) (s : State) : Out :=
  vectorRun (useOf c .ab k a d x)
    (fun s => do
      typed s (a.toNat :: x.regs)
      movable s (a.toNat :: x.regs)
      let t := s.vtype a.toNat
      demand (x.type s |>.all (· == t)) (mismatch (t :: (x.type s).toList))
      demand (x.fits t) (mismatch [t])
      .ok (s.vtag a.toNat))
    (fun tag s =>
      let raw := rawTy tag
      elementWise (s.nOf raw.w) 0 [⟨d.toNat, VTag.unsorted tag, elTy tag, id⟩] (fun e s =>
        (s.readMask k.toNat e).andThen fun m s =>
          (if m then s.readElem a.toNat raw e else x.read s raw e).andThen fun p s =>
            .ok () (s.setElem d.toNat (elTy tag) e p)) s) s

/-- R142: selects va or vb. -/
def execVselVV (c : Bool) (k : BitVec 3) (b a d : BitVec 5) (s : State) : Out := vsel c k (.vec b) a d s
/-- R142: selects va or the scalar. -/
def execVselVS (c : Bool) (k : BitVec 3) (b a d : BitVec 5) (s : State) : Out := vsel c k (.sca b) a d s
/-- R142: selects va or the immediate. -/
def execVselVI (c : Bool) (k : BitVec 3) (i a d : BitVec 5) (s : State) : Out := vsel c k (.imm i) a d s

/-! ### Unary operations (R140, R141) -/

/-- A unary operation `f` on T, in the rounding mode given, where `legal`. -/
def unary (c : Bool) (cls : PipeClass) (k : BitVec 3) (a d : BitVec 5) (legal : Nat → Bool) (mode : State → Nat)
    (f : Nat → Nat → Nat → FRes) (s : State) : Out :=
  vectorRun { c := c, cls := some cls, vr := [a.toNat], vw := [d.toNat], kr := [k.toNat] }
    (fun s => do
      typed s [a.toNat]
      unscaled s [a.toNat]
      let t := s.vtype a.toNat
      demand (legal t) (mismatch [t])
      .ok t)
    (fun t s =>
      let mode := mode s
      elementWise (s.nOf (typeWidth t)) k.toNat [⟨d.toNat, typeTag t, plain t, id⟩] (fun e s =>
        (s.readElem a.toNat (plain t) e).andThen fun p s => .ok () (s.put d.toNat (plain t) e (f mode t p))) s) s

/-- R140: the sign bit cleared, the absolute value wrapped, or the value itself. -/
def absOp (_mode t p : Nat) : FRes :=
  if isFp t then ⟨p % 2 ^ (typeWidth t - 1), 0, false⟩ else intRes t (intOf t p).natAbs
/-- R140: VABS. -/
def execVabs (c : Bool) (k : BitVec 3) (a d : BitVec 5) (s : State) : Out := unary c .ab k a d isArith State.rm absOp s
/-- R140: VRND: rounded to an integral value in the mode. -/
def execVrnd (c : Bool) (k m : BitVec 3) (a d : BitVec 5) (s : State) : Out :=
  unary c .ab k a d isFp (fun s => effMode m s.hart.csr.vrm) (fun mode t p => fpRoundInt (fmtOf t) mode p) s
/-- R141: a VSFU function. -/
def vsfu (fn : Nat) (c : Bool) (k : BitVec 3) (a d : BitVec 5) (s : State) : Out :=
  unary c .b k a d isFp State.rm (fun mode t p => sfu (fmtOf t) fn t mode p) s
/-- R141: 1/x. -/
def execVsfuRcp (c : Bool) (k : BitVec 3) (a d : BitVec 5) (s : State) : Out := vsfu 0 c k a d s
/-- R141: 1/√x. -/
def execVsfuRsqrt (c : Bool) (k : BitVec 3) (a d : BitVec 5) (s : State) : Out := vsfu 1 c k a d s
/-- R141: √x. -/
def execVsfuSqrt (c : Bool) (k : BitVec 3) (a d : BitVec 5) (s : State) : Out := vsfu 2 c k a d s
/-- R141: 2^x. -/
def execVsfuExp2 (c : Bool) (k : BitVec 3) (a d : BitVec 5) (s : State) : Out := vsfu 3 c k a d s
/-- R141: log₂ x. -/
def execVsfuLog2 (c : Bool) (k : BitVec 3) (a d : BitVec 5) (s : State) : Out := vsfu 4 c k a d s
/-- R141: sin(2πx). -/
def execVsfuSin (c : Bool) (k : BitVec 3) (a d : BitVec 5) (s : State) : Out := vsfu 5 c k a d s
/-- R141: cos(2πx). -/
def execVsfuCos (c : Bool) (k : BitVec 3) (a d : BitVec 5) (s : State) : Out := vsfu 6 c k a d s

/-! ### Carry chains (R145) -/

/-- R267: the words of mask `k` whose 64 bits were all written are clean. -/
def State.cleanMask (s : State) (k : Nat) (written : Nat → Bool) : State :=
  let m := s.mask k
  if m.poison = 0 then s
  else
    let step (p : BitVec 2048) (i : Nat) : BitVec 2048 :=
      if p.getLsbD i && (List.range 64).all (fun j => written (64 * i + j)) then p &&& ~~~(1#2048 <<< i) else p
    s.setMask k { m with poison := (List.range 2048).foldl step m.poison }

/-- Bit `e` of mask `k` written. -/
def State.setMaskBit (s : State) (k e : Nat) (b : Bool) : State :=
  let m := s.mask k
  s.setMask k { m with bits := setField m.bits e 1 (if b then 1 else 0) }

/-- R29, R145: what an element-wise instruction leaves of the mask it writes: when it completes, bits from `n` upward are
0; the words it replaced whole are clean. `act` tells the elements that were active. -/
def sealMask (k n start : Nat) (act : Nat → Bool) (r : VRes) : VRes :=
  let wrote (stop e : Nat) : Bool := decide (start ≤ e) && decide (e < stop) && act e
  match r with
  | .ok s =>
    let m := s.mask k
    .ok ((s.setMask k { m with bits := maskLow m.bits n }).cleanMask k fun e => wrote n e || decide (n ≤ e))
  | .trap e t s => .trap e t (s.cleanMask k (wrote e))
  | .hold e s => .hold e (s.cleanMask k (wrote e))

/-- R145: VADC and VSBC: `f` gives from va[e], vb[e] and the carry the exact result; kc takes whether it leaves [0, 2^w). -/
def carryChain (c : Bool) (kc : BitVec 3) (x : VSrc) (a d : BitVec 5) (f : Int → Int → Int → Int) (s : State) : Out :=
  let u := useOf c .ab kc a d x
  vectorRun { u with kw := [kc.toNat] }
    (fun s => do
      typed s (a.toNat :: x.regs)
      unscaled s (a.toNat :: x.regs)
      let t := s.vtype a.toNat
      demand (intPair t (x.type s)) (mismatch (t :: (x.type s).toList))
      .ok t)
    (fun t s =>
      let w := typeWidth t
      let n := s.nOf w
      sealMask kc.toNat n s.began (fun _ => true) (elementWise n 0 [⟨d.toNat, typeTag t, plain t, id⟩] (fun e s =>
        (s.readMask kc.toNat e).andThen fun cin s =>
          (s.readElem a.toNat (plain t) e).andThen fun p s =>
            (x.read s (plain t) e).andThen fun q s =>
              let z := f p q (if cin then 1 else 0)
              .ok () ((s.setMaskBit kc.toNat e (decide (z < 0) || decide ((2 ^ w : Nat) ≤ z))).setElem d.toNat (plain t) e
                (wrapTo w z))) s)) s

/-- R145: va + vb + carry. -/
def execVadcVV (c : Bool) (k : BitVec 3) (b a d : BitVec 5) (s : State) : Out :=
  carryChain c k (.vec b) a d (fun p q r => p + q + r) s
/-- R145: va + sb + carry. -/
def execVadcVS (c : Bool) (k : BitVec 3) (b a d : BitVec 5) (s : State) : Out :=
  carryChain c k (.sca b) a d (fun p q r => p + q + r) s
/-- R145: va − vb − borrow. -/
def execVsbcVV (c : Bool) (k : BitVec 3) (b a d : BitVec 5) (s : State) : Out :=
  carryChain c k (.vec b) a d (fun p q r => p - q - r) s
/-- R145: va − sb − borrow. -/
def execVsbcVS (c : Bool) (k : BitVec 3) (b a d : BitVec 5) (s : State) : Out :=
  carryChain c k (.sca b) a d (fun p q r => p - q - r) s

/-! ### Widening (R146) -/

/-- R87: the double-width TYPE, 0 where there is none. -/
def wideType (t : Nat) : Nat :=
  match t with
  | 1 => 2 | 2 => 3 | 3 => 4 | 5 => 6 | 6 => 7 | 7 => 8 | 10 => 9 | 11 => 10 | 12 => 10 | _ => 0

/-- R146: `r` combines the exact widened operands; with `fma` the pair's element is the addend. Element e goes to element
e div 2 of register vd + (e mod 2). -/
def widening (c : Bool) (k : BitVec 3) (x : VSrc) (a d : BitVec 5) (fma mul : Bool) (s : State) : Out :=
  let d0 := d.toNat
  let acc := if fma then [d0, d0 + 1] else []
  vectorRun { c := c, cls := some .ab, vr := a.toNat :: x.regs ++ acc, vw := [d0, d0 + 1], kr := [k.toNat], sr := x.sregs }
    (fun s => do
      let rs := a.toNat :: x.regs ++ acc
      typed s rs
      unscaled s rs
      let t := s.vtype a.toNat
      demand (wideType t != 0 && (x.type s).all (· == t) && acc.all fun r => s.vtype r == wideType t)
        (mismatch (rs.map s.vtype))
      .ok t)
    (fun t s =>
      let mode := s.rm
      let W := wideType t
      elementWise (s.nOf (typeWidth t)) k.toNat
        [⟨d0, typeTag W, plain W, fun i => 2 * i⟩, ⟨d0 + 1, typeTag W, plain W, fun i => 2 * i + 1⟩] (fun e s =>
        (s.readElem a.toNat (plain t) e).andThen fun p s =>
          (x.read s (plain t) e).andThen fun q s =>
            (if fma then s.readElem (d0 + e % 2) (plain W) (e / 2) else .ok 0 s).andThen fun z s =>
              let res :=
                if isFp t then
                  let u := (fmtOf t).val p
                  let v := (fmtOf t).val q
                  sumRound (fmtOf W) mode (if mul then u.mul v :: (if fma then [(fmtOf W).val z] else []) else [u, v])
                else
                  let u := intOf t p
                  let v := intOf t q
                  intRes W ((if mul then u * v else u + v) + (if fma then intOf W z else 0))
              .ok () (s.put (d0 + e % 2) (plain W) (e / 2) res)) s) s

/-- R146: va + vb. -/
def execVwaddVV (c : Bool) (k : BitVec 3) (b a d : BitVec 5) (s : State) : Out := widening c k (.vec b) a d false false s
/-- R146: va + sb. -/
def execVwaddVS (c : Bool) (k : BitVec 3) (b a d : BitVec 5) (s : State) : Out := widening c k (.sca b) a d false false s
/-- R146: va × vb. -/
def execVwmulVV (c : Bool) (k : BitVec 3) (b a d : BitVec 5) (s : State) : Out := widening c k (.vec b) a d false true s
/-- R146: va × sb. -/
def execVwmulVS (c : Bool) (k : BitVec 3) (b a d : BitVec 5) (s : State) : Out := widening c k (.sca b) a d false true s
/-- R146: va × vb + the pair. -/
def execVwfmaVV (c : Bool) (k : BitVec 3) (b a d : BitVec 5) (s : State) : Out := widening c k (.vec b) a d true true s
/-- R146: va × sb + the pair. -/
def execVwfmaVS (c : Bool) (k : BitVec 3) (b a d : BitVec 5) (s : State) : Out := widening c k (.sca b) a d true true s

/-! ### Conversion (R71, R148-R150) -/

/-- The exact value of an element to convert: its plane value (R61), or its logical value, scale included (R64), and the
integer it is where it has no scale. A reserved code traps (R63), before POISON at one index (R86). `s0` is the state at issue, which holds the scales (R65). -/
def convertSource (s0 s : State) (r : Nat) (tag : VTag) (e : Nat) : Res (FVal × Option Int) :=
  let ty := elTy tag
  if ty.isPlane then
    if isReserved ty (s.elem r ty e) then .trap ⟨.reservedCode, BitVec.ofNat 64 r⟩ s
    else (s.readElem r ty e).andThen fun p s => .ok (intVal (planeValue ty p), some (planeValue ty p)) s
  else if VTag.sc tag then (s.logical s0 r tag e).andThen fun v s => .ok (v, none) s
  else (s.readElem r ty e).andThen fun p s =>
    if isInt ty.code then .ok (intVal (intOf ty.code p), some (intOf ty.code p)) s else .ok ((fmtOf ty.code).val p, none) s

/-- R71: the value converted to a non-plane TYPE in the mode; an integer keeps its bits, since R148 names no saturating form (log 91),
and a plane value clamps. -/
def convertTo (t mode : Nat) (plane : Bool) (v : FVal) (z : Option Int) : FRes :=
  if isInt t then
    match z with
    | some z =>
      if plane then
        let y := max (intLo t) (min (intHi t) z)
        ⟨wrapTo (typeWidth t) y, 0, y != z⟩
      else intRes t z
    | none =>
      let (y, fl, sat) := valToRange mode (intLo t) (intHi t) v
      ⟨wrapTo (typeWidth t) y, fl, sat⟩
  else valToFp (fmtOf t) mode false v

/-- R148: converts each active element to TYPE `t` of equal width. -/
def execVcvt (c : Bool) (k : BitVec 3) (t a d : BitVec 5) (s : State) : Out :=
  let r := a.toNat
  let dt := t.toNat
  vectorRun { c := c, cls := some .ab, vr := [r], vw := [d.toNat], reads := scaleUse s r, kr := [k.toNat] }
    (fun s => do
      typed s [r]
      movable s [r]
      let st := s.vtype r
      demand (dt != 0 && decide (dt ≤ 15) && typeWidth dt == typeWidth st &&
        (!isPlaneType st || dt == 2 || dt == 6 || dt == 11 || dt == 12)) (mismatch [st])
      .ok (s.vtag r))
    (fun tag s0 =>
      let mode := s0.rm
      elementWise (s0.nOf (typeWidth (VTag.type tag))) k.toNat [⟨d.toNat, typeTag dt, plain dt, id⟩] (fun e s =>
        (convertSource s0 s r tag e).andThen fun (v, z) s =>
          .ok () (s.put d.toNat (plain dt) e (convertTo dt mode (isPlaneType (VTag.type tag)) v z))) s0) s

/-- R149: the pairs VUNPACK converts. -/
def unpackLegal (st dt : Nat) : Bool :=
  match st with
  | 11 => dt == 10
  | 12 => dt == 10
  | 13 => dt == 12 || dt == 11 || dt == 10
  | 14 => dt == 12 || dt == 11 || dt == 10
  | 15 => dt == 13 || dt == 14 || dt == 12 || dt == 11
  | _ => (isInt st && isInt dt && isSigned st == isSigned dt) &&
      (typeWidth dt == 2 * typeWidth st || typeWidth dt == 4 * typeWidth st)

/-- The word of a format V instruction. -/
def wordV (c : Bool) (f6 k b a d op : Nat) : Nat :=
  (if c then 2 ^ 31 else 0) + f6 * 2 ^ 25 + k * 2 ^ 22 + b * 2 ^ 17 + a * 2 ^ 12 + d * 2 ^ 7 + op

/-- R86, R149: widens by ρ: element e goes to element e div ρ of register vd + (e mod ρ). The footprint of the ρ registers is
checked after the TYPEs. -/
def execVunpack (c : Bool) (k : BitVec 3) (t a d : BitVec 5) (s : State) : Out :=
  let r := a.toNat
  let dt := t.toNat
  let d0 := d.toNat
  let ratio (st : Nat) := typeWidth dt / typeWidth st
  let written := if unpackLegal (s.vtype r) dt then (List.range (ratio (s.vtype r))).map (d0 + ·) else [d0]
  vectorRun { c := c, cls := some .b, vr := [r], reads := scaleUse s r, writes := written, kr := [k.toNat] }
    (fun s => do
      typed s [r]
      movable s [r]
      let st := s.vtype r
      demand (unpackLegal st dt) (mismatch [st])
      demand (d0 % ratio st == 0) ⟨.illegalInsn, BitVec.ofNat 64 (wordV c 3 k.toNat dt r d0 0x24)⟩
      match illegalReg s ((List.range (ratio st)).map (d0 + ·)) [] with
      | some t => .error t
      | none => .ok (s.vtag r))
    (fun tag s0 =>
      let mode := s0.rm
      let ρ := ratio (VTag.type tag)
      elementWise (s0.nOf (typeWidth (VTag.type tag))) k.toNat
        ((List.range ρ).map fun j => ⟨d0 + j, typeTag dt, plain dt, fun i => ρ * i + j⟩) (fun e s =>
        (convertSource s0 s r tag e).andThen fun (v, z) s =>
          .ok () (s.put (d0 + e % ρ) (plain dt) (e / ρ) (convertTo dt mode false v z))) s0) s

/-- R150: ρ FP32 registers narrowed into one: element i of register va + j goes to element ρi + j. All ρ elements at i are
read before any is written, so that one that traps at i has committed nothing of i (R69). -/
def vpack (ρ : Nat) (legal : Nat → Bool) (c y : Bool) (m : BitVec 3) (t a d : BitVec 5) (s : State) : Out :=
  let rs := (List.range ρ).map (a.toNat + ·)
  let dt := t.toNat
  vectorRun { c := c, cls := some .b, vr := rs, vw := [d.toNat] }
    (fun s => do
      typed s rs
      unscaled s rs
      demand (legal dt && rs.all fun r => s.vtype r == 10) (mismatch (rs.map s.vtype)))
    (fun _ s0 =>
      let mode := effMode m s0.hart.csr.vrm
      elementWise (s0.nOf 32) 0 [⟨d.toNat, typeTag dt, plain dt, (· / ρ)⟩] (fun i s =>
        (resLoop (fun j s => (s.readElem (a.toNat + j) (plain 10) i).andThen fun _ s => .ok () s) ρ 0 s).andThen fun _ s =>
          resLoop (fun j s =>
            .ok () (s.put d.toNat (plain dt) (ρ * i + j)
              (valToFp (fmtOf dt) mode y (fp32.val (s0.elem (a.toNat + j) (plain 10) i))))) ρ 0 s) s0) s

/-- R150: two registers into BF16 or FP16. -/
def execVpack2 (c y : Bool) (m : BitVec 3) (t a d : BitVec 5) (s : State) : Out :=
  vpack 2 (fun t => t == 11 || t == 12) c y m t a d s
/-- R150: four registers into E4M3, E5M2 or E2M1. -/
def execVpack4 (c y : Bool) (m : BitVec 3) (t a d : BitVec 5) (s : State) : Out :=
  vpack 4 (fun t => t == 13 || t == 14 || t == 15) c y m t a d s

end Sys2Proof.Machine
end

