-- ==== Sys2Proof/Machine/VectorMask.lean ====
section
/-!
DEFINITION. Compares (R143) and mask operations (R144).
-/
namespace Sys2Proof.Machine

/-! ### Compares (R143) -/

/-- R75, R143: the comparison of two elements of TYPE `t`: their order, or none where they are unordered. -/
def elementOrder (t p q : Nat) : Option Ordering :=
  if isFp t then fpCompare (fmtOf t) p q else some (compare (intOf t p) (intOf t q))
/-- R68, R143: NV for a signalling NaN. -/
def orderFlags (t p q : Nat) : FpFlags := if isFp t then snanFlag (fmtOf t) p q else 0

/-- R143: kd[e] := whether the relation holds of va[e] and the last source, for the active elements. -/
def vcmp (c : Bool) (k : BitVec 3) (x : VSrc) (a d : BitVec 5) (rel : Option Ordering → Bool) (s : State) : Out :=
  let kd := d.toNat
  vectorRun { c := c, cls := some .ab, vr := a.toNat :: x.regs, kr := [k.toNat], kw := [kd], sr := x.sregs }
    (fun s => do
      typed s (a.toNat :: x.regs)
      unscaled s (a.toNat :: x.regs)
      let t := s.vtype a.toNat
      demand (sameArith t (x.type s)) (mismatch (t :: (x.type s).toList))
      .ok t)
    (fun t s0 =>
      let n := s0.nOf (typeWidth t)
      sealMask kd n s0.began (s0.active k.toNat) (elementWise n k.toNat [] (fun e s =>
        (s.readElem a.toNat (plain t) e).andThen fun p s =>
          (x.read s (plain t) e).andThen fun q s =>
            let s := if orderFlags t p q = 0 then s else s.raise (orderFlags t p q)
            .ok () (s.setMaskBit kd e (rel (elementOrder t p q)))) s0)) s

/-- R143: va = vb. -/
def execVcmpEqVV (c : Bool) (k : BitVec 3) (b a d : BitVec 5) (s : State) : Out :=
  vcmp c k (.vec b) a d (fun o => o == some .eq) s
/-- R143: va ≠ vb. -/
def execVcmpNeVV (c : Bool) (k : BitVec 3) (b a d : BitVec 5) (s : State) : Out :=
  vcmp c k (.vec b) a d (fun o => o != some .eq) s
/-- R143: va < vb. -/
def execVcmpLtVV (c : Bool) (k : BitVec 3) (b a d : BitVec 5) (s : State) : Out :=
  vcmp c k (.vec b) a d (fun o => o == some .lt) s
/-- R143: va ≤ vb. -/
def execVcmpLeVV (c : Bool) (k : BitVec 3) (b a d : BitVec 5) (s : State) : Out :=
  vcmp c k (.vec b) a d (fun o => o == some .lt || o == some .eq) s
/-- R143: va > vb. -/
def execVcmpGtVV (c : Bool) (k : BitVec 3) (b a d : BitVec 5) (s : State) : Out :=
  vcmp c k (.vec b) a d (fun o => o == some .gt) s
/-- R143: va ≥ vb. -/
def execVcmpGeVV (c : Bool) (k : BitVec 3) (b a d : BitVec 5) (s : State) : Out :=
  vcmp c k (.vec b) a d (fun o => o == some .gt || o == some .eq) s
/-- R143: no NaN is present. -/
def execVcmpOrdVV (c : Bool) (k : BitVec 3) (b a d : BitVec 5) (s : State) : Out :=
  vcmp c k (.vec b) a d (fun o => o.isSome) s
/-- R143: a NaN is present. -/
def execVcmpUnordVV (c : Bool) (k : BitVec 3) (b a d : BitVec 5) (s : State) : Out :=
  vcmp c k (.vec b) a d (fun o => o.isNone) s
/-- R143: va = sb. -/
def execVcmpEqVS (c : Bool) (k : BitVec 3) (b a d : BitVec 5) (s : State) : Out :=
  vcmp c k (.sca b) a d (fun o => o == some .eq) s
/-- R143: va ≠ sb. -/
def execVcmpNeVS (c : Bool) (k : BitVec 3) (b a d : BitVec 5) (s : State) : Out :=
  vcmp c k (.sca b) a d (fun o => o != some .eq) s
/-- R143: va < sb. -/
def execVcmpLtVS (c : Bool) (k : BitVec 3) (b a d : BitVec 5) (s : State) : Out :=
  vcmp c k (.sca b) a d (fun o => o == some .lt) s
/-- R143: va ≤ sb. -/
def execVcmpLeVS (c : Bool) (k : BitVec 3) (b a d : BitVec 5) (s : State) : Out :=
  vcmp c k (.sca b) a d (fun o => o == some .lt || o == some .eq) s
/-- R143: va > sb. -/
def execVcmpGtVS (c : Bool) (k : BitVec 3) (b a d : BitVec 5) (s : State) : Out :=
  vcmp c k (.sca b) a d (fun o => o == some .gt) s
/-- R143: va ≥ sb. -/
def execVcmpGeVS (c : Bool) (k : BitVec 3) (b a d : BitVec 5) (s : State) : Out :=
  vcmp c k (.sca b) a d (fun o => o == some .gt || o == some .eq) s
/-- R143: no NaN is present. -/
def execVcmpOrdVS (c : Bool) (k : BitVec 3) (b a d : BitVec 5) (s : State) : Out :=
  vcmp c k (.sca b) a d (fun o => o.isSome) s
/-- R143: a NaN is present. -/
def execVcmpUnordVS (c : Bool) (k : BitVec 3) (b a d : BitVec 5) (s : State) : Out :=
  vcmp c k (.sca b) a d (fun o => o.isNone) s

/-! ### Mask operations (R144) -/

/-- The first poisoned word of the first `n` bits of the masks. -/
def masksPoison (s : State) (ks : List Nat) (n : Nat) : Option (Nat × Trap) :=
  (ks.filterMap fun k => s.maskPoison k n).foldl (fun best x => match best with
    | some b => if x.1 < b.1 then some x else some b
    | none => some x) none

/-- R132, R144: a whole-vector operation that reads the first VL bits of masks. -/
def maskRead (u : VUse) (f : Nat → State → State) (s : State) : Out :=
  vectorRun { u with cls := some .ab, whole := true } (fun _ => .ok ())
    (fun _ s =>
      let n := s.hart.csr.vl.toNat
      match masksPoison s u.kr n with
      | some (e, t) => .trap e t s
      | none => .ok (f n s)) s

/-- R144: kd := `f` of the first VL bits of ka and kb; the bits from VL upward are 0. -/
def maskOp (c : Bool) (ks : List (BitVec 5)) (d : BitVec 5) (f : List (BitVec 131072) → BitVec 131072) (s : State) : Out :=
  maskRead { c := c, kr := ks.map (·.toNat), kw := [d.toNat] } (fun n s =>
    s.setMask d.toNat ⟨maskLow (f (ks.map fun k => maskLow (s.mask k.toNat).bits n)) n, 0⟩) s

/-- R144: bitwise AND. -/
def execKand (c : Bool) (b a d : BitVec 5) (s : State) : Out := maskOp c [a, b] d (fun l => l.getD 0 0 &&& l.getD 1 0) s
/-- R144: bitwise OR. -/
def execKor (c : Bool) (b a d : BitVec 5) (s : State) : Out := maskOp c [a, b] d (fun l => l.getD 0 0 ||| l.getD 1 0) s
/-- R144: bitwise XOR. -/
def execKxor (c : Bool) (b a d : BitVec 5) (s : State) : Out := maskOp c [a, b] d (fun l => l.getD 0 0 ^^^ l.getD 1 0) s
/-- R144: ka AND NOT kb. -/
def execKandn (c : Bool) (b a d : BitVec 5) (s : State) : Out :=
  maskOp c [a, b] d (fun l => l.getD 0 0 &&& ~~~(l.getD 1 0)) s
/-- R144: NOT ka. -/
def execKnot (c : Bool) (a d : BitVec 5) (s : State) : Out := maskOp c [a] d (fun l => ~~~(l.getD 0 0)) s
/-- R144: kd[e] := ka[e−1]. -/
def execKshl (c : Bool) (a d : BitVec 5) (s : State) : Out := maskOp c [a] d (fun l => l.getD 0 0 <<< 1) s
/-- R144: kd[e] := ka[e+1]. -/
def execKshr (c : Bool) (a d : BitVec 5) (s : State) : Out := maskOp c [a] d (fun l => l.getD 0 0 >>> 1) s

/-- R144: sd := the count of ones of ka below VL. -/
def execKpopc (c : Bool) (a d : BitVec 5) (s : State) : Out :=
  maskRead { c := c, kr := [a.toNat], sw := [d.toNat] } (fun n s =>
    s.setRs d (BitVec.ofNat 64 ((List.range n).countP fun e => (s.mask a.toNat).bits.getLsbD e))) s
/-- R144: sd := the lowest element below VL whose bit of ka is 1, or all ones. -/
def execKfirst (c : Bool) (a d : BitVec 5) (s : State) : Out :=
  maskRead { c := c, kr := [a.toNat], sw := [d.toNat] } (fun n s =>
    s.setRs d (match (List.range n).find? fun e => (s.mask a.toNat).bits.getLsbD e with
      | some e => BitVec.ofNat 64 e
      | none => BitVec.allOnes 64)) s
/-- R144: kd[e] := sa[e] for e below 64 and VL, 0 elsewhere. -/
def execKmovs (c : Bool) (a d : BitVec 5) (s : State) : Out :=
  maskRead { c := c, kw := [d.toNat], sr := [a.toNat] } (fun n s =>
    s.setMask d.toNat ⟨maskLow ((s.rs a).zeroExtend 131072) n, 0⟩) s

end Sys2Proof.Machine
end

