-- ==== Sys2Proof/Machine/VectorMove.lean ====
section
/-!
DEFINITION. Moves and permutes (R147, R151-R156), and the shape of a whole-vector instruction (R132).
-/
namespace Sys2Proof.Machine

/-! ### Whole-vector instructions (R132) -/

/-- The trap of a whole-vector instruction, with the index of the poisoned element for POISON. -/
abbrev WholeTrap := Nat × Trap

/-- R268: element `e` of register `r`, which a whole-vector instruction reads. -/
def State.source (s : State) (r : Nat) (ty : ElTy) (e : Nat) : Except WholeTrap Nat :=
  if (s.v r).elemPoisoned s.span ty e then .error (e, ⟨.poison, regPoisonTval 0 r⟩) else .ok (s.elem r ty e)
/-- R268: bit `e` of mask `k`. -/
def State.sourceMask (s : State) (k e : Nat) : Except WholeTrap Bool :=
  if k ≠ 0 ∧ (s.mask k).poison.getLsbD (e / 64) = true then .error (e, ⟨.poison, regPoisonTval 2 k⟩)
  else .ok (s.active k e)

/-- R86, R132: of two traps the one whose poisoned element has the lower index, the first where they are equal (log 58). -/
def lowerTrap (x y : WholeTrap) : WholeTrap := if y.1 < x.1 then y else x

/-- `f` on each item. Where several read poison, the lowest poisoned element is reported. -/
def collect {α β : Type} (f : α → Except WholeTrap (Option β)) : List α → Except WholeTrap (List β)
  | [] => .ok []
  | x :: r =>
    match f x, collect f r with
    | .error t, .error u => .error (lowerTrap t u)
    | .error t, .ok _ => .error t
    | .ok _, .error u => .error u
    | .ok o, .ok l => .ok (o.toList ++ l)

/-- One element to write: register, element, value. -/
structure Put where
  reg : Nat
  elem : Nat
  value : Nat
  deriving DecidableEq, Repr

/-- The elements written, each register under its new tag; a register's words that were replaced whole are clean (R267). -/
def writeAll (tags : List (Nat × VTag)) (ws : List Put) (s : State) : State :=
  let s := ws.foldl (fun s w => s.setElem w.reg (elTy ((tags.find? (·.1 == w.reg)).map (·.2) |>.getD 0)) w.elem w.value) s
  tags.foldl (fun s t =>
    let s := if (s.v t.1).poison = 0 then s else s.cleanV t.1 (elTy t.2) fun e => ws.any fun w => w.reg == t.1 && w.elem == e
    s.retag t.1 t.2) s

/-- R132: a whole-vector instruction: `f` reads everything, then the elements are written, and VSTAT takes the bits `f` gives. -/
def wholeRun {α : Type} (u : VUse) (check : State → Except Trap α) (tags : α → List (Nat × VTag))
    (f : α → State → Except WholeTrap (List Put × List Nat)) (s : State) : Out :=
  vectorRun { u with whole := true } check (fun a s =>
    match f a s with
    | .error (e, t) => .trap e t s
    | .ok (ws, stat) => .ok (stat.foldl State.setVstat (writeAll (tags a) ws s))) s

/-- R133: the elements below `n` of each slice, by local index. -/
def slices (span w n : Nat) : List (Array Nat) :=
  if span = 1 then [(List.range n).toArray]
  else (List.range span).map fun c => ((List.range n).filter fun e => (slotOf span w e).1 == c).toArray

/-- R133: a slice-local instruction: `f` on every slice; poison is reported at the lowest element of all of them (R86). -/
def onSlices (span w n : Nat) (f : Array Nat → Except WholeTrap (List Put)) : Except WholeTrap (List Put × List Nat) :=
  match collect (fun g => (f g).map some) (slices span w n) with
  | .error t => .error t
  | .ok l => .ok (l.flatten, [])

/-! ### Zips (R147) -/

/-- R147: the shape of VZIP and VUNZIP: the pair va, va+1 of one TYPE, read under va's tag (log 61), into the pair vd, vd+1; position j of the 2m of a slice
is read at `from_ m j` and written at `dest m j`, each a register of the pair and a local index. -/
def zip (c : Bool) (a d : BitVec 5) (from_ dest : Nat → Nat → Nat × Nat) (s : State) : Out :=
  let a0 := a.toNat
  let d0 := d.toNat
  wholeRun { c := c, cls := some .mp, cross := true, vr := [a0, a0 + 1], vw := [d0, d0 + 1] }
    (fun s => do
      typed s [a0, a0 + 1]
      movable s [a0, a0 + 1]
      demand (s.vtype (a0 + 1) == s.vtype a0) (mismatch [s.vtype a0, s.vtype (a0 + 1)])
      .ok (s.vtag a0))
    (fun tag => [(d0, VTag.unsorted tag), (d0 + 1, VTag.unsorted tag)])
    (fun tag s =>
      let ty := rawTy tag
      onSlices s.span ty.w (s.nOf ty.w) fun g =>
        let m := g.size
        collect (fun j =>
          let p := from_ m j
          let q := dest m j
          (s.source (a0 + p.1) ty (g.getD p.2 0)).map fun v => some ⟨d0 + q.1, g.getD q.2 0, v⟩) (List.range (2 * m))) s

/-- R147: alternates the pair's elements into index order. -/
def execVzip (c : Bool) (a d : BitVec 5) (s : State) : Out := zip c a d (fun _ j => (j % 2, j / 2)) (fun m j => (j / m, j % m)) s
/-- R147: splits the pair's elements by their parity. -/
def execVunzip (c : Bool) (a d : BitVec 5) (s : State) : Out :=
  zip c a d (fun m j => (j / m, j % m)) (fun _ j => (j % 2, j / 2)) s

/-! ### Moves (R151, R152) -/

/-- R167: the keys of a run of `n` elements of `r` are strictly monotonic, given that they are sorted: no two neighbours are
equal. -/
def strictRun (s : State) (r : Nat) (ty : ElTy) (n : Nat) : Bool :=
  (List.range (n - 1)).all fun i => s.elem r ty i != s.elem r ty (i + 1)

/-- R151: VMV: bits unchanged. A complete unmasked copy of a sorted run with no payload stays sorted. -/
def execVmv (c : Bool) (k : BitVec 3) (a d : BitVec 5) (s : State) : Out :=
  vectorRun { c := c, cls := some .mp, vr := [a.toNat], vw := [d.toNat], kr := [k.toNat] }
    (fun s => do
      typed s [a.toNat]
      movable s [a.toNat]
      .ok (s.vtag a.toNat))
    (fun tag s =>
      let raw := rawTy tag
      let n := s.nOf raw.w
      let keeps := VTag.s tag && !VTag.pay tag && k == 0 && s.began == 0
      let r := elementWise n k.toNat [⟨d.toNat, VTag.unsorted tag, elTy tag, id⟩] (fun e s =>
        (s.readElem a.toNat raw e).andThen fun p s => .ok () (s.setElem d.toNat (elTy tag) e p)) s
      match r with
      | .ok s =>
        let len := min (VTag.len tag) n
        .ok (if keeps then
          s.retag d.toNat (sortedTag tag (VTag.dir tag) false (strictRun s d.toNat (elTy tag) len) len) else s)
      | r => r) s

/-- R151: VBCAST: the low bits of sb to every active element of vd, in vd's own TYPE; vd keeps its scale fields (log 94). -/
def execVbcast (c : Bool) (k : BitVec 3) (b d : BitVec 5) (s : State) : Out :=
  vectorRun { c := c, cls := some .mp, vw := [d.toNat], kr := [k.toNat], sr := [b.toNat] }
    (fun s => do
      typed s [d.toNat]
      .ok (s.vtag d.toNat))
    (fun tag s =>
      let ty := elTy tag
      elementWise (s.nOf ty.w) k.toNat [⟨d.toNat, VTag.unsorted tag, ty, id⟩] (fun e s =>
        .ok () (s.setElem d.toNat ty e ((s.rs b).toNat % 2 ^ ty.w))) s) s

/-- R151: VIDX: the global index; vd keeps its scale fields (log 94). -/
def execVidx (c : Bool) (k : BitVec 3) (d : BitVec 5) (s : State) : Out :=
  vectorRun { c := c, cls := some .mp, vw := [d.toNat], kr := [k.toNat] }
    (fun s => do
      typed s [d.toNat]
      demand (isInt (s.vtype d.toNat)) (mismatch [s.vtype d.toNat])
      .ok (s.vtag d.toNat))
    (fun tag s =>
      let ty := elTy tag
      elementWise (s.nOf ty.w) k.toNat [⟨d.toNat, VTag.unsorted tag, ty, id⟩] (fun e s =>
        .ok () (s.setElem d.toNat ty e e)) s) s

/-- The number of set bits of a mask among the earlier elements of a slice, for each of its elements; the second argument
counts those so far. They end at a poisoned mask word, whose trap stands beside them. -/
def earlierBits (s : State) (k : Nat) : List Nat → Nat → List (Nat × Nat × Bool) × Option WholeTrap
  | [], _ => ([], none)
  | e :: r, c =>
    match s.sourceMask k e with
    | .error t => ([], some t)
    | .ok b =>
      let x := earlierBits s k r (if b then c + 1 else c)
      ((e, c, b) :: x.1, x.2)

/-- The writes `f` gives from the elements of a slice, with the counts of earlier set mask bits; a poisoned mask word ends
them, and the lowest poisoned element read up to there is reported. -/
def byEarlierBits (s : State) (k : Nat) (g : Array Nat) (f : Nat × Nat × Bool → Except WholeTrap (Option Put)) :
    Except WholeTrap (List Put) :=
  let x := earlierBits s k g.toList 0
  match collect f x.1, x.2 with
  | .error t, some u => .error (lowerTrap t u)
  | .ok _, some u => .error u
  | r, none => r

/-- R151: VIOTA: the number of earlier elements of the slice whose mask bit is 1; vd keeps its scale fields (log 94). -/
def execViota (c : Bool) (k : BitVec 3) (d : BitVec 5) (s : State) : Out :=
  wholeRun { c := c, cls := some .mp, cross := true, vw := [d.toNat], kr := [k.toNat] }
    (fun s => do
      typed s [d.toNat]
      demand (isInt (s.vtype d.toNat)) (mismatch [s.vtype d.toNat])
      .ok (s.vtag d.toNat))
    (fun tag => [(d.toNat, VTag.unsorted tag)])
    (fun tag s =>
      let w := typeWidth (VTag.type tag)
      onSlices s.span w (s.nOf w) fun g => byEarlierBits s k.toNat g fun x => .ok (some ⟨d.toNat, x.1, x.2.1⟩)) s

/-- R152: VEXT: element sb of va to sd, or 0 and GOUT. -/
def execVext (c : Bool) (b a d : BitVec 5) (s : State) : Out :=
  vectorRun { c := c, cls := some .mp, cross := true, whole := true, vr := [a.toNat], sr := [b.toNat], sw := [d.toNat] }
    (fun s => do
      typed s [a.toNat]
      movable s [a.toNat]
      .ok (s.vtag a.toNat))
    (fun tag s =>
      let ty := rawTy tag
      let i := (s.rs b).toNat
      if s.nOf ty.w ≤ i then .ok ((s.setVstat 3).setRs d 0)
      else match s.source a.toNat ty i with
        | .error (e, t) => .trap e t s
        | .ok v => .ok (s.setRs d (if isInt ty.code then extend ty.code v else BitVec.ofNat 64 v))) s

/-- R152: VINS: the low bits of sa to element sb of vd, or GOUT. -/
def execVins (c : Bool) (b a d : BitVec 5) (s : State) : Out :=
  wholeRun { c := c, cls := some .mp, vw := [d.toNat], sr := [a.toNat, b.toNat] }
    (fun s => do
      typed s [d.toNat]
      .ok (s.vtag d.toNat))
    (fun tag => [(d.toNat, VTag.unsorted tag)])
    (fun tag s =>
      let w := typeWidth (VTag.type tag)
      let i := (s.rs b).toNat
      if s.nOf w ≤ i then .ok ([], [3]) else .ok ([⟨d.toNat, i, (s.rs a).toNat % 2 ^ w⟩], [])) s

/-! ### Slides, compress and expand (R153, R155) -/

/-- A permute of va into vd with va's tag, slice by slice: `f` gives the writes of one slice. -/
def permute (c : Bool) (k : BitVec 3) (a d : BitVec 5) (sr : List (BitVec 5))
    (f : State → ElTy → Array Nat → Except WholeTrap (List Put)) (s : State) : Out :=
  wholeRun { c := c, cls := some .mp, cross := true, vr := [a.toNat], vw := [d.toNat], kr := [k.toNat],
             sr := sr.map (·.toNat) }
    (fun s => do
      typed s [a.toNat]
      movable s [a.toNat]
      .ok (s.vtag a.toNat))
    (fun tag => [(d.toNat, VTag.unsorted tag)])
    (fun tag s =>
      let ty := rawTy tag
      onSlices s.span ty.w (s.nOf ty.w) (f s ty)) s

/-- R153: a slide: each active local element l of a slice takes the value `f` gives from the slice and l, if any. -/
def slide (c : Bool) (k : BitVec 3) (b a d : BitVec 5)
    (f : State → ElTy → Array Nat → Nat → Except WholeTrap (Option Nat)) (s : State) : Out :=
  permute c k a d [b] (fun s ty g =>
    collect (fun l =>
      match s.sourceMask k.toNat (g.getD l 0) with
      | .error t => .error t
      | .ok false => .ok none
      | .ok true => (f s ty g l).map fun o => o.map fun v => ⟨d.toNat, g.getD l 0, v⟩) (List.range g.size)) s

/-- R153: vd[l] := va[l − off]. -/
def execVslideup (c : Bool) (k : BitVec 3) (b a d : BitVec 5) (s : State) : Out :=
  slide c k b a d (fun s ty g l =>
    let off := (s.rs b).toNat
    if off ≤ l then (s.source a.toNat ty (g.getD (l - off) 0)).map some else .ok none) s
/-- R153: vd[l] := va[l + off], or 0. -/
def execVslidedn (c : Bool) (k : BitVec 3) (b a d : BitVec 5) (s : State) : Out :=
  slide c k b a d (fun s ty g l =>
    let off := (s.rs b).toNat
    if l + off < g.size then (s.source a.toNat ty (g.getD (l + off) 0)).map some else .ok (some 0)) s
/-- R153: vd[l] := va[l − 1], and sb at local element 0. -/
def execVslide1 (c : Bool) (k : BitVec 3) (b a d : BitVec 5) (s : State) : Out :=
  slide c k b a d (fun s ty g l =>
    if l = 0 then .ok (some ((s.rs b).toNat % 2 ^ ty.w)) else (s.source a.toNat ty (g.getD (l - 1) 0)).map some) s

/-- R155: packs the active elements of each slice, and zeros after them. -/
def execVcompress (c : Bool) (k : BitVec 3) (a d : BitVec 5) (s : State) : Out :=
  permute c k a d [] (fun s ty g =>
    (byEarlierBits s k.toNat g fun x =>
      if x.2.2 then (s.source a.toNat ty x.1).map fun v => some ⟨d.toNat, g.getD x.2.1 0, v⟩ else .ok none).map
      fun ws => ws ++ (g.toList.drop ws.length).map fun e => ⟨d.toNat, e, 0⟩) s
/-- R155: spreads the first elements of each slice over the active ones. -/
def execVexpand (c : Bool) (k : BitVec 3) (a d : BitVec 5) (s : State) : Out :=
  permute c k a d [] (fun s ty g =>
    byEarlierBits s k.toNat g fun x =>
      if x.2.2 then (s.source a.toNat ty (g.getD x.2.1 0)).map fun v => some ⟨d.toNat, x.1, v⟩ else .ok none) s

/-! ### Gather and exchange (R154, R156) -/

/-- R154: VGATHER: an unsigned index type indexes va, a signed one the pair va, va+1. A scaled index register traps SCALE
(R65, log 62). -/
def execVgather (c : Bool) (k : BitVec 3) (b a d : BitVec 5) (s : State) : Out :=
  let a0 := a.toNat
  let b0 := b.toNat
  let partner := if isSigned (s.vtype b0) then [a0 + 1] else []
  wholeRun { c := c, cls := some .mp, cross := true, vr := [a0, b0], reads := partner, vw := [d.toNat], kr := [k.toNat] }
    (fun s => do
      typed s [a0, b0]
      movable s [a0]
      unscaled s [b0]
      let t := s.vtype a0
      let ti := s.vtype b0
      demand (isInt ti) (mismatch [t, ti])
      if isSigned ti then
        demand (a0 % 2 == 0) ⟨.illegalInsn, BitVec.ofNat 64 (wordV c 0 k.toNat b0 a0 d.toNat 0x29)⟩
        match illegalReg s [a0 + 1] [] with
        | some t => .error t
        | none => .ok ()
        typed s [a0 + 1]
        movable s [a0 + 1]
        demand (s.vtype (a0 + 1) == t) (mismatch [t, ti, s.vtype (a0 + 1)])
      .ok (s.vtag a0, ti))
    (fun x => [(d.toNat, VTag.unsorted x.1)])
    (fun (tag, ti) s =>
      let ty := rawTy tag
      let pair := isSigned ti
      let n := min s.hart.csr.vl.toNat (s.hart.csr.vlmaxc.toNat / max ty.w (typeWidth ti))
      let limit := if pair then 2 * n else n
      let slice (e : Nat) := (slotOf s.span ty.w e).1
      match collect (fun e =>
        match s.sourceMask k.toNat e with
        | .error t => .error t
        | .ok false => .ok none
        | .ok true =>
          match s.source b0 (plain ti) e with
          | .error t => .error t
          | .ok j =>
            let r := if pair then a0 + j % 2 else a0
            let p := if pair then j / 2 else j
            if limit ≤ j then .ok (some ((⟨d.toNat, e, 0⟩ : Put), some 3))
            else if slice p ≠ slice e then .ok (some (⟨d.toNat, e, 0⟩, some 2))
            else (s.source r ty p).map fun v => some (⟨d.toNat, e, v⟩, none)) (List.range n) with
      | .error t => .error t
      | .ok l => .ok (l.map (·.1), (l.filterMap (·.2)).eraseDups)) s

/-- R156: the element at the same local index of the slice that `x` selects. -/
def exchanged (span w x e : Nat) : Nat :=
  let p := slotOf span w e
  globalOf span w (p.1 ^^^ x) p.2

/-- R156: VXCHG: whole slices exchanged between the spanned cores. -/
def execVxchg (b a d : BitVec 5) (s : State) : Out :=
  wholeRun { cross := true, vr := [a.toNat], vw := [d.toNat], sr := [b.toNat] }
    (fun s => do
      typed s [a.toNat]
      movable s [a.toNat]
      .ok (s.vtag a.toNat))
    (fun tag => [(d.toNat, VTag.unsorted tag)])
    (fun tag s =>
      let ty := rawTy tag
      let x := (s.rs b).toNat % s.span
      match collect (fun e => (s.source a.toNat ty (exchanged s.span ty.w x e)).map fun v => some (⟨d.toNat, e, v⟩ : Put))
        (List.range (s.nOf ty.w)) with
      | .error t => .error t
      | .ok ws => .ok (ws, [])) s

end Sys2Proof.Machine
end

