-- ==== Sys2Proof/Machine/VMem.lean ====
section
/-!
DEFINITION. One element of a vector access at memory (R216, R217, R268), and the vector loads, stores and atomics
(R218-R221).
-/
namespace Sys2Proof.Machine

/-! ### One element -/

/-- R293: the core that performs the vector-agent accesses of element `e` of width `w`: the one that holds it. -/
def State.coreOf (s : State) (w e : Nat) : Nat := s.hart.cores.getD (slotOf s.span w e).1 s.hart.home

/-- R217: the ALIGN check of an element's address. -/
def aligned (a : Word) (n : Nat) (s : State) : Res Unit := if a.toNat % n = 0 then .ok () s else .trap ⟨.align, a⟩ s

/-- R216, R217: the site of `n` bytes at `a` for core `core`, after the checks of an address. -/
def elementSite (s : State) (core : Nat) (q : BitVec 3) (a : Word) (n : Nat) (store : Bool) : Res Site :=
  (aligned a n s).andThen fun _ s =>
    match tokenSite s core q a n store false with
    | .error t => .trap t s
    | .ok site => .ok site s

/-- R86: the order of the traps that one index raises. -/
def Trap.place (t : Trap) : Nat :=
  match t.cause with
  | .align => 0
  | .noProbe => 1
  | .addrRange => 2
  | .reservedCode => 3
  | _ => 4
/-- R86: the trap an index takes of those it raises: the first in that order. -/
def firstTrap : List Trap → Option Trap
  | [] => none
  | t :: r => match firstTrap r with
    | some x => if x.place < t.place then some x else some t
    | none => some t
/-- The trap in which an effect ends. -/
def Res.trap? {α : Type} : Res α → Option Trap
  | .trap t _ => some t
  | _ => none

/-- R217, R218: an element of `w` bits read at a site, in nibble `nib` for 4 bits. -/
def siteElement (s : State) (site : Site) (a : Word) (w nib : Nat) : Res Nat :=
  (siteLoad s site a (elemBytes w)).andThen fun v s => .ok (takeElement w nib v) s

/-- R217, R218: an element of `w` bits written at a site. A 4-bit element keeps the other nibble of its byte, which is read
once what the interlock holds there is performed; its store does not lag (log 8). In another module the byte is read and written
whole (log 78). -/
def putSiteElement (s : State) (site : Site) (w nib v : Nat) : Res Unit :=
  if w = 4 then
    (interlock s site 1 true).andThen fun _ s =>
      match site with
      | .key k => .ok () (noteWritten (promoteChunk (putAgent s k 1 (withNibble (memRead s.mem k).toNat nib v)) k) k)
      | .remote pa => (remoteLoad s pa 1).andThen fun (x, _) s => remoteStore s pa 1 (withNibble x nib v) false
  else siteStore s site (w / 8) v

/-- R217: the element at `a` through token `q`, into register `d`. -/
def loadElement (core : Nat) (q : BitVec 3) (a : Word) (nib d : Nat) (ty : ElTy) (e : Nat) (s : State) : Res Unit :=
  (elementSite s core q a (elemBytes ty.w) false).andThen fun site s =>
    (siteElement s site a ty.w nib).andThen fun v s => .ok () (s.setElem d ty e v)

/-- R217: element `e` of register `r` to `a` through token `q`. -/
def storeElement (core : Nat) (q : BitVec 3) (a : Word) (nib r : Nat) (ty : ElTy) (e : Nat) (s : State) : Res Unit :=
  (elementSite s core q a (elemBytes ty.w) true).andThen fun site s =>
    (s.readElem r ty e).andThen fun v s => putSiteElement s site ty.w nib v

/-- R266, R267: a store instruction that performed the active elements from `start` clears the units it replaced whole;
`place` gives the key and nibble of an element. -/
def sealStores (w km start stop : Nat) (place : State → Nat → Option (Nat × Nat)) (s : State) : State :=
  if s.memPoison.isEmpty then s
  else clearCovered s (storedRanges w (((List.range (stop - start)).map (start + ·)).filterMap fun e =>
    if s.active km e then place s e else none))

/-- The same for however the instruction ended. -/
def sealed (w km start n : Nat) (place : State → Nat → Option (Nat × Nat)) (r : VRes) : VRes :=
  match r with
  | .ok s => .ok (sealStores w km start n place s)
  | .trap e t s => .trap e t (sealStores w km start e place s)
  | .hold e s => .hold e (sealStores w km start e place s)

/-- The key of an address of this package reached through a token. -/
def placeOf (s : State) (core : Nat) (q : BitVec 3) (a : Word) (n nib : Nat) : Option (Nat × Nat) :=
  match tokenSite s core q a n true false with
  | .ok (.key k) => some (k, nib)
  | _ => none

/-! ### Strided access (R218) -/

/-- R218: the address and the nibble of element `e`. -/
def strideAddr (s : State) (a b : BitVec 5) (w e : Nat) : Word × Nat :=
  if w = 4 then elementAddress (s.rs a) 4 e
  else (s.rs a + BitVec.ofNat 64 e * (if b = 0 then BitVec.ofNat 64 (w / 8) else s.rs b), 0)

/-- R217, R218: the checks of a load or store of register `r`: a store takes a scaled register (R65, R87), its TYPE is no plane
type, and 4-bit elements have unit stride. -/
def memType (s : State) (r : Nat) (unit store : Bool) : Except Trap VTag := do
  typed s [r]
  if store then movable s [r]
  let t := s.vtype r
  demand (!isPlaneType t && (unit || t != 15)) (mismatch [t])
  .ok (s.vtag r)

/-- R276: the aligned word of eight bytes that holds an address. -/
def wordOf (a : Word) : Nat := a.toNat / 8

/-- R218: VLD. -/
def execVld (c : Bool) (q k : BitVec 3) (b a d : BitVec 5) (s : State) : Out :=
  let d0 := d.toNat
  vectorRun { c := c, cls := some .ls, vw := [d0], kr := [k.toNat],
              sr := a.toNat :: (if b = 0 then [] else [b.toNat]) }
    (fun s => memType s d0 (b == 0) false)
    (fun tag s0 =>
      let ty := elTy tag
      let n := s0.nOf ty.w
      elementWise n k.toNat [⟨d0, VTag.unsorted tag, ty, id⟩] (fun e s =>
        let p := strideAddr s a b ty.w e
        loadElement (s.coreOf ty.w e) q p.1 p.2 d0 ty e s)
        (s0.stopsBetweenWords n k.toNat fun e => [wordOf (strideAddr s0 a b ty.w e).1])) s

/-- R218: VST. -/
def execVst (c : Bool) (q k : BitVec 3) (b a d : BitVec 5) (s : State) : Out :=
  let r := d.toNat
  vectorRun { c := c, cls := some .ls, vr := [r], kr := [k.toNat],
              sr := a.toNat :: (if b = 0 then [] else [b.toNat]) }
    (fun s => memType s r (b == 0) true)
    (fun tag s0 =>
      let ty := elTy tag
      let n := s0.nOf ty.w
      sealed ty.w k.toNat s0.began n
        (fun s e => placeOf s (s.coreOf ty.w e) q (strideAddr s a b ty.w e).1 (elemBytes ty.w) (strideAddr s a b ty.w e).2)
        (elementWise n k.toNat [] (fun e s =>
          let p := strideAddr s a b ty.w e
          storeElement (s.coreOf ty.w e) q p.1 p.2 r ty e s) s0)) s

/-! ### Indexed access (R219, R220, R221) -/

/-- R219: the checks of an indexed access of register `r` with byte offsets in `b`; `read` names the registers that must have no
scale (R65), and `legal` tells the data types. The data tag and the TYPE of the offsets. -/
def indexType (s : State) (r b : Nat) (store : Bool) (read : List Nat) (legal : Nat → Bool) : Except Trap (VTag × Nat) := do
  typed s [r, b]
  if store then movable s [r]
  unscaled s read
  demand (legal (s.vtype r) && isUnsigned (s.vtype b)) (mismatch [s.vtype r, s.vtype b])
  .ok (s.vtag r, s.vtype b)

/-- R219, R221: the data types of an indexed access. -/
def indexedData (t : Nat) : Bool := !isPlaneType t && t != 15
/-- R130, R219: the elements of two widths an instruction processes. -/
def State.nOf2 (s : State) (w wi : Nat) : Nat := s.nOf (max w wi)
/-- R219: sa plus the byte offset of element `e`. -/
def indexAddr (s : State) (a : BitVec 5) (b ti e : Nat) : Res Word :=
  (s.readElem b (plain ti) e).andThen fun o s => .ok (s.rs a + BitVec.ofNat 64 o) s

/-- R219: VLDX. -/
def execVldx (c : Bool) (q k : BitVec 3) (b a d : BitVec 5) (s : State) : Out :=
  let d0 := d.toNat
  vectorRun { c := c, cls := some .ls, vr := [b.toNat], vw := [d0], kr := [k.toNat], sr := [a.toNat] }
    (fun s => indexType s d0 b.toNat false [b.toNat] indexedData)
    (fun (tag, ti) s0 =>
      let ty := elTy tag
      let n := s0.nOf2 ty.w (typeWidth ti)
      elementWise n k.toNat [⟨d0, VTag.unsorted tag, ty, id⟩] (fun e s =>
        (indexAddr s a b.toNat ti e).andThen fun x s => loadElement (s.coreOf ty.w e) q x 0 d0 ty e s)
        (s0.stopsBetweenWords n k.toNat fun e => [wordOf (s0.rs a + BitVec.ofNat 64 (s0.elem b.toNat (plain ti) e))])) s

/-- R219: VSTX. -/
def execVstx (c : Bool) (q k : BitVec 3) (b a d : BitVec 5) (s : State) : Out :=
  let r := d.toNat
  vectorRun { c := c, cls := some .ls, vr := [r, b.toNat], kr := [k.toNat], sr := [a.toNat] }
    (fun s => indexType s r b.toNat true [b.toNat] indexedData)
    (fun (tag, ti) s0 =>
      let ty := elTy tag
      let n := s0.nOf2 ty.w (typeWidth ti)
      sealed ty.w k.toNat s0.began n
        (fun s e => placeOf s (s.coreOf ty.w e) q (s.rs a + BitVec.ofNat 64 (s.elem b.toNat (plain ti) e)) (elemBytes ty.w) 0)
        (elementWise n k.toNat [] (fun e s =>
          (indexAddr s a b.toNat ti e).andThen fun x s => storeElement (s.coreOf ty.w e) q x 0 r ty e s) s0)) s

/-- R220: the word after an atomic of width `w`. -/
def atomicAt (op w old v : Nat) : Nat :=
  (atomicOp op ((BitVec.ofNat w old).signExtend 64) ((BitVec.ofNat w v).signExtend 64)).toNat % 2 ^ w

/-- R220, R277: the vector agent's atomic of `n` bytes at key `k`, whose old value is `old`, writes `v`, if it writes. -/
def vectorAtomic (s : State) (k n old : Nat) (v : Option Nat) : State :=
  match v with
  | some x => noteWritten (storeAgent (promoteChunk (castShadow s k n old) k) k n x) k
  | none => s

/-- R220, R294: an atomic of 32 bits in a word of another module, where an atomic has 64: a compare and swap of the word, first
against 0 and then against what it held, until one succeeds (log 50). -/
def remoteNarrow (s : State) (pa op v : Nat) : Res (Nat × Bool) :=
  let lo := pa % 8 * 8
  let at_ := pa / 8 * 8
  let swap (x : Word) (s : State) : Res (Nat × Bool) :=
    askAtomic s at_ 9 (setBits x lo 32 (atomicAt op 32 (bits x lo 32) v)) x x
  atomicAnswer s at_ (swap 0) fun r w p s => if p || w == r.expect then .ok (bits w lo 32, p) s else swap w s

/-- R217, R220, R294: an atomic of `w` bits at a site: the old value, and whether it is a poisoned one (R345); a poisoned word
traps and nothing is performed. -/
def siteAtomic (s : State) (site : Site) (a : Word) (w op v : Nat) : Res (Nat × Bool) :=
  (interlock s site (w / 8) true).andThen fun _ s =>
    match site with
    | .key k =>
      if poisoned s k (w / 8) then .trap ⟨.poison, poisonTval site a⟩ s
      else
        let old := readLE s.mem k (w / 8)
        .ok (old, false) (vectorAtomic s k (w / 8) old (some (atomicAt op w old v)))
    | .remote pa =>
      if w = 32 then remoteNarrow s pa op v
      else (remoteAtomic s pa op (BitVec.ofNat 64 v) 0).andThen fun (old, p) s => .ok (old.toNat, p) s

/-- R345: element `e` of the VAMO under way has a poisoned old value. -/
def noteLost (s : State) (e : Nat) : State :=
  setHart s { s.hart with remote := s.hart.remote ++ [⟨0, 9, e, 0, none, true⟩] }

/-- R345, R267: the words of register `r` that hold those elements are poisoned. -/
def poisonLost (r : Nat) (ty : ElTy) (s : State) : State :=
  let (lost, rest) := s.hart.remote.partition fun x => x.typ == 9
  if lost.isEmpty then s
  else
    let v := s.v r
    let p := lost.foldl (fun p x => p ||| BitVec.ofNat 8192 (2 ^ (regPos s.span ty.w x.addr / 64))) v.poison
    (setHart s { s.hart with remote := rest }).setV r { v with poison := p }

/-- The same for however the instruction ended. -/
def withLost (r : Nat) (ty : ElTy) : VRes → VRes
  | .ok s => .ok (poisonLost r ty s)
  | .trap e t s => .trap e t (poisonLost r ty s)
  | .hold e s => .hold e (poisonLost r ty s)

/-- R220: VAMO with operation code `op`. -/
def vamo (op : Nat) (c : Bool) (q k : BitVec 3) (b a d : BitVec 5) (s : State) : Out :=
  let r := d.toNat
  vectorRun { c := c, cls := some .ls, vr := [r, b.toNat], vw := [r], kr := [k.toNat], sr := [a.toNat] }
    (fun s => indexType s r b.toNat false [r, b.toNat] fun t => t == 3 || t == 4 || t == 7 || t == 8)
    (fun (tag, ti) s0 =>
      let ty := elTy tag
      withLost r ty (elementWise (s0.nOf2 ty.w (typeWidth ti)) k.toNat [⟨r, VTag.unsorted tag, ty, id⟩] (fun e s =>
        (indexAddr s a b.toNat ti e).andThen fun x s =>
          (elementSite s (s.coreOf ty.w e) q x (ty.w / 8) true).andThen fun site s =>
            (s.readElem r ty e).andThen fun v s =>
              (siteAtomic s site x ty.w op v).andThen fun (old, p) s =>
                .ok () (let s := s.setElem r ty e old; if p then noteLost s e else s)) s0)) s

/-- R220: the word becomes old + vd[e]. -/
def execVamoAdd (c : Bool) (q k : BitVec 3) (b a d : BitVec 5) (s : State) : Out := vamo 0 c q k b a d s
/-- R220: the word becomes old & vd[e]. -/
def execVamoAnd (c : Bool) (q k : BitVec 3) (b a d : BitVec 5) (s : State) : Out := vamo 1 c q k b a d s
/-- R220: the word becomes old | vd[e]. -/
def execVamoOr (c : Bool) (q k : BitVec 3) (b a d : BitVec 5) (s : State) : Out := vamo 2 c q k b a d s
/-- R220: the word becomes old ^ vd[e]. -/
def execVamoXor (c : Bool) (q k : BitVec 3) (b a d : BitVec 5) (s : State) : Out := vamo 3 c q k b a d s
/-- R220: the word becomes the signed minimum. -/
def execVamoMin (c : Bool) (q k : BitVec 3) (b a d : BitVec 5) (s : State) : Out := vamo 4 c q k b a d s
/-- R220: the word becomes the signed maximum. -/
def execVamoMax (c : Bool) (q k : BitVec 3) (b a d : BitVec 5) (s : State) : Out := vamo 5 c q k b a d s
/-- R220: the word becomes the unsigned minimum. -/
def execVamoMinu (c : Bool) (q k : BitVec 3) (b a d : BitVec 5) (s : State) : Out := vamo 6 c q k b a d s
/-- R220: the word becomes the unsigned maximum. -/
def execVamoMaxu (c : Bool) (q k : BitVec 3) (b a d : BitVec 5) (s : State) : Out := vamo 7 c q k b a d s

/-- R221: the lane memory byte of element `e` at sa + vb[e], after its checks. -/
def laneKey (s : State) (w : Nat) (a : BitVec 5) (b ti e : Nat) : Res Nat :=
  (indexAddr s a b ti e).andThen fun o s =>
    (aligned o (w / 8) s).andThen fun _ s =>
      if 32768 < o.toNat + w / 8 then .trap ⟨.addrRange, o⟩ s
      else .ok (coreKey (s.coreOf w e) (0x1000000 + e % 32 * 0x8000 + o.toNat)) s

/-- R119: the window address of a core's byte. -/
def windowAddr (key : Nat) : Word :=
  let core := (key - 2 ^ 56) / 2 ^ 26
  BitVec.ofNat 64 (0xF * 2 ^ 48 + core / 64 * 2 ^ 44 + core % 64 * 2 ^ 38 + (key - 2 ^ 56) % 2 ^ 26)

/-- R221: LMLD. -/
def execLmld (c : Bool) (k : BitVec 3) (b a d : BitVec 5) (s : State) : Out :=
  let d0 := d.toNat
  vectorRun { c := c, cls := some .ls, vr := [b.toNat], vw := [d0], kr := [k.toNat], sr := [a.toNat] }
    (fun s => indexType s d0 b.toNat false [b.toNat] indexedData)
    (fun (tag, ti) s0 =>
      let ty := elTy tag
      let n := s0.nOf2 ty.w (typeWidth ti)
      elementWise n k.toNat [⟨d0, VTag.unsorted tag, ty, id⟩] (fun e s =>
        (laneKey s ty.w a b.toNat ti e).andThen fun key s =>
          (siteLoad s (.key key) (windowAddr key) (ty.w / 8)).andThen fun v s => .ok () (s.setElem d0 ty e v))
        (s0.stopsBetweenWords n k.toNat fun e => match laneKey s0 ty.w a b.toNat ti e with
          | .ok key _ => [key / 8]
          | _ => [])) s

/-- R221: LMST. -/
def execLmst (c : Bool) (k : BitVec 3) (b a d : BitVec 5) (s : State) : Out :=
  let r := d.toNat
  vectorRun { c := c, cls := some .ls, vr := [r, b.toNat], kr := [k.toNat], sr := [a.toNat] }
    (fun s => indexType s r b.toNat true [b.toNat] indexedData)
    (fun (tag, ti) s0 =>
      let ty := elTy tag
      let n := s0.nOf2 ty.w (typeWidth ti)
      sealed ty.w k.toNat s0.began n
        (fun s e => match laneKey s ty.w a b.toNat ti e with
          | .ok key _ => some (key, 0)
          | _ => none)
        (elementWise n k.toNat [] (fun e s =>
          (laneKey s ty.w a b.toNat ti e).andThen fun key s =>
            (s.readElem r ty e).andThen fun v s => siteStore s (.key key) (ty.w / 8) v) s0)) s

end Sys2Proof.Machine
end

