-- ==== Sys2Proof/Machine/Sorted.lean ====
section
/-!
DEFINITION. Sorted-run instructions (R164-R174), compare-exchange (R175) and token routing (R189, R190).
-/
namespace Sys2Proof.Machine

/-! ### Order (R74, R164) -/

/-- R164: key `x` is ahead of key `y` under direction `dir`, both of TYPE `t`. -/
def isAhead (t : Nat) (dir : Bool) (x y : Nat) : Bool :=
  if dir then decide (orderedKey t y < orderedKey t x) else decide (orderedKey t x < orderedKey t y)

/-- A key of a run and its payload. -/
structure Item where
  key : Nat
  pay : Nat
  /-- It comes from va (R172). -/
  fromA : Bool
  deriving DecidableEq, Repr

/-- R172: two runs merged: of equal keys, those of the first come first. The first argument bounds the length. -/
def mergeRuns (t : Nat) (dir : Bool) : Nat → List Item → List Item → List Item
  | 0, _, _ => []
  | _ + 1, [], ys => ys
  | _ + 1, xs, [] => xs
  | n + 1, x :: xs, y :: ys =>
    if isAhead t dir y.key x.key then y :: mergeRuns t dir n (x :: xs) ys else x :: mergeRuns t dir n xs (y :: ys)

/-- Neighbouring runs merged, left before right. -/
def mergePairs (t : Nat) (dir : Bool) (n : Nat) : List (List Item) → List (List Item)
  | x :: y :: r => mergeRuns t dir n x y :: mergePairs t dir n r
  | l => l

/-- `k` rounds of merging neighbours. -/
def mergeRounds (t : Nat) (dir : Bool) (n : Nat) : Nat → List (List Item) → List (List Item)
  | 0, l => l
  | k + 1, l => mergeRounds t dir n k (mergePairs t dir n l)

/-- R169: the stable order. -/
def stableSort (t : Nat) (dir : Bool) (l : List Item) : List Item :=
  (mergeRounds t dir (l.length + 1) (bitLen l.length) (l.map fun x => [x])).flatten

/-- R170: the length of the longest in-order prefix. -/
def orderedPrefix (t : Nat) (dir : Bool) : List Nat → Nat
  | x :: y :: r => if isAhead t dir y x then 1 else 1 + orderedPrefix t dir (y :: r)
  | l => l.length

/-- R167: no two neighbours of a sorted run are equal. -/
def isStrict : List Nat → Bool
  | x :: y :: r => x != y && isStrict (y :: r)
  | _ => true

/-! ### Checks (R165) -/

/-- R165: the sorted operands, the operands that need not be sorted, and the payload partners read. -/
structure SortUse where
  runs : List Nat
  probes : List Nat := []
  pays : List Nat := []
  deriving DecidableEq, Repr

/-- R165: TYPE, DIR and PAY of two tags agree. -/
def sortAgree (x y : VTag) : Bool :=
  VTag.type x == VTag.type y && VTag.dir x == VTag.dir y && VTag.pay x == VTag.pay y

/-- R165: the checks of a sorted-run instruction that writes `d`; the key TYPE. Where only the payload partners differ, TVAL holds
their TYPE codes (log 82). -/
def sortChecks (s : State) (u : SortUse) (d : Option Nat) : Except Trap Nat := do
  let keyed := u.runs ++ u.probes
  typed s (keyed ++ u.pays)
  unscaled s keyed
  let ts := keyed.map s.vtype
  let t := ts.headD 0
  demand (ts.all isSortable) (mismatch ts)
  demand (u.runs.isEmpty || u.probes.all fun r => s.vtype r == t) (mismatch ts)
  let ps := u.pays.map s.vtype
  demand (ps.all (· == ps.headD 0)) (mismatch ps)
  demand (decide (s.span ≤ 1)) ⟨.spanUnsupported, s.hart.csr.span⟩
  match u.runs.find? fun r => !VTag.s (s.vtag r) with
  | some r => .error ⟨.sortRequired, BitVec.ofNat 64 r⟩
  | none =>
    let t0 := s.vtag (u.runs.headD 0)
    match u.runs.find? fun r => !sortAgree (s.vtag r) t0 with
    | some r => .error ⟨.sortMismatch, BitVec.ofNat 64 (t0.toNat + (s.vtag r).toNat * 2 ^ 32)⟩
    | none =>
      demand (u.pays.isEmpty || d.all (· % 2 == 0)) ⟨.sortMismatch, BitVec.ofNat 64 t0.toNat⟩
      .ok t

/-! ### Sorting, merging and combining (R169, R172, R173) -/

/-- R268: the first poisoned element of the runs (register, type, length), by index and then in their order. -/
def scanRuns (s : State) (rs : List (Nat × ElTy × Nat)) : Except WholeTrap Unit :=
  if rs.all fun x => (s.v x.1).poison == 0 then .ok ()
  else
    let n := (rs.map (·.2.2)).foldl max 0
    match collect (fun e =>
      match rs.find? fun x => decide (e < x.2.2) && (s.v x.1).elemPoisoned s.span x.2.1 e with
      | some x => (s.source x.1 x.2.1 e).map fun _ => none
      | none => .ok (none : Option Unit)) (List.range n) with
    | .error t => .error t
    | .ok _ => .ok ()

/-- R164: the payload partners of the operands that have PAY = 1. -/
def partners (s : State) (rs : List Nat) : List Nat :=
  (rs.filter fun r => VTag.pay (s.vtag r)).map (· + 1)

/-- R164: the elements below `m` of `r`, with their payloads where its partner is among `pays`. -/
def readItems (s : State) (t r : Nat) (pays : List Nat) (fromA : Bool) (m : Nat) : List Item :=
  let pty := rawTy (s.vtag (r + 1))
  (List.range m).map fun i =>
    ⟨s.elem r (plain t) i, if r + 1 ∈ pays then s.elem (r + 1) pty i else 0, fromA⟩

/-- R164, R167: an instruction that writes a sorted run to vd. `u` are its operands, `pays` the partners it reads. `f` gives
from n and the items of each operand the direction of the result, its items, and a scalar. -/
def sortedResult (c : Bool) (u : SortUse) (carries : Bool) (d : BitVec 5) (rd : List (BitVec 5))
    (f : State → Nat → Nat → List (List Item) → Bool × List Item × Nat) (s : State) : Out :=
  let d0 := d.toNat
  let srcs := u.runs ++ u.probes
  let both := carries && d0 % 2 == 0
  vectorRun { c := c, cls := some .mp, cross := true, whole := true, vr := srcs ++ u.pays,
              vw := if both then [d0, d0 + 1] else [d0], sw := rd.map (·.toNat) }
    (fun s => sortChecks s u (if u.runs.isEmpty then none else some d0))
    (fun t s =>
      let ptag := s.vtag (u.pays.headD 0)
      let pty := rawTy ptag
      let n := s.nOf2 (typeWidth t) (if carries then pty.w else 0)
      let len (r : Nat) := if u.runs.isEmpty then n else min (VTag.len (s.vtag r)) n
      let reads := srcs.flatMap fun r =>
        (r, plain t, len r) :: (if r + 1 ∈ u.pays then [(r + 1, pty, len r)] else [])
      match scanRuns s reads with
      | .error (e, t) => .trap e t s
      | .ok _ =>
        let (dir, items, count) := f s t n (srcs.map fun r => readItems s t r u.pays (r == srcs.headD 0) (len r))
        let m := items.length
        let zeros (r : Nat) : List Put := (List.range (n - m)).map fun i => ⟨r, m + i, 0⟩
        let puts (r : Nat) (g : Item → Nat) : List Put := items.zipIdx.map fun x => ⟨r, x.2, g x.1⟩
        let tag := sortedTag (typeTag t) dir carries (isStrict (items.map (·.key))) m
        let s := writeAll ((d0, tag) :: (if carries then [(d0 + 1, VTag.unsorted ptag)] else []))
          (puts d0 (·.key) ++ zeros d0 ++ (if carries then puts (d0 + 1) (·.pay) ++ zeros (d0 + 1) else [])) s
        .ok (rd.foldl (fun s r => s.setRs r (BitVec.ofNat 64 count)) s)) s

/-- R169: VSORT. -/
def execVsort (c x p : Bool) (a d : BitVec 5) (s : State) : Out :=
  sortedResult c ⟨[], [a.toNat], if p then [a.toNat + 1] else []⟩ p d []
    (fun _ t _ l => (x, stableSort t x (l.headD []), 0)) s

/-- R172: the merge of va and vb, from result position `base n`. -/
def merged (c : Bool) (b a d : BitVec 5) (rd : List (BitVec 5)) (base : Nat → Nat) (s : State) : Out :=
  let rs := [a.toNat, b.toNat]
  let pays := partners s rs
  sortedResult c ⟨rs, [], pays⟩ (!pays.isEmpty) d rd
    (fun s t n l =>
      let dir := VTag.dir (s.vtag a.toNat)
      let xs := l.getD 0 []
      let ys := if a = b then xs.map ({ · with fromA := false }) else l.getD 1 []
      let m := ((mergeRuns t dir (xs.length + ys.length + 1) xs ys).drop (base n)).take n
      (dir, m, m.countP (·.fromA))) s

/-- R172: the first n of the merge. -/
def execVmergeLo (c : Bool) (b a d : BitVec 5) (s : State) : Out := merged c b a d [] (fun _ => 0) s
/-- R172: the merge from n. -/
def execVmergeHi (c : Bool) (b a d : BitVec 5) (s : State) : Out := merged c b a d [] (fun n => n) s
/-- R172: the first n of the merge, and how many come from va. -/
def execVmergec (c : Bool) (r b a d : BitVec 5) (s : State) : Out := merged c b a d [r] (fun _ => 0) s

/-- R173: the elements of `xs` whose key occurs in `ys` at least once more than among those before them. -/
def commonItems (ys : List Nat) : List Nat → List Item → List Item
  | _, [] => []
  | seen, x :: r =>
    let rest := commonItems ys (x.key :: seen) r
    if seen.count x.key < ys.count x.key then x :: rest else rest

/-- R173: VINTER. The payload carried, and the one whose width bounds n, is va's (log 63). -/
def execVinter (c : Bool) (b a d : BitVec 5) (s : State) : Out :=
  let pays := partners s [a.toNat]
  sortedResult c ⟨[a.toNat, b.toNat], [], pays⟩ (!pays.isEmpty) d []
    (fun s _ _ l =>
      (VTag.dir (s.vtag a.toNat), commonItems ((l.getD 1 []).map (·.key)) [] (l.getD 0 []), 0)) s

/-- R173: the first of each group of neighbours with one key. -/
def firstOfGroups : List Item → List Item
  | x :: y :: r => if x.key = y.key then x :: (firstOfGroups (y :: r)).drop 1 else x :: firstOfGroups (y :: r)
  | l => l

/-- R173: VUNIQ. -/
def execVuniq (c : Bool) (a d : BitVec 5) (s : State) : Out :=
  let pays := partners s [a.toNat]
  sortedResult c ⟨[a.toNat], [], pays⟩ (!pays.isEmpty) d []
    (fun s _ _ l => (VTag.dir (s.vtag a.toNat), firstOfGroups (l.headD []), 0)) s
/-- R173: VSREV. -/
def execVsrev (c : Bool) (a d : BitVec 5) (s : State) : Out :=
  let pays := partners s [a.toNat]
  sortedResult c ⟨[a.toNat], [], pays⟩ (!pays.isEmpty) d []
    (fun s _ _ l => (!VTag.dir (s.vtag a.toNat), (l.headD []).reverse, 0)) s

/-! ### Checking and counting (R170, R174) -/

/-- R164, R165: the payload width of an operand with PAY = 1, else 0. -/
def payWidth (s : State) (r : Nat) : Nat :=
  if VTag.pay (s.vtag r) then (rawTy (s.vtag (r + 1))).w else 0

/-- R170: VCHKS. -/
def execVchks (c x : Bool) (a d : BitVec 5) (s : State) : Out :=
  vectorRun { c := c, cls := some .mp, cross := true, whole := true, vr := [a.toNat], sw := [d.toNat] }
    (fun s => sortChecks s ⟨[], [a.toNat], []⟩ none)
    (fun t s =>
      let n := s.nOf2 (typeWidth t) (payWidth s a.toNat)
      match scanRuns s [(a.toNat, plain t, n)] with
      | .error (e, t) => .trap e t s
      | .ok _ => .ok (s.setRs d (BitVec.ofNat 64
          (orderedPrefix t x ((List.range n).map (s.elem a.toNat (plain t))))))) s

/-- R174: for each probe of vb, the number of elements of the run va that `f` counts. An operand with PAY = 1, the probes
among them, makes an odd vd trap (R165, step 5), though the partner is not read. -/
def countRun (c : Bool) (b a d : BitVec 5) (f : Nat → Bool → Nat → Nat → Bool) (s : State) : Out :=
  vectorRun { c := c, cls := some .mp, cross := true, whole := true, vr := [a.toNat, b.toNat], vw := [d.toNat] }
    (fun s => do
      let t ← sortChecks s ⟨[a.toNat], [b.toNat], []⟩ none
      demand (!(VTag.pay (s.vtag a.toNat) || VTag.pay (s.vtag b.toNat)) || d.toNat % 2 == 0)
        ⟨.sortMismatch, BitVec.ofNat 64 (s.vtag a.toNat).toNat⟩
      .ok t)
    (fun t s =>
      let tag := s.vtag a.toNat
      let L := min (VTag.len tag) (s.nOf (typeWidth t))
      let np := s.nOf2 (typeWidth t) 32
      match scanRuns s [(a.toNat, plain t, L), (b.toNat, plain t, np)] with
      | .error (e, t) => .trap e t s
      | .ok _ =>
        let keys := (List.range L).map (s.elem a.toNat (plain t))
        .ok (writeAll [(d.toNat, typeTag 7)] ((List.range np).map fun e =>
          ⟨d.toNat, e, keys.countP fun k => f t (VTag.dir tag) k (s.elem b.toNat (plain t) e)⟩) s)) s

/-- R174: the elements ahead of the probe. -/
def execVrankLb (c : Bool) (b a d : BitVec 5) (s : State) : Out := countRun c b a d isAhead s
/-- R174: the elements ahead of the probe or equal to it. -/
def execVrankUb (c : Bool) (b a d : BitVec 5) (s : State) : Out :=
  countRun c b a d (fun t dir k p => !isAhead t dir p k) s
/-- R174: the elements at or below the probe in the key order. -/
def execVpart (c : Bool) (b a d : BitVec 5) (s : State) : Out :=
  countRun c b a d (fun t _ k p => !isAhead t false p k) s

/-! ### VLDS (R171) -/

/-- R171: what VLDS finds in vd when its loads are done: sb, and whether the run is sorted and strict. -/
def verifyRun (t : Nat) (dir : Bool) (bound : Option Nat) (keys : List Nat) : Word × Bool × Bool :=
  let p := orderedPrefix t dir keys
  let bfail := match bound, keys with
    | some k, x :: _ => isAhead t dir x k
    | _, _ => false
  let ok := p == keys.length && !bfail
  (BitVec.ofNat 64 ((if ok then 2 ^ 63 else 0) + (if bfail then 2 ^ 62 else 0) + p), ok, isStrict keys)

/-- The state with the vector registers of `s0`: a key whose payload traps is not written. -/
def State.keepVectors (s s0 : State) : State := setHart s { s.hart with v := s0.hart.v }

/-- R86, R171: VLDS: `y` compares with the boundary in sb, `x` is the direction, `p` loads payload. The address checks of key and
payload at an element come before its POISON. -/
def execVlds (c : Bool) (q : BitVec 3) (y x p : Bool) (r a d : BitVec 5) (s : State) : Out :=
  let d0 := d.toNat
  let ds := if p then [d0, d0 + 1] else [d0]
  vectorRun { c := c, cls := some .ls, vw := ds, sw := [r.toNat],
              sr := a.toNat :: (if p then [a.toNat + 1] else []) ++ (if y then [r.toNat] else []) }
    (fun s => do
      typed s ds
      unscaled s [d0]
      demand (isSortable (s.vtype d0) && (!p || !isPlaneType (s.vtype (d0 + 1)))) (mismatch (ds.map s.vtype))
      demand (decide (s.span ≤ 1)) ⟨.spanUnsupported, s.hart.csr.span⟩
      .ok (ds.map s.vtag))
    (fun tags s0 =>
      let tag := tags.headD 0
      let ty := elTy tag
      let n := s0.nOf2 ty.w (if p then (elTy (tags.getD 1 0)).w else 0)
      let bound := if y then some ((s0.rs r).toNat % 2 ^ ty.w) else none
      let dests := (ds.zip tags).map fun z => (⟨z.1, VTag.unsorted z.2, elTy z.2, id⟩ : Dest)
      let place (s : State) (i : Nat) (z : Dest) (e : Nat) : Word × Nat :=
        elementAddress (s.rs (a + BitVec.ofNat 5 i)) z.ty.w e
      let address (s : State) (e : Nat) (z : Dest × Nat) : Option Trap :=
        (elementSite s s.hart.home q (place s z.2 z.1 e).1 (elemBytes z.1.ty.w) false).trap?
      match elementWise n 0 dests (fun e s =>
        match firstTrap (dests.zipIdx.filterMap (address s e)) with
        | some t => .trap t s
        | none =>
          match resLoop (fun i s => match dests[i]? with
            | some z => loadElement s.hart.home q (place s i z e).1 (place s i z e).2 z.reg z.ty e s
            | none => .ok () s) dests.length 0 s with
          | .trap t s' => .trap t (s'.keepVectors s)
          | .hold s' => .hold (s'.keepVectors s)
          | r => r) (s0.stopsBetweenWords n 0 fun e => dests.zipIdx.map fun z => wordOf (place s0 z.2 z.1 e).1) with
      | .ok s =>
        match scanRuns s [(d0, ty, n)] with
        | .error (e, t) => .trap e t s
        | .ok _ =>
          let (w, ok, strict) := verifyRun ty.code x bound ((List.range n).map (s.elem d0 ty))
          let s := s.setRs r w
          .ok (if ok then s.retag d0 (sortedTag (VTag.unsorted tag) x p strict n) else s)
      | r => r) s

/-! ### VCMX (R175) -/

/-- R175: VCMX: the pair at vd keeps the better of each two candidates. TVAL of TYPE_MISMATCH takes vd, va and vd+1 as the first
three sources (log 82). -/
def execVcmx (c : Bool) (k : BitVec 3) (a d : BitVec 5) (s : State) : Out :=
  let d0 := d.toNat
  let a0 := a.toNat
  let rs := [d0, a0, d0 + 1, a0 + 1]
  vectorRun { c := c, cls := some .mp, vr := rs, vw := rs, kr := [k.toNat] }
    (fun s => do
      typed s rs
      unscaled s rs
      let tv := s.vtype d0
      let ti := s.vtype (d0 + 1)
      demand (s.vtype a0 == tv && s.vtype (a0 + 1) == ti && isSortable tv && isInt ti) (mismatch (rs.map s.vtype))
      .ok (tv, ti))
    (fun (tv, ti) s0 =>
      let dest (r : Nat) : Dest := ⟨r, VTag.unsorted (s0.vtag r), elTy (s0.vtag r), id⟩
      elementWise (s0.nOf2 (typeWidth tv) (typeWidth ti)) k.toNat (rs.map dest) (fun e s =>
        (s.readElem d0 (plain tv) e).andThen fun v1 s =>
          (s.readElem a0 (plain tv) e).andThen fun v2 s =>
            (s.readElem (d0 + 1) (plain ti) e).andThen fun i1 s =>
              (s.readElem (a0 + 1) (plain ti) e).andThen fun i2 s =>
                let swap := decide (orderedKey tv v1 < orderedKey tv v2) || (v1 == v2 && decide (i2 < i1))
                let put (r : Nat) (ty x y : Nat) (s : State) := s.setElem r (plain ty) e (if swap then y else x)
                .ok () (put (a0 + 1) ti i2 i1 (put (d0 + 1) ti i1 i2 (put a0 tv v2 v1 (put d0 tv v1 v2 s))))) s0) s

/-! ### VROUTE (R189, R190) -/

/-- R189: the parameter word of VROUTE is well formed. -/
def routeParamsOk (w : Word) : Bool :=
  bits w 32 32 == 0 && bits w 16 16 != 0 && bits w 11 5 == 0 && decide (bits w 4 4 ≤ 8) &&
  decide (1 ≤ bits w 0 4) && decide (bits w 0 4 ≤ 8)

/-- A word of another module asked for: the hart waits for the answer under TYPE `typ` of its waits, with the word it expects. -/
def askRemote (s : State) (pa typ op : Nat) (arg0 arg1 : Word) : State :=
  let tag := s.nextTag
  let s := sendRequest (rlbDrop s (isleOf s.hart.home) pa) 2 pa op 8 arg0 arg1 [] (isleOf s.hart.home) (some (hartName s)) 0
  setHart s { s.hart with remote := s.hart.remote ++ [⟨tag, typ, pa, arg1, none, false⟩] }

/-- The hart's waits that `keep` keeps. -/
def keepWaits (s : State) (keep : RemoteWait → Bool) : State :=
  setHart s { s.hart with remote := s.hart.remote.filter keep }

/-- R189: a record of another module, as it was when this hart took a slot of it or found it full. An atomic OR of 0 (TYPE 5
of the hart's waits) reads the word, and compare-and-swap (TYPE 3) increases USED, again while another hart's change comes
between (log 18). -/
def remoteSlot (s : State) (pa : Nat) : Res Word :=
  let next (s : State) (w : Word) : Res Word :=
    if bits w 0 32 < bits w 32 32 then .hold (askRemote s pa 3 9 (w + 1) w) else .ok w s
  if !canSend s then .hold s
  else match s.hart.remote.find? fun r => decide (r.addr = pa) && (r.typ == 3 || r.typ == 5) with
    | none => .hold (askRemote s pa 5 2 0 0)
    | some r =>
      match r.answer with
      | none => .hold s
      | some (w, p) =>
        let s := keepWaits s fun x => x.tag != r.tag
        if p then .trap ⟨.poison, poisonTval (.remote pa) 0⟩ s
        else if r.typ = 3 ∧ w = r.expect then .ok w s
        else next s w

/-- A choice of a token: the expert, its record's address and where that lies. -/
structure RouteChoice where
  expert : Nat
  addr : Word
  site : Site

/-- R189: the atomic of one record at address `a`: the word as it was; a poisoned record traps and nothing is taken. -/
def takeSlot (s : State) (site : Site) (a : Word) : Res Word :=
  (interlock s site 8 true).andThen fun _ s =>
    match site with
    | .key k =>
      if poisoned s k 8 then .trap ⟨.poison, poisonTval site a⟩ s
      else
        let w := loadWord s k
        .ok w (vectorAtomic s k 8 w.toNat (if bits w 0 32 < bits w 32 32 then some (w.toNat + 1) else none))
    | .remote pa => remoteSlot s pa

/-- R189: the expert and the slot of one token: the first of its choices whose record has room. -/
def firstRoom : List RouteChoice → State → Res (Option (Nat × Nat))
  | [], s => .ok none s
  | c :: r, s =>
    (takeSlot s c.site c.addr).andThen fun w s =>
      if bits w 0 32 < bits w 32 32 then .ok (some (c.expert, bits w 0 32)) s else firstRoom r s

/-- The choices from the one whose compare-and-swap is under way, if there is one. -/
def resumeChoices (s : State) (l : List RouteChoice) : List RouteChoice :=
  let under (c : RouteChoice) : Bool :=
    match c.site with
    | .remote pa => s.hart.remote.any fun r => r.typ == 3 && decide (r.addr = pa)
    | .key _ => false
  if l.any under then l.dropWhile fun c => !under c else l

/-- Element `e` of the choice registers. -/
def routeExperts (e : Nat) : List Nat → State → Res (List Nat)
  | [], s => .ok [] s
  | v :: r, s =>
    (s.readElem v (plain 6) e).andThen fun x s => (routeExperts e r s).andThen fun l s => .ok (x :: l) s

/-- R189: the experts below NEXP with their records, after the address checks of all of them. R191 gives VROUTE no ADDR_RANGE,
so a token with W = 0 serves (log 65). -/
def routeChoices (q : BitVec 3) (base : Word) (nexp e : Nat) : List Nat → State → Res (List RouteChoice)
  | [], s => .ok [] s
  | x :: r, s =>
    if nexp ≤ x then routeChoices q base nexp e r s
    else
      let a := base + BitVec.ofNat 64 (8 * x)
      (elementSite s (s.coreOf 16 e) q a 8 false).andThen fun site s =>
        (routeChoices q base nexp e r s).andThen fun l s => .ok (⟨x, a, site⟩ :: l) s

/-- R86, R189: the traps that element `e` raises before any counter is read: the address checks of the choices that are not
poisoned, and POISON of a choice. -/
def routeTraps (q : BitVec 3) (base : Word) (nexp e : Nat) (choices : List Nat) (s : State) : Option Trap :=
  firstTrap (choices.filterMap fun v =>
    match s.readElem v (plain 6) e with
    | .ok x s =>
      if nexp ≤ x then none
      else (elementSite s (s.coreOf 16 e) q (base + BitVec.ofNat 64 (8 * x)) 8 false).trap?
    | r => r.trap?)

/-- R189: VROUTE. The traps of one element go in the order of R86 (log 65). -/
def execVroute (k : BitVec 3) (b a d : BitVec 5) (s : State) : Out :=
  let d0 := d.toNat
  let par := s.rs (b + 1)
  let count := bits par 0 4
  let choices := (List.range (if 1 ≤ count ∧ count ≤ 8 then count else 1)).map (a.toNat + ·)
  vectorRun { vr := choices, vw := [d0, d0 + 1], kr := [k.toNat], kw := [k.toNat], sr := [b.toNat, b.toNat + 1] }
    (fun s => do
      typed s choices
      cleanScalars s [b, b + 1]
      demand (routeParamsOk par) (mismatch [s.vtype a.toNat])
      unscaled s choices
      demand (choices.all fun r => s.vtype r == 6) (mismatch (choices.map s.vtype)))
    (fun _ s0 =>
      let n := s0.nOf 32
      sealMask k.toNat n s0.began (s0.active k.toNat) (elementWise n k.toNat
        [⟨d0, typeTag 6, plain 6, id⟩, ⟨d0 + 1, typeTag 7, plain 7, id⟩] (fun e s =>
        let q := BitVec.ofNat 3 (bits par 8 3)
        match routeTraps q (s.rs b) (bits par 16 16) e choices s with
        | some t => .trap t s
        | none =>
          (routeExperts e choices s).andThen fun xs s =>
            (routeChoices q (s.rs b) (bits par 16 16) e xs s).andThen fun l s =>
              (firstRoom (resumeChoices s l) s).andThen fun got s =>
                let s := keepWaits s fun r => r.typ != 5
                match got with
                | some (x, slot) => .ok () ((s.setElem d0 (plain 6) e x).setElem (d0 + 1) (plain 7) e slot)
                | none =>
                  let s := (s.setElem d0 (plain 6) e 0xFFFF).setElem (d0 + 1) (plain 7) e 0
                  .ok () ((s.setMaskBit k.toNat e false).setVstat 0)) s0)) s

end Sys2Proof.Machine
end

