-- ==== Sys2Proof/Machine/Matrix.lean ====
section
/-!
DEFINITION. Numeric tiles: outer products (R197-R199, R202), the moves between tiles, vectors and tensors (R203-R207), the
matrix queue (R195, R196), plane conversion (R201), and the grouped tile scheduler (R208-R211).
-/
namespace Sys2Proof.Machine

/-! ### Tiles (R192, R194) -/

/-- R192: the tile as it is read: every element of a NONE tile is +0, whatever a frame that software wrote holds there (R333). -/
def Tile.read (t : Tile) : Tile := if t.ranked = false ∧ t.kind = .none then { t with elems := 0 } else t
/-- Tile number `z`. -/
def State.tile (s : State) (z : BitVec 3) : Tile := s.hart.z[z.toNat].read
/-- Tile `z` replaced. -/
def State.setTile (s : State) (z : BitVec 3) (t : Tile) : State := setHart s { s.hart with z := s.hart.z.set z.toNat t }
/-- R192: the bits of element (i, j). -/
def Tile.elem (t : Tile) (i j : Nat) : Nat := (t.elems.extractLsb' (80 * (128 * i + j)) 80).toNat
/-- Is element (i, j) poisoned? -/
def Tile.bad (t : Tile) (i j : Nat) : Bool := t.poison.getLsbD (128 * i + j)
/-- Element (i, j) and its poison bit written. -/
def Tile.put (t : Tile) (i j v : Nat) (bad : Bool) : Tile :=
  { t with
    elems := setField t.elems (80 * (128 * i + j)) 80 v
    poison := setField t.poison (128 * i + j) 1 (if bad then 1 else 0) }
/-- R192: the element of a line: row `line` (or column, with `col`), place `x`. -/
def lineAt (col : Bool) (line x : Nat) : Nat × Nat := if col then (x, line) else (line, x)

/-- R60: an 80-bit integer. -/
def int80 (v : Nat) : Int := (BitVec.ofNat 80 v).toInt
/-- R192: the exact value of an element, which KIND interprets; a NONE tile reads +0. -/
def Tile.val (t : Tile) (i j : Nat) : FVal :=
  match t.kind with
  | .int => intVal (int80 (t.elem i j))
  | .fp => ea80.val (t.elem i j)
  | .none => .fin false 0 0

/-- R119: TILE_EXTENT. -/
def tileExtent (s : State) : Trap := ⟨.tileExtent, s.hart.csr.vl⟩
/-- R194: the tile is numeric. -/
def numeric (s : State) (z : BitVec 3) : Except Trap Unit := demand (!(s.tile z).ranked) (tileExtent s)
/-- R194, R119: no matrix-queue operation owns the tile. -/
def tileFree (s : State) (z : BitVec 3) : Except Trap Unit :=
  match tileOwner s.hart z.toNat with
  | some n => .error ⟨.accBusy, BitVec.ofNat 64 (z.toNat + n * 256)⟩
  | none => .ok ()
/-- R194: the KIND that an instruction writes agrees with the tile's. -/
def kindFits (s : State) (z : BitVec 3) (k : TileKind) (codes : List Nat) : Except Trap Unit :=
  demand ((s.tile z).kind == .none || (s.tile z).kind == k) (mismatch codes)
/-- R203: a line number, or the count of ZROWSTAT. -/
def lineNumber (s : State) (a : BitVec 5) (lo hi : Nat) : Except Trap Nat :=
  let n := (s.rs a).toNat
  if lo ≤ n ∧ n ≤ hi then .ok n else .error (tileExtent s)

/-- R119, R328: POISON of tile `z`. -/
def tilePoison (z : BitVec 3) : Trap := ⟨.poison, regPoisonTval 3 z.toNat⟩

/-! ### The matrix queue (R195, R196) -/

/-- A tile operation done at its place in program order; it owns the tile until it leaves the matrix queue (R193). -/
def tileWrite (s : State) (z : BitVec 3) (f : Tile → Tile) : State := enqueueMatrix (s.setTile z (f (s.tile z))) z.toNat

/-- R195: ZCLR; `m` for the ranked form. -/
def execZclr (m : Bool) (z : BitVec 3) (s : State) : Out :=
  vectorRun { needsVl := false, whole := true, zs := [z.toNat] } (fun _ => .ok ())
    (fun _ s => .ok (tileWrite s z fun _ => { Tile.zero with ranked := m })) s

/-- R196: the word ZWAIT writes. -/
def tileWord (t : Tile) : Word :=
  BitVec.ofNat 64 ((if t.poison = 0 then 0 else 16) + (if t.ovf then 8 else 0) +
    (match t.kind with | .none => 0 | .fp => 2 | .int => 4) + (if t.ranked then 1 else 0))

/-- R196: ZWAIT: the operations that own the tile complete. -/
def execZwait (a : BitVec 5) (z : BitVec 3) (s : State) : Out :=
  vectorRun { needsVl := false, whole := true, zs := [z.toNat], sw := [a.toNat] } (fun _ => .ok ())
    (fun _ s => .ok ((waitTile s z.toNat).setRs a (tileWord (s.tile z)))) s

/-! ### Outer products (R197-R199, R202) -/

/-- One element of an operand: its exact value, the integer it is, and whether it is poisoned. -/
structure Factor where
  val : FVal
  int : Int
  bad : Bool

/-- The first `n` elements of an operand in an outer product, with their scales where `scaled` (R199). -/
def factors (s : State) (r n : Nat) (scaled : Bool) : Array Factor :=
  let tag := s.vtag r
  let ty := elTy tag
  ((List.range n).map fun e =>
    let x := s.elem r ty e
    let z := if ty.isPlane then planeValue ty x else if isInt ty.code then intOf ty.code x else 0
    let v := if isFp ty.code || decide (13 ≤ ty.code) && decide (ty.code ≤ 15) then (fmtOf ty.code).val x else intVal z
    let bad := (s.v r).elemPoisoned s.span ty e
    if scaled && VTag.sc tag then
      let j := e / (16 * 2 ^ VTag.bs tag)
      ⟨v.mul (bf16.val (s.elem (VTag.sreg tag) (plain 11) j)), z,
        bad || (s.v (VTag.sreg tag)).elemPoisoned s.span (plain 11) j⟩
    else ⟨v, z, bad⟩).toArray

/-- R198: a product that is zero is an exact +0 term, whatever the signs of its factors (log 98). -/
def FVal.term : FVal → FVal
  | .fin neg m e => if m = 0 then .fin false 0 e else .fin neg m e
  | x => x

/-- R192, R198: an FP element and its terms summed and rounded once: the code, and whether OVF is set. The old element counts
among the terms that OVF asks about (log 95). -/
def fpUpdate (old : Nat) (terms : List FVal) : Nat × Bool :=
  let ts := ea80.val old :: terms.map FVal.term
  let r := sumRound ea80 0 ts
  let isInf := match ea80.val r.code with | .inf _ => true | _ => false
  let finite := ts.all fun t => match t with | .fin .. => true | _ => false
  (r.code, (isInf && finite) || ((ea80.val r.code).isNan && !ts.any FVal.isNan))

/-- R60: an INT element and its terms, wrapped: the code, and whether OVF is set. -/
def intUpdate (old : Nat) (terms : List Int) : Nat × Bool :=
  let z := terms.foldl (· + ·) (int80 old)
  (wrapTo 80 z, decide (z < -(2 ^ 79 : Nat)) || decide ((2 ^ 79 : Nat) ≤ z))

/-- The pairs of elements that meet at (i, j): depth r, below `n`. -/
def depthPairs (A B : Array Factor) (r n i j : Nat) : List (Factor × Factor) :=
  (List.range r).filterMap fun d =>
    if i * r + d < n ∧ j * r + d < n then
      match A[i * r + d]?, B[j * r + d]? with
      | some x, some y => some (x, y)
      | _, _ => none
    else none

/-- R198: one element of the update. A poisoned operand poisons it, and so does a poisoned mask bit of its row (log 19). -/
def updateElem (kind : TileKind) (A B : Array Factor) (r n : Nat) (rowBad : Bool) (i j : Nat) (t : Tile) : Tile :=
  let ps := depthPairs A B r n i j
  if ps.isEmpty then t
  else
    let old := t.elem i j
    let (v, ovf) := match kind with
      | .int => intUpdate old (ps.map fun p => p.1.int * p.2.int)
      | _ => fpUpdate old (ps.map fun p => p.1.val.mul p.2.val)
    { t.put i j v (t.bad i j || rowBad || ps.any fun p => p.1.bad || p.2.bad) with ovf := t.ovf || ovf }

/-- R198: the update of the rows that mask `k` selects. -/
def outer (s : State) (k : Nat) (kind : TileKind) (A B : Array Factor) (r n P : Nat) (t : Tile) : Tile :=
  let t := (List.range P).foldl (fun t i =>
    let bad := k != 0 && (s.mask k).poison.getLsbD (i / 64)
    if s.active k i then (List.range P).foldl (fun t j => updateElem kind A B r n bad i j t) t else t) t
  { t with kind := kind }

/-- R197: the rank and the KIND of a source pair. -/
def productPair (ta tb : Nat) : Option (Nat × TileKind) :=
  if ta = 10 ∧ tb = 10 then some (1, .fp)
  else if ta = tb ∧ (ta = 11 ∨ ta = 12) then some (2, .fp)
  else if (ta = 13 ∨ ta = 14) ∧ (tb = 13 ∨ tb = 14) then some (4, .fp)
  else if ta = 15 ∧ tb = 15 then some (8, .fp)
  else if ta = 3 ∧ tb = 3 then some (1, .int)
  else if (ta = 1 ∨ ta = 5) ∧ (tb = 1 ∨ tb = 5) then some (4, .int)
  else none

/-- R198: P for `n` elements of rank `r`, or TILE_EXTENT. -/
def positions (s : State) (n r : Nat) : Except Trap Nat :=
  let P := (n + r - 1) / r
  if 128 < P then .error (tileExtent s) else .ok P

/-- R198, R199: ZOP, and ZOPS with `scaled`. -/
def product (scaled : Bool) (c : Bool) (k : BitVec 3) (b a : BitVec 5) (z : BitVec 3) (s : State) : Out :=
  let rs := [a.toNat, b.toNat]
  let scales := if scaled then rs.flatMap (scaleUse s) else []
  vectorRun { c := c, cls := some .mp, cross := scaled, whole := true, vr := rs, reads := scales, kr := [k.toNat], zs := [z.toNat] }
    (fun s => do
      typed s rs
      if scaled then movable s rs else unscaled s rs
      let ts := rs.map s.vtype
      match productPair (s.vtype a.toNat) (s.vtype b.toNat) with
      | none => .error (mismatch ts)
      | some (r, kind) =>
        demand (!scaled || kind == .fp) (mismatch ts)
        kindFits s z kind ts
        numeric s z
        let n := s.nOf (32 / r)
        let P ← positions s n r
        .ok (r, kind, n, P))
    (fun (r, kind, n, P) s =>
      .ok (tileWrite s z (outer s k.toNat kind (factors s a.toNat n scaled) (factors s b.toNat n scaled) r n P))) s

/-- R198: ZOP. -/
def execZop (c : Bool) (k : BitVec 3) (b a : BitVec 5) (z : BitVec 3) (s : State) : Out := product false c k b a z s
/-- R199: ZOPS. -/
def execZops (c : Bool) (k : BitVec 3) (b a : BitVec 5) (z : BitVec 3) (s : State) : Out := product true c k b a z s

/-- R63, R202: the first active reserved code of the operands: its element and register. Mask `k` selects the rows, so an
element of `a` is active when its position's row is; the columns are not masked. A poisoned element is passed over, whatever its bits:
poison does not trap (log 64). -/
def reservedAt (s : State) (k a b n : Nat) : Option (Nat × Nat) :=
  let bad (r e : Nat) : Bool :=
    let ty := elTy (s.vtag r)
    !(s.v r).elemPoisoned s.span ty e && isReserved ty (s.elem r ty e)
  (List.range n).findSome? fun e =>
    if s.active k (e / 64) && bad a e then some (e, a) else if bad b e then some (e, b) else none

/-- R202: ZPOP. -/
def execZpop (c : Bool) (k : BitVec 3) (b a : BitVec 5) (z : BitVec 3) (s : State) : Out :=
  let rs := [a.toNat, b.toNat]
  vectorRun { c := c, cls := some .mp, whole := true, vr := rs, kr := [k.toNat], zs := [z.toNat] }
    (fun s => do
      typed s rs
      unscaled s rs
      let ts := rs.map s.vtype
      demand (ts.all isPlaneType) (mismatch ts)
      kindFits s z .int ts
      numeric s z
      let n := s.nOf 16
      let P ← positions s n 64
      .ok (n, P))
    (fun (n, P) s =>
      match reservedAt s k.toNat a.toNat b.toNat n with
      | some (e, r) => .trap e ⟨.reservedCode, BitVec.ofNat 64 r⟩ s
      | none =>
        .ok (tileWrite s z (outer s k.toNat .int (factors s a.toNat n false) (factors s b.toNat n false) 64 n P))) s

/-! ### Tiles and vectors (R203-R206) -/

/-- R204: ZMOVV: raw elements of a line to the pair vd, vd+1. -/
def execZmovv (c : Bool) (k : BitVec 3) (d a : BitVec 5) (m : BitVec 2) (z : BitVec 3) (s : State) : Out :=
  let d0 := d.toNat
  vectorRun { c := c, cls := some .mp, vw := [d0, d0 + 1], kr := [k.toNat], sr := [a.toNat], zs := [z.toNat] }
    (fun s => do
      cleanScalars s [a]
      numeric s z
      let line ← lineNumber s a 0 127
      tileFree s z
      .ok line)
    (fun line s =>
      let t := s.tile z
      let hi := if t.kind = .int then 4 else 8
      elementWise (min 128 (s.nOf 64)) k.toNat
        [⟨d0, typeTag 8, plain 8, id⟩, ⟨d0 + 1, typeTag hi, plain hi, id⟩] (fun x s =>
        let p := lineAt (m == 1) line x
        if t.bad p.1 p.2 then .trap (tilePoison z) s
        else
          let v := t.elem p.1 p.2
          .ok () ((s.setElem d0 (plain 8) x (v % 2 ^ 64)).setElem (d0 + 1) (plain hi) x (v / 2 ^ 64))) s) s

/-- R204: ZMOVZ: the pair va, va+1 to the active elements of a line. An element is poisoned exactly when a word of the pair is;
the bits of a poisoned mask word serve as they stand (log 19). -/
def execZmovz (c : Bool) (k : BitVec 3) (d a : BitVec 5) (m : BitVec 2) (z : BitVec 3) (s : State) : Out :=
  let r := d.toNat
  vectorRun { c := c, cls := some .mp, whole := true, vr := [r, r + 1], kr := [k.toNat], sr := [a.toNat], zs := [z.toNat] }
    (fun s => do
      typed s [r, r + 1]
      cleanScalars s [a]
      unscaled s [r, r + 1]
      let ts := [s.vtype r, s.vtype (r + 1)]
      demand (s.vtype r == 8 && (s.vtype (r + 1) == 4 || s.vtype (r + 1) == 8)) (mismatch ts)
      let kind : TileKind := if s.vtype (r + 1) = 4 then .int else .fp
      kindFits s z kind ts
      numeric s z
      let line ← lineNumber s a 0 127
      .ok (kind, line))
    (fun (kind, line) s =>
      let put (t : Tile) (x : Nat) : Tile :=
        let p := lineAt (m == 1) line x
        let bad := (s.v r).elemPoisoned s.span (plain 8) x || (s.v (r + 1)).elemPoisoned s.span (plain 8) x
        if s.active k.toNat x then
          t.put p.1 p.2 (s.elem r (plain 8) x + s.elem (r + 1) (plain 8) x % 2 ^ 16 * 2 ^ 64) bad
        else t
      .ok (tileWrite s z fun t => { (List.range (min 128 (s.nOf 64))).foldl put t with kind := kind })) s

/-- R71, R205: an exact value rounded to a non-plane TYPE; an integer clamps, with NV where `nv`. -/
def tileConvert (t mode : Nat) (nv : Bool) (v : FVal) : FRes :=
  if isInt t then
    let (y, fl, sat) := valToRange mode (intLo t) (intHi t) v
    ⟨wrapTo (typeWidth t) y, if nv || v.isNan then fl else fl &&& ~~~flagNV, sat⟩
  else valToFp (fmtOf t) mode false v

/-- R205: ZCVT, with the scale in s(a+1) for `sc`. -/
def zcvt (sc : Bool) (c : Bool) (k : BitVec 3) (d a : BitVec 5) (m : BitVec 2) (z : BitVec 3) (s : State) : Out :=
  let d0 := d.toNat
  vectorRun { c := c, cls := some .mp, vw := [d0], kr := [k.toNat],
              sr := a.toNat :: (if sc then [a.toNat + 1] else []), zs := [z.toNat] }
    (fun s => do
      typed s [d0]
      cleanScalars s [a]
      let t := s.vtype d0
      demand (!isPlaneType t) (mismatch [t])
      numeric s z
      let line ← lineNumber s a 0 127
      tileFree s z
      .ok (t, line))
    (fun (t, line) s =>
      let tile := s.tile z
      let scale := if sc then (s.rs (a + 1)).toNat % 2 ^ 32 else 0x3F800000
      let mode := s.rm
      elementWise (min 128 (s.nOf (typeWidth t))) k.toNat [⟨d0, typeTag t, plain t, id⟩] (fun x s =>
        let p := lineAt (m == 1) line x
        if tile.bad p.1 p.2 then .trap (tilePoison z) s
        else
          let v := if scale = 0x3F800000 then tile.val p.1 p.2 else (tile.val p.1 p.2).mul (fp32.val scale)
          .ok () (s.put d0 (plain t) x (tileConvert t mode (tile.kind == .fp || scale != 0x3F800000) v))) s) s

/-- R205: ZCVT. -/
def execZcvt (c : Bool) (k : BitVec 3) (d a : BitVec 5) (m : BitVec 2) (z : BitVec 3) (s : State) : Out :=
  zcvt false c k d a m z s
/-- R205: ZCVT.SC. -/
def execZcvtSc (c : Bool) (k : BitVec 3) (d a : BitVec 5) (m : BitVec 2) (z : BitVec 3) (s : State) : Out :=
  zcvt true c k d a m z s

/-- R206: an element of a line as it enters the statistics: an INT one is rounded to EA80 first. -/
def Tile.statElem (t : Tile) (i j : Nat) : FRes :=
  if t.kind = .fp then bare (t.elem i j) else sumRound ea80 0 [t.val i j]

/-- R206: the maximum, the sum and the sum of squares of a line, each an EA80 result with the flags of its steps (log 43). -/
def lineStats (es : List FRes) : FRes × FRes × FRes :=
  (es.tail.foldl (joinRes (fpMinMax ea80 true)) (es.headD (bare 0)),
    es.foldl (joinRes (fpAdd ea80 0)) (bare 0),
    es.foldl (fun a e => joinRes (fpAdd ea80 0) a (joinRes (fpMul ea80 0) e e)) (bare 0))

/-- R206: a statistic rounded to FP32 in RNE, the flags of its steps with those of the rounding. -/
def statResult (x : FRes) : FRes :=
  let r := valToFp fp32 0 false (ea80.val x.code)
  ⟨r.code, r.flags ||| x.flags, r.sat⟩

/-- R206: ZROWSTAT. -/
def execZrowstat (c : Bool) (k : BitVec 3) (d a : BitVec 5) (m : BitVec 2) (z : BitVec 3) (s : State) : Out :=
  let d0 := d.toNat
  vectorRun { c := c, cls := some .mp, vw := [d0, d0 + 1, d0 + 2], kr := [k.toNat], sr := [a.toNat], zs := [z.toNat] }
    (fun s => do
      cleanScalars s [a]
      numeric s z
      let N ← lineNumber s a 1 128
      tileFree s z
      .ok N)
    (fun N s =>
      let t := s.tile z
      let dest (r : Nat) : Dest := ⟨r, typeTag 10, plain 10, id⟩
      elementWise (min 128 (s.nOf 32)) k.toNat [dest d0, dest (d0 + 1), dest (d0 + 2)] (fun x s =>
        let ps := (List.range N).map fun j => lineAt (m == 1) x j
        if ps.any (fun p => t.bad p.1 p.2) then .trap (tilePoison z) s
        else
          let (mx, sum, sq) := lineStats (ps.map fun p => t.statElem p.1 p.2)
          let put (r : Nat) (v : FRes) (s : State) : State := s.put r (plain 10) x (statResult v)
          .ok () (put (d0 + 2) sq (put (d0 + 1) sum (put d0 mx s)))) s) s

/-! ### Tiles and tensors (R207) -/

/-- R119: TVAL of LAYOUT. -/
def layoutTrap (h : BitVec 4) (reason : Nat) : Trap := ⟨.layout, BitVec.ofNat 64 (h.toNat + reason * 256)⟩

/-- R207: the block of a ZLD or ZST: M, N, the handle, and the coordinates of tile element (i, j). -/
structure TileBlock where
  m : Nat
  n : Nat
  handle : Handle
  coords : Nat → Nat → List Nat

/-- R207: the coordinates of tile element (i, j): the origin with i and j added to the two innermost, exchanged in the
transposed form; with one extent element (0, j) lies at c0 + j in either form. -/
def blockCoords (s : State) (b : BitVec 5) (ρ : Nat) (t : Bool) (i j : Nat) : List Nat :=
  (List.range ρ).map fun d =>
    (s.rs (b + BitVec.ofNat 5 d)).toNat +
      (if d + 1 = ρ then (if t && ρ != 1 then i else j) else if d + 2 = ρ then (if t then j else i) else 0)

/-- R207: the checks of the handle and of the size word. -/
def tileBlock (s : State) (b : BitVec 5) (h : BitVec 4) (t : Bool) : Except Trap TileBlock :=
  match s.hart.h[h.toNat] with
  | none => .error (layoutTrap h 1)
  | some (r : Handle) => do
    let ρ := r.rank
    demand (decide (1 ≤ r.etype) && decide (r.etype ≤ 15)) (layoutTrap h 2)
    demand (decide (b.toNat + ρ ≤ 31)) (layoutTrap h 3)
    cleanScalars s [b + BitVec.ofNat 5 ρ]
    let w := s.rs (b + BitVec.ofNat 5 ρ)
    let m := bits w 0 16
    let n := bits w 16 16
    demand (bits w 32 32 == 0 && decide (1 ≤ m) && decide (m ≤ 128) && decide (1 ≤ n) && decide (n ≤ 128) &&
      (ρ != 1 || m == 1)) (layoutTrap h 3)
    cleanScalars s ((List.range ρ).map fun d => b + BitVec.ofNat 5 d)
    .ok ⟨m, n, r, blockCoords s b ρ t⟩

/-- R207: KIND of the handle's element type. -/
def handleKind (h : Handle) : TileKind := if isInt h.etype then .int else .fp

/-- R71, R207: an element read, in the tile's form: exact, but for a signalling NaN, which becomes canonical with NV. -/
def tileForm (et v : Nat) : FRes := if isInt et then ⟨wrapTo 80 (intOf et v), 0, false⟩ else sumRound ea80 0 [(fmtOf et).val v]

/-- R207: one element of the block read, in the tile's form; beyond an extent it reads as zero. -/
def loadBlockElem (k : TileBlock) (i j : Nat) (s : State) : Res FRes :=
  let h := k.handle
  let cs := k.coords i j
  let w := typeWidth h.etype
  if inExtents h.extents cs then
    (locate s h cs false).andThen fun (q, a, nib) s =>
      (elementSite s s.hart.home q a (elemBytes w) false).andThen fun site s =>
        (siteElement s site a w nib).andThen fun v s => .ok (tileForm h.etype v) s
  else .ok (bare 0) s

/-- R207: the block read into a copy of the tile, in row-major order, with the flags its elements raise. -/
def loadBlock (k : TileBlock) : List (Nat × Nat) → Tile × FpFlags → State → Res (Tile × FpFlags)
  | [], t, s => .ok t s
  | (i, j) :: r, t, s =>
    (loadBlockElem k i j s).andThen fun v s => loadBlock k r (t.1.put i j v.code false, t.2 ||| v.flags) s

/-- R207: ZLD. -/
def execZld (b : BitVec 5) (h : BitVec 4) (t : Bool) (z : BitVec 3) (s : State) : Out :=
  vectorRun { needsVl := false, whole := true, zs := [z.toNat] }
    (fun s => do
      let k ← tileBlock s b h t
      kindFits s z (handleKind k.handle) [k.handle.etype]
      numeric s z
      .ok k)
    (fun k s =>
      let ps := (List.range k.m).flatMap fun i => (List.range k.n).map fun j => (i, j)
      match loadBlock k ps (s.tile z, 0) s with
      | .ok (tile, flags) s => .ok ((tileWrite s z fun _ => { tile with kind := handleKind k.handle }).raise flags)
      | .trap t s => .trap 0 t s
      | .hold s => .hold 0 s) s

/-- R207: the place in memory of element number `e` of the block, for what a store replaced. -/
def blockPlace (k : TileBlock) (s : State) (e : Nat) : Option (Nat × Nat) :=
  let cs := k.coords (e / k.n) (e % k.n)
  if inExtents k.handle.extents cs then
    match locate s k.handle cs false with
    | .ok (q, a, nib) s => placeOf s s.hart.home q a (elemBytes (typeWidth k.handle.etype)) nib
    | _ => none
  else none

/-- R207: ZST. -/
def execZst (b : BitVec 5) (h : BitVec 4) (t : Bool) (z : BitVec 3) (s : State) : Out :=
  vectorRun { needsVl := false, zs := [z.toNat] }
    (fun s => do
      let k ← tileBlock s b h t
      numeric s z
      tileFree s z
      .ok k)
    (fun k s0 =>
      let tile := s0.tile z
      let et := k.handle.etype
      let w := typeWidth et
      let mode := s0.rm
      sealed w 0 s0.began (k.m * k.n) (blockPlace k) (elementWise (k.m * k.n) 0 [] (fun e s =>
        let i := e / k.n
        let j := e % k.n
        let cs := k.coords i j
        if inExtents k.handle.extents cs then
          (locate s k.handle cs true).andThen fun (q, a, nib) s =>
            (elementSite s s.hart.home q a (elemBytes w) true).andThen fun site s =>
              if tile.bad i j then .trap (tilePoison z) s
              else
                let r := tileConvert et mode (tile.kind == .fp) (tile.val i j)
                (putSiteElement s site w nib r.code).andThen fun _ s =>
                  .ok () ((if r.flags = 0 then s else s.raise r.flags).saturate r.sat)
        else .ok () s) s0)) s

/-! ### Plane conversion (R201) -/

/-- R63, R201: a value converted to a plane code: what it is rounded to, the flags and SAT, or none for RESERVED_CODE. NX tells
that the rounding to an integer was inexact; what R63 then makes of the integer adds none (log 43). -/
def planeConvert (ty : ElTy) (sat : Bool) (mode : Nat) (v : FVal) : Option FRes :=
  let n := ty.planes
  let lo : Int := if ty.code = 18 then 0 else -((2 ^ (n - 1) : Nat) - 1 : Int)
  let hi : Int := if ty.code = 18 then (2 ^ n : Nat) - 1 else (2 ^ (n - 1) : Nat) - 1
  let fit (z : Int) (fl : FpFlags) : Option FRes :=
    if ty.code = 17 then some ⟨if z < 0 then 0 else 1, fl, false⟩
    else if z < lo ∨ hi < z then
      if ty.code = 18 ∨ sat then some ⟨wrapTo n (if z < lo then lo else hi), fl, true⟩ else none
    else some ⟨wrapTo n z, fl, false⟩
  match v with
  | .nan _ => some ⟨if ty.code = 17 then 1 else 0, flagNV, true⟩
  | .inf neg => fit (if neg then lo - 1 else hi + 1) 0
  | v =>
    match valToInt mode v with
    | some (z, x) => fit z (if x then flagNX else 0)
    | none => none

/-- R201: PCVT: `y` saturates, `x` selects PZ, `p` is the plane count less one. -/
def execPcvt (c y x : Bool) (p : BitVec 4) (k : BitVec 3) (b a d : BitVec 5) (s : State) : Out :=
  let r := a.toNat
  let d0 := d.toNat
  let n := p.toNat + 1
  let tag := planeTag (if x then 18 else if n = 1 then 17 else 16) n
  vectorRun { c := c, cls := some .ab, vr := [r], vw := [d0], reads := scaleUse s r, kr := [k.toNat], sr := [b.toNat] }
    (fun s => do
      typed s [r]
      movable s [r]
      let t := s.vtype r
      demand (t == 1 || t == 2 || t == 10) (mismatch [t])
      .ok (s.vtag r))
    (fun src s0 =>
      let scale := if b = 0 then 0x3F800000 else (s0.rs b).toNat % 2 ^ 32
      let mode := s0.rm
      elementWise (s0.nOf2 (typeWidth (VTag.type src)) 16) k.toNat [⟨d0, tag, elTy tag, id⟩] (fun e s =>
        (convertSource s0 s r src e).andThen fun (v, _) s =>
          match planeConvert (elTy tag) y mode (v.mul (fp32.val scale)) with
          | some res => .ok () (s.put d0 (elTy tag) e res)
          | none => .trap ⟨.reservedCode, BitVec.ofNat 64 d0⟩ s) s0) s

/-! ### The grouped tile scheduler (R208-R211) -/

/-- R210: the tile rows, tile columns and chunks of a group. -/
def GroupRec.rows (g : GroupRec) : Nat := (g.m + g.tm - 1) / g.tm
def GroupRec.cols (g : GroupRec) : Nat := (g.n + g.tn - 1) / g.tn
def GroupRec.chunks (g : GroupRec) : Nat := if g.kc = 0 ∨ g.k = 0 then 1 else (g.k + g.kc - 1) / g.kc
/-- R210: the items of a group. -/
def GroupRec.items (g : GroupRec) : Nat := if g.m = 0 ∨ g.n = 0 then 0 else g.rows * g.cols * g.chunks

/-- R208: the fields the device reads, and whether the record has no reserved bit set. -/
def groupRec (r : BitVec 512) : GroupRec × Bool :=
  let w3 := recWord r 3
  let w4 := recWord r 4
  (⟨bits w3 0 32, bits w3 32 32, bits w4 0 32, bits w4 32 8, bits w4 40 8, bits w4 48 16⟩,
    bits (recWord r 7) 6 26 == 0 && bits (recWord r 7) 0 2 == 0)

/-- R209: the first record that breaks a rule, given the items of those before it and its index. -/
def badGroup : List (GroupRec × Bool) → Nat → Nat → Option Nat
  | [], _, _ => none
  | (g, ok) :: r, total, i =>
    if !ok || g.tm = 0 || decide (128 < g.tm) || g.tn = 0 || decide (128 < g.tn) then some i
    else if 2 ^ 32 - 1 < total + g.items then some i
    else badGroup r (total + g.items) (i + 1)

/-- R119, R216: a range an entry checks as a whole, with VSTART = 0: NO_PROBE names its first address (log 23). -/
def rangeProbe (s : State) (q : BitVec 3) (a : Word) (n : Nat) : Res Unit :=
  if n = 0 ∨ tokenCovers (s.hart.token q) q a n = true then .ok () s
  else .trap ⟨.noProbe, noProbeTval a q⟩ s

/-- The `n` words of eight bytes from `a` read through token `q` by the vector agent. One that maps no storage or is denied traps
ADDR_RANGE as every access does (R249, R251; log 88). -/
def readWords (q : BitVec 3) (a : Word) : Nat → State → Res (List Word)
  | 0, s => .ok [] s
  | n + 1, s =>
    (elementSite s s.hart.home q a 8 false).andThen fun site s =>
      (siteLoad s site a 8).andThen fun v s =>
        (readWords q (a + 8) n s).andThen fun l s => .ok (BitVec.ofNat 64 v :: l) s

/-- R222: 64 bytes from eight words. -/
def recordOf (ws : List Word) : BitVec 512 := headerOf ws

/-- The records of eight words each. -/
def recordsOf : Nat → List Word → List (BitVec 512)
  | 0, _ => []
  | n + 1, ws => recordOf (ws.take 8) :: recordsOf n (ws.drop 8)

/-- R209, R211: the scheduler state that a GTSCFG of member `m` sets: its own at once, the others' at the next GBAR's release. -/
def Gang.configureGroups (g : Gang) (m : Nat) (gs : List GroupRec) : Gang :=
  { g with newGroups := (g.newGroups.filter fun x => x.member != m) ++ [⟨m, gs, 0⟩] }
/-- R211: the groups and the next item that member `m` sees. -/
def Gang.groupsOf (g : Gang) (m : Nat) : List GroupRec × Nat :=
  match g.newGroups.find? fun x => x.member == m with
  | some x => (x.groups, x.nextItem)
  | none => (g.groups, g.nextItem)
/-- R211: member `m` has taken an item. -/
def Gang.takeItem (g : Gang) (m : Nat) : Gang :=
  if g.newGroups.any fun x => x.member == m then
    { g with newGroups := g.newGroups.map fun x => if x.member = m then { x with nextItem := x.nextItem + 1 } else x }
  else { g with nextItem := g.nextItem + 1 }

/-- R209: GTSCFG. A hart of no gang has no scheduler state to replace (log 16). -/
def execGtscfg (q : BitVec 3) (b a : BitVec 5) (s : State) : Out :=
  vectorRun { needsVl := false, whole := true, sr := [a.toNat, b.toNat] }
    (fun s => do
      cleanScalars s [b]
      demand (bits (s.rs b) 16 48 == 0) ⟨.typeMismatch, 0⟩)
    (fun _ s =>
      let G := bits (s.rs b) 0 16
      let arr := s.rs a
      let r := (aligned arr 64 s).andThen fun _ s => (rangeProbe s q arr (64 * G)).andThen fun _ s => readWords q arr (8 * G) s
      match r with
      | .trap t s => .trap 0 t s
      | .hold s => .hold 0 s
      | .ok ws s =>
        let gs := (recordsOf G ws).map groupRec
        match badGroup gs 0 0 with
        | some i => .trap i ⟨.typeMismatch, 0⟩ s
        | none =>
          match findGang s s.hart.name.1 with
          | some g => .ok (setGang s (g.configureGroups s.hart.name.2 (gs.map (·.1))))
          | none => .ok s) s

/-- R210: item `i`: its group and the item's number in it. -/
def findItem : List GroupRec → Nat → Nat → Option (Nat × GroupRec × Nat)
  | [], _, _ => none
  | g :: r, i, n => if i < g.items then some (n, g, i) else findItem r (i - g.items) (n + 1)

/-- R211: the four words of an item. -/
def itemWords (n : Nat) (g : GroupRec) (i : Nat) : List Nat :=
  let h := g.chunks
  let c := i % h
  let tc := i / h % g.cols
  let tr := i / h / g.cols
  let r0 := tr * g.tm
  let c0 := tc * g.tn
  let d0 := if h = 1 then 0 else c * g.kc
  let d1 := if h = 1 then g.k else min g.k ((c + 1) * g.kc)
  [n, r0 + c0 * 2 ^ 32, d0 + d1 * 2 ^ 32,
    (min g.m (r0 + g.tm) - r0) + (min g.n (c0 + g.tn) - c0) * 2 ^ 16 + (if c = 0 then 2 ^ 32 else 0) +
      (if c + 1 = h then 2 ^ 33 else 0)]

/-- Scalars written from `r` upward. -/
def State.setRsList (s : State) (r : BitVec 5) (vs : List Word) : State :=
  (vs.zipIdx).foldl (fun s v => s.setRs (r + BitVec.ofNat 5 v.2) v.1) s

/-- R211: GTSNEXT. -/
def execGtsnext (a : BitVec 5) (s : State) : Out :=
  vectorRun { needsVl := false, whole := true, sw := (List.range 4).map (a.toNat + ·) } (fun _ => .ok ())
    (fun _ s =>
      let none_ := [2 ^ 63, 0, 0, 0]
      let (vs, s) := match findGang s s.hart.name.1 with
        | some g =>
          match findItem (g.groupsOf s.hart.name.2).1 (g.groupsOf s.hart.name.2).2 0 with
          | some (n, r, i) => (itemWords n r i, setGang s (g.takeItem s.hart.name.2))
          | none => (none_, s)
        | none => (none_, s)
      .ok (s.setRsList a (vs.map (BitVec.ofNat 64)))) s

end Sys2Proof.Machine
end

