-- ==== Sys2Proof/Machine/Ranked.lean ====
section
/-!
DEFINITION. Ranked lists in accumulator tiles (R176-R188).
-/
namespace Sys2Proof.Machine

/-! ### The configuration (R177, R179) -/

def RankedConfig.k (c : RankedConfig) : Nat := bits c.word 0 11
def RankedConfig.kt (c : RankedConfig) : Nat := bits c.word 11 3
def RankedConfig.smallest (c : RankedConfig) : Bool := bit c.word 14
def RankedConfig.sh (c : RankedConfig) : Bool := bit c.word 15
/-- R176: the rows of a list and the lists of a tile. -/
def RankedConfig.rows (c : RankedConfig) : Nat := (c.k + 127) / 128
def RankedConfig.lists (c : RankedConfig) : Nat := 128 / c.rows
/-- R177: the TYPE code of KT. -/
def keyType (kt : Nat) : Nat :=
  match kt with
  | 0 => 10 | 1 => 11 | 2 => 12 | 3 => 3 | _ => 7
/-- R76: 16-bit keys lie in the upper half of OKEY. -/
def keyShift (kt : Nat) : Nat := if kt = 1 ∨ kt = 2 then 2 ^ 16 else 1
/-- R76: OKEY of a key. -/
def okeyOf (kt x : Nat) : Nat := orderedKey (keyType kt) x * keyShift kt
/-- R76: the key of an OKEY. -/
def keyOf (kt ok : Nat) : Nat := unorderedKey (keyType kt) (ok / keyShift kt)
/-- R77: the sentinel's OKEY: least in largest mode, greatest in smallest mode. -/
def sentinelOkey (kt : Nat) (smallest : Bool) : Nat :=
  if smallest then (2 ^ typeWidth (keyType kt) - 1) * keyShift kt else 0
/-- R181: the rank key: the greater ranks first. -/
def rankKey (smallest : Bool) (ok : Nat) : Nat := if smallest then 2 ^ 32 - 1 - ok else ok

/-! ### Entries (R176) -/

/-- One entry with its poison. -/
structure Entry where
  okey : Nat
  index : Nat
  v : Bool
  origin : Nat
  bad : Bool
  deriving DecidableEq, Repr

/-- R176: the 80 bits of an entry. -/
def Entry.code (e : Entry) : Nat := e.okey * 2 ^ 48 + e.index * 2 ^ 16 + (if e.v then 2 ^ 15 else 0) + e.origin
/-- The entry of 80 bits. -/
def entryOf (x : Nat) (bad : Bool) : Entry :=
  ⟨x / 2 ^ 48 % 2 ^ 32, x / 2 ^ 16 % 2 ^ 32, x / 2 ^ 15 % 2 == 1, x % 2 ^ 15, bad⟩
/-- R176: an entry at reset. -/
def emptyEntry (c : RankedConfig) : Entry := ⟨sentinelOkey c.kt c.smallest, 2 ^ 32 - 1, false, 0, false⟩

/-- R176: does `a` rank before `b`? -/
def ranksBefore (smallest : Bool) (a b : Entry) : Bool :=
  let ka := rankKey smallest a.okey
  let kb := rankKey smallest b.okey
  decide (kb < ka) || (ka == kb && (decide (a.index < b.index) || (a.index == b.index && decide (a.origin < b.origin))))

/-- R180: an entry inserted by rank. -/
def insertEntry (smallest : Bool) (x : Entry) : List Entry → List Entry
  | [] => [x]
  | y :: r => if ranksBefore smallest x y then x :: y :: r else y :: insertEntry smallest x r

/-- The `n` fields of `w` bits of a number, the lowest first. -/
def splitFields (w : Nat) : Nat → Nat → List Nat
  | 0, _ => []
  | n + 1, x => x % 2 ^ w :: splitFields w n (x / 2 ^ w)
/-- Fields of `w` bits packed, the first in the low bits. -/
def packFields (w : Nat) (l : List Nat) : Nat := l.foldr (fun x a => x + 2 ^ w * a) 0

/-- A ranked tile's list: its header and its valid entries in rank order. -/
structure RankedList where
  head : ListHeader
  entries : List Entry
  deriving DecidableEq, Repr

/-- R176: the first element of list `l`. -/
def listBase (c : RankedConfig) (l : Nat) : Nat := l * c.rows * 128

/-- R176: list `l` of the tile. -/
def Tile.list (t : Tile) (c : RankedConfig) (l : Nat) : RankedList :=
  let h := t.lists.getD l ⟨0, 0, false⟩
  let b := listBase c l
  let xs := splitFields 80 h.len (t.elems.extractLsb' (80 * b) (80 * h.len)).toNat
  ⟨h, xs.zipIdx.map fun x => entryOf x.1 (t.poison.getLsbD (b + x.2))⟩

/-- R176, R180: list `l` replaced by at most K entries; the positions after them are at reset. -/
def Tile.setList (t : Tile) (c : RankedConfig) (l : Nat) (x : RankedList) : Tile :=
  let es := x.entries.take c.k
  let b := listBase c l
  let all := es ++ List.replicate (c.k - es.length) (emptyEntry c)
  { t with
    elems := setField t.elems (80 * b) (80 * c.k) (packFields 80 (all.map Entry.code))
    poison := setField t.poison b c.k (packFields 1 (all.map fun e => if e.bad then 1 else 0))
    lists := t.lists.set l { x.head with len := es.length } }

/-- R177: THR, where LEN = K. -/
def RankedList.thr (x : RankedList) (c : RankedConfig) : Option Nat :=
  if x.entries.length = c.k then (x.entries.getLast?).map Entry.okey else none
/-- R177: THR or the sentinel's OKEY. -/
def RankedList.thrOrSentinel (x : RankedList) (c : RankedConfig) : Nat := (x.thr c).getD (sentinelOkey c.kt c.smallest)
/-- R181: the rank key of the threshold; 0, which prunes nothing, where there is none. -/
def RankedList.thrRank (x : RankedList) (c : RankedConfig) : Nat := ((x.thr c).map (rankKey c.smallest)).getD 0
/-- R180: THR improved. -/
def improved (c : RankedConfig) (old new : RankedList) : Option Nat :=
  match old.thr c, new.thr c with
  | none, some n => some (rankKey c.smallest n)
  | some o, some n => if rankKey c.smallest o < rankKey c.smallest n then some (rankKey c.smallest n) else none
  | _, none => none

/-- R177, R180, R185: `x` added to SUMALL: an EA80 value rounded in RNE, or an integer wrapped to 80 bits; OVF is sticky. -/
def addSum (h : ListHeader) (kt : Nat) (x : FVal) (z : Int) : ListHeader :=
  let old := h.sumall.toNat
  if kt < 3 then
    let (v, o) := fpUpdate old [x]
    let inf := match ea80.val v with | .inf _ => true | _ => false
    { h with sumall := BitVec.ofNat 80 v, ovf := h.ovf || (o && inf) }
  else
    let (v, o) := intUpdate old [z]
    { h with sumall := BitVec.ofNat 80 v, ovf := h.ovf || o }

/-- R177: the value of a key. -/
def keyValue (kt x : Nat) : FVal := if kt < 3 then (fmtOf (keyType kt)).val x else intVal (intOf (keyType kt) x)
def keyInt (kt x : Nat) : Int := if kt < 3 then 0 else intOf (keyType kt) x

/-! ### Checks (R177, R178) -/

/-- R38: ZLIST. -/
def State.zlist (s : State) : Nat := s.hart.csr.zlist.toNat

/-- R177: the tile is in ranked mode. -/
def rankedMode (s : State) (z : BitVec 3) : Except Trap Unit := demand (s.tile z).ranked (tileExtent s)
/-- R177: the tile is ranked and configured, and holds the list of ZLIST where the instruction uses it. -/
def configured (s : State) (z : BitVec 3) (uses : Bool) : Except Trap RankedConfig :=
  match (s.tile z).ranked, (s.tile z).cfg with
  | true, some c => if uses ∧ c.lists ≤ s.zlist then .error (tileExtent s) else .ok c
  | _, _ => .error (tileExtent s)

/-! ### ZRCFG (R179) -/

/-- R179: the word of ZRCFG is well formed. -/
def rankedWordOk (w : Word) : Bool :=
  bits w 20 44 == 0 && decide (1 ≤ bits w 0 11) && decide (bits w 0 11 ≤ 1024) && decide (bits w 11 3 ≤ 4) &&
  decide (bits w 16 4 ≤ 8)

/-- R176, R179: a tile with every list empty. -/
def freshLists (c : RankedConfig) : Tile :=
  let list := packFields 80 (List.replicate c.k (emptyEntry c).code)
  { Tile.zero with
    ranked := true
    elems := BitVec.ofNat _ (packFields (80 * 128 * c.rows) (List.replicate c.lists list))
    cfg := some c
    lists := List.replicate c.lists ⟨0, 0, false⟩ }

/-- R179: ZRCFG. -/
def execZrcfg (q : BitVec 3) (b a : BitVec 5) (z : BitVec 3) (s : State) : Out :=
  let w := s.rs a
  let sh := bit w 15
  vectorRun { needsVl := false, whole := true, zs := [z.toNat], sr := a.toNat :: (if sh then [b.toNat] else []) }
    (fun s => do
      cleanScalars s [a]
      demand (rankedWordOk w) ⟨.typeMismatch, 0⟩
      rankedMode s z)
    (fun _ s =>
      if sh then
        let addr := s.rs b
        match elementSite s s.hart.home q addr 8 true with
        | .ok site s => .ok (tileWrite s z fun _ => freshLists ⟨w, addr, q, site⟩)
        | .trap t s => .trap 0 t s
        | .hold s => .hold 0 s
      else .ok (tileWrite s z fun _ => freshLists ⟨w, 0, 0, .key 0⟩)) s

/-! ### The shared threshold (R181) -/

/-- R181: the token of ZRCFG still covers the shared word, and permits a store where `store`. -/
def sharedCovered (s : State) (c : RankedConfig) (store : Bool) : Except Trap Unit :=
  let t := s.hart.token c.token
  if !tokenCovers t c.token c.saddr 8 then .error ⟨.noProbe, noProbeTval c.saddr c.token⟩
  else demand (!store || t.w) ⟨.addrRange, c.saddr⟩

/-- R181: the rank key that the shared word holds. -/
def sharedRead (s : State) (c : RankedConfig) : Res Nat :=
  match sharedCovered s c false with
  | .error t => .trap t s
  | .ok _ =>
    match c.site with
    | .key _ => (siteLoad s c.site c.saddr 8).andThen fun v s => .ok (v % 2 ^ 32) s
    | .remote pa =>
      (remoteAtomic s pa 2 0 0).andThen fun (v, p) s =>
        if p then .trap ⟨.poison, poisonTval c.site c.saddr⟩ s else .ok (v.toNat % 2 ^ 32) s

/-- R181: the rank key `k` published. For a word of another module the message leaves; its acknowledgement comes later. -/
def publish (s : State) (c : RankedConfig) (k : Nat) : Res Unit :=
  match c.site with
  | .key _ => (siteAtomic s c.site c.saddr 64 7 k).andThen fun _ s => .ok () s
  | .remote pa =>
    (interlock s c.site 8 true).andThen fun _ s => .ok () (sendRequest (rlbDrop s (isleOf s.hart.home) pa) 2 pa 7 8 (BitVec.ofNat 64 k) 0 [] (isleOf s.hart.home)
      (some (hartName s)) 0)

/-- R181: a publish of the hart to another module is not acknowledged yet. -/
def publishPending (s : State) (c : RankedConfig) : Bool :=
  match c.site with
  | .key _ => false
  | .remote pa => c.sh && s.requests.any fun r => r.typ == 2 && decide (r.addr = pa) && r.hart == some (hartName s)

/-! ### ZRPUSH (R180) -/

/-- R180: one pair pushed into list `l`. An entry of the list that is poisoned is compared by its bits and keeps its poison
(log 87). -/
def pushPair (z : BitVec 3) (c : RankedConfig) (l x index : Nat) (s : State) : Res Unit :=
  (if c.sh then sharedRead s c else .ok 0 s).andThen fun shared s =>
    let t := s.tile z
    let old := t.list c l
    let sum : RankedList := { old with head := addSum old.head c.kt (keyValue c.kt x) (keyInt c.kt x) }
    let e : Entry := ⟨okeyOf c.kt x, index, true, bits s.hart.csr.hartid 0 11, false⟩
    if rankKey c.smallest e.okey < max (old.thrRank c) shared then .ok () (s.setTile z (t.setList c l sum))
    else
      let new : RankedList := { sum with entries := (insertEntry c.smallest e old.entries).take c.k }
      let done (s : State) : Res Unit := .ok () (s.setTile z (t.setList c l new))
      match (if c.sh then improved c old new else none) with
      | none => done s
      | some k =>
        match sharedCovered s c true with
        | .error t => .trap t s
        | .ok _ => (publish s c k).andThen fun _ s => done s

/-- R180: ZRPUSH, and ZRPUSH.L with the list numbers in `b`. -/
def push (c : Bool) (k : BitVec 3) (b : Option (BitVec 5)) (a : BitVec 5) (z : BitVec 3) (s : State) : Out :=
  let r := a.toNat
  let rs := [r, r + 1] ++ (b.map (·.toNat)).toList
  vectorRun { c := c, cls := some .mp, vr := rs, kr := [k.toNat], zs := [z.toNat] }
    (fun s => do
      typed s rs
      unscaled s rs
      let ts := rs.map s.vtype
      let t := s.vtype r
      let kt := if (s.tile z).ranked then (s.tile z).cfg.map (keyType ·.kt) else none
      demand ((t == 10 || t == 11 || t == 12 || t == 3 || t == 7) && kt.all (· == t) &&
        (s.vtype (r + 1) == 3 || s.vtype (r + 1) == 7) &&
        b.all fun b => s.vtype b.toNat == 5 || s.vtype b.toNat == 6 || s.vtype b.toNat == 7) (mismatch ts)
      configured s z b.isNone)
    (fun cfg s =>
      let n := s.nOf 32
      let ty := plain (keyType cfg.kt)
      match elementWise n k.toNat [] (fun e s =>
        (match b with
          | some b => s.readElem b.toNat (plain (s.vtype b.toNat)) e
          | none => .ok s.zlist s).andThen fun l s =>
          if cfg.lists ≤ l then .ok () (s.setVstat 3)
          else
            (s.readElem r ty e).andThen fun x s =>
              (s.readElem (r + 1) (plain 7) e).andThen fun i s => pushPair z cfg l x i s) s with
      | .ok s => if publishPending s cfg then .hold n s else .ok (enqueueMatrix s z.toNat)
      | r => r) s

/-- R180: ZRPUSH. -/
def execZrpush (c : Bool) (k : BitVec 3) (a : BitVec 5) (z : BitVec 3) (s : State) : Out := push c k none a z s
/-- R180: ZRPUSH.L. -/
def execZrpushL (c : Bool) (k : BitVec 3) (b a : BitVec 5) (z : BitVec 3) (s : State) : Out := push c k (some b) a z s

/-! ### The stored form (R183-R185) -/

/-- R183: the words of a stored list. -/
def storedList (c : RankedConfig) (x : RankedList) : List Nat :=
  let w0 := x.thrOrSentinel c * 2 ^ 32 + (if x.head.ovf then 2 ^ 31 else 0) + (if c.smallest then 2 ^ 30 else 0) +
    c.kt * 2 ^ 27 + c.k * 2 ^ 16 + x.entries.length
  let all := x.entries ++ List.replicate (c.k - x.entries.length) (emptyEntry c)
  [w0, x.head.sumall.toNat % 2 ^ 64, x.head.sumall.toNat / 2 ^ 64, 0] ++
    all.flatMap fun e => [e.okey + e.index * 2 ^ 32, e.origin + if e.v then 2 ^ 15 else 0]

/-- The sites of `n` words of eight bytes from `a`, each checked for a store. -/
def wordSites (q : BitVec 3) (a : Word) : Nat → State → Res (List Site)
  | 0, s => .ok [] s
  | n + 1, s =>
    (elementSite s s.hart.home q a 8 true).andThen fun x s =>
      (wordSites q (a + 8) n s).andThen fun l s => .ok (x :: l) s

/-- Words stored at their sites. -/
def storeWords : List (Site × Nat) → State → Res Unit
  | [], s => .ok () s
  | (x, v) :: r, s => (siteStore s x 8 v).andThen fun _ s => storeWords r s

/-- R217: the words from `a` through token `q` written by one instruction of the vector agent, every address checked
before any is written; units they replace whole are clean (R266, R267). -/
def writeWords (q : BitVec 3) (a : Word) (ws : List Nat) (s : State) : Res Unit :=
  (wordSites q a ws.length s).andThen fun sites s =>
    (storeWords (sites.zip ws) s).andThen fun _ s =>
      .ok () (clearCovered s (sites.filterMap fun x => match x with | .key k => some (k, 8) | .remote _ => none))

/-- R216: a store through a token with W = 0. -/
def writable (s : State) (q : BitVec 3) (a : Word) : Res Unit :=
  if (s.hart.token q).w then .ok () s else .trap ⟨.addrRange, a⟩ s

/-- R119: the effect of an instruction that is no element-wise one: a trap leaves VSTART = 0. -/
def atStart (r : Res State) : VRes :=
  match r with
  | .ok s _ => .ok s
  | .trap t s => .trap 0 t s
  | .hold s => .hold 0 s

/-- R184: ZRST. -/
def execZrst (q : BitVec 3) (a : BitVec 5) (z : BitVec 3) (s : State) : Out :=
  vectorRun { needsVl := false, whole := true, zs := [z.toNat], sr := [a.toNat] }
    (fun s => configured s z true)
    (fun c s =>
      let x := (s.tile z).list c s.zlist
      let ws := storedList c x
      let sa := s.rs a
      atStart ((aligned sa 64 s).andThen fun _ s =>
        (rangeProbe s q sa (8 * ws.length)).andThen fun _ s =>
          (writable s q sa).andThen fun _ s =>
            if x.entries.any (·.bad) then .trap (tilePoison z) s
            else (writeWords q sa ws s).andThen fun _ s =>
              .ok (enqueueMatrix s z.toNat) s)) s

/-- R185, step 3: the header of a stored list fits the tile. -/
def storedHeaderOk (c : RankedConfig) (w0 w2 w3 : Word) : Bool :=
  bits w0 27 3 == c.kt && bit w0 30 == c.smallest && decide (1 ≤ bits w0 16 11) && decide (bits w0 16 11 ≤ 1024) &&
  bits w0 11 5 == 0 && bits w2 16 48 == 0 && w3 == 0

/-- R183: the valid entries of the stored words. -/
def storedEntries : List Word → List Entry
  | x :: y :: r =>
    if bit y 15 then ⟨bits x 0 32, bits x 32 32, true, bits y 0 15, false⟩ :: storedEntries r else storedEntries r
  | _ => []

/-- R185, steps 6 to 8: the stored list merged into list `l`. A trap of the publish leaves the list unchanged. The addition of the
stored SUMALL raises no flag, as those of the pushes raise none (log 43). -/
def mergeStored (z : BitVec 3) (c : RankedConfig) (l : Nat) (ovf : Bool) (sum : Nat) (es : List Entry) (s : State) :
    Res State :=
  let t := s.tile z
  let old := t.list c l
  let h := addSum old.head c.kt (ea80.val sum) (int80 sum)
  let entries := es.foldl (fun a e => (insertEntry c.smallest e a).take c.k) old.entries
  let new : RankedList := ⟨{ h with ovf := h.ovf || ovf }, entries⟩
  let published : Res Unit :=
    match (if c.sh then improved c old new else none) with
    | none => .ok () s
    | some k => publish s c k
  published.andThen fun _ s =>
    let s := s.setTile z (t.setList c l new)
    .ok s s

/-- R185: ZRMERGE. -/
def execZrmerge (q : BitVec 3) (a : BitVec 5) (z : BitVec 3) (s : State) : Out :=
  vectorRun { needsVl := false, whole := true, zs := [z.toNat], sr := [a.toNat] }
    (fun s => configured s z true)
    (fun c s0 =>
      let sa := s0.rs a
      atStart ((aligned sa 64 s0).andThen fun _ s =>
        (rangeProbe s q sa 32).andThen fun _ s =>
          (readWords q sa 4 s).andThen fun hd s =>
            let w0 := hd.getD 0 0
            let w2 := hd.getD 2 0
            let kt := bits w0 27 3
            let k := bits w0 16 11
            if !storedHeaderOk c w0 w2 (hd.getD 3 0) then
              .trap (mismatch [keyType c.kt, if kt ≤ 4 then keyType kt else 0]) s
            else
              (rangeProbe s q sa (32 + 16 * k)).andThen fun _ s =>
                match (if c.sh then sharedCovered s c true else .ok ()) with
                | .error t => .trap t s
                | .ok _ =>
                  (readWords q (sa + 32) (2 * k) s).andThen fun ws s =>
                    (mergeStored z c s.zlist (bit w0 31) ((hd.getD 1 0).toNat + bits w2 0 16 * 2 ^ 64)
                      (storedEntries ws) s).andThen fun s _ => .ok (enqueueMatrix s z.toNat) s)) s

/-! ### Reading lists (R186-R188) -/

/-- R186: ZRREAD. -/
def execZrread (k a : BitVec 5) (z : BitVec 3) (s : State) : Out :=
  let r := a.toNat
  vectorRun { whole := true, vw := [r, r + 1], kw := [k.toNat], zs := [z.toNat] }
    (fun s => do
      let c ← configured s z true
      tileFree s z
      .ok c)
    (fun c s =>
      let es := ((s.tile z).list c s.zlist).entries
      let n := s.nOf 32
      match (es.take n).findIdx? (·.bad) with
      | some j => .trap j (tilePoison z) s
      | none =>
        let puts (j : Nat) : List Put :=
          match es[j]? with
          | some e => [⟨r, j, keyOf c.kt e.okey⟩, ⟨r + 1, j, e.index⟩]
          | none => [⟨r, j, keyOf c.kt (sentinelOkey c.kt c.smallest)⟩, ⟨r + 1, j, 2 ^ 32 - 1⟩]
        let s := writeAll [(r, typeTag (keyType c.kt)), (r + 1, typeTag 7)] ((List.range n).flatMap puts) s
        .ok (s.setMask k.toNat ⟨maskFrom (min n es.length) fun _ => true, 0⟩)) s

/-- R187: the threshold key as a scalar. -/
def thresholdKey (c : RankedConfig) (x : RankedList) : Word :=
  let k := keyOf c.kt (x.thrOrSentinel c)
  if c.kt = 3 then (BitVec.ofNat 32 k).signExtend 64 else BitVec.ofNat 64 k

/-- R187: an integer sum clamped to INT64, and whether it was. -/
def clampInt64 (z : Int) : Word × Bool :=
  let lo : Int := -(2 ^ 63 : Nat)
  let hi : Int := (2 ^ 63 : Nat) - 1
  if z < lo then (BitVec.ofInt 64 lo, true) else if hi < z then (BitVec.ofInt 64 hi, true) else (BitVec.ofInt 64 z, false)

/-- R187: SUMSEL and SUMOUT as scalars, the flags of the EA80 steps (R68, R73) and whether an integer sum was clamped. -/
structure ListSums where
  sel : Word
  out : Word
  flags : FpFlags
  sat : Bool

/-- R187: the sums of a list. -/
def listSums (c : RankedConfig) (x : RankedList) : ListSums :=
  let keys := x.entries.map fun e => keyOf c.kt e.okey
  let all := x.head.sumall.toNat
  if c.kt < 3 then
    let terms := keys.map fun k => sumRound ea80 0 [keyValue c.kt k]
    let sel := terms.tail.foldl (joinRes (fpAdd ea80 0)) (terms.headD (bare 0))
    let out := joinRes (fpSub ea80 0) (bare all) sel
    let word (v : FRes) : Word := BitVec.ofNat 64 (valToFp fp64 0 false (ea80.val v.code)).code
    ⟨word sel, word out, out.flags, false⟩
  else
    let sel := keys.foldl (fun a k => a + keyInt c.kt k) (0 : Int)
    let p := clampInt64 sel
    let q := clampInt64 (int80 (wrapTo 80 (int80 all - sel)))
    ⟨p.1, q.1, 0, p.2 || q.2⟩

/-- R187: ZRHDR. -/
def execZrhdr (a : BitVec 5) (z : BitVec 3) (s : State) : Out :=
  vectorRun { needsVl := false, whole := true, sw := (List.range 4).map (a.toNat + ·), zs := [z.toNat] }
    (fun s => do
      let c ← configured s z true
      tileFree s z
      .ok c)
    (fun c s =>
      let x := (s.tile z).list c s.zlist
      if x.entries.any (·.bad) then .trap 0 (tilePoison z) s
      else
        let w := BitVec.ofNat 64 (x.entries.length + c.k * 2 ^ 16 + c.kt * 2 ^ 27 + (if c.smallest then 2 ^ 30 else 0) +
          (if x.head.ovf then 2 ^ 31 else 0) + (if c.sh then 2 ^ 32 else 0))
        let l := listSums c x
        .ok (((s.raise l.flags).saturate l.sat).setRsList a [w, thresholdKey c x, l.sel, l.out])) s

/-- R188: ZRTH. -/
def execZrth (a : BitVec 5) (z : BitVec 3) (s : State) : Out :=
  vectorRun { needsVl := false, whole := true, sw := [a.toNat], zs := [z.toNat] }
    (fun s => do
      let c ← configured s z true
      tileFree s z
      .ok c)
    (fun c s =>
      let x := (s.tile z).list c s.zlist
      if (x.thr c).isSome && (x.entries.getLast?).any (·.bad) then .trap 0 (tilePoison z) s
      else .ok (s.setRs a (thresholdKey c x))) s

end Sys2Proof.Machine
end

