-- ==== Sys2Proof/Machine/Handles.lean ====
section
/-!
DEFINITION. Instructions on tensor handles: THSET and THGET (R224), TLD and TST (R225), TRELAYOUT (R226) and TWAIT (R228).
-/
namespace Sys2Proof.Machine

/-- Handle `h` of the hart under the cursor. -/
def State.handle (s : State) (h : BitVec 4) : Option Handle := s.hart.h[h.toNat]
/-- The handle replaced. -/
def State.setHandle (s : State) (h : BitVec 4) (r : Handle) : State :=
  setHart s { s.hart with h := s.hart.h.set h.toNat (some r) }

/-- R224: the handle is valid, or LAYOUT with reason 0x01. -/
def validHandle (s : State) (h : BitVec 4) : Except Trap Handle :=
  match s.handle h with
  | some r => .ok r
  | none => .error (layoutTrap h 1)

/-- R224: THSET. -/
def execThset (q : BitVec 3) (a : BitVec 5) (h : BitVec 4) (s : State) : Out :=
  vectorRun { engine := true, needsVl := false, whole := true, sr := [a.toNat] } (fun _ => .ok ())
    (fun _ s =>
      let sa := s.rs a
      atStart ((aligned sa 64 s).andThen fun _ s =>
        (rangeProbe s q sa 64).andThen fun _ s =>
          (readWords q sa 8 s).andThen fun ws s =>
            if Handle.ok (recordOf ws) then .ok (s.setHandle h (recordOf ws)) s else .trap (layoutTrap h 4) s)) s

/-- R224: THGET. -/
def execThget (q : BitVec 3) (a : BitVec 5) (h : BitVec 4) (s : State) : Out :=
  vectorRun { engine := true, needsVl := false, whole := true, sr := [a.toNat] } (fun s => validHandle s h)
    (fun r s =>
      let sa := s.rs a
      atStart ((aligned sa 64 s).andThen fun _ s =>
        (rangeProbe s q sa 64).andThen fun _ s =>
          (writable s q sa).andThen fun _ s =>
            (writeWords q sa ((List.range 8).map fun i => (recWord r i).toNat) s).andThen fun _ s => .ok s s)) s

/-! ### TLD and TST (R225) -/

/-- R225: the registers that hold the origin. -/
def originRegs (s : State) (h : BitVec 4) (b : BitVec 5) : List Nat :=
  match s.handle h with
  | some r => (List.range (Handle.rank r)).map (b.toNat + ·)
  | none => []

/-- R225: the checks of register `r` against the handle, in their order. -/
def tensorType (s : State) (h : BitVec 4) (b : BitVec 5) (r : Nat) (store : Bool) : Except Trap (Handle × VTag) := do
  typed s [r]
  let x ← validHandle s h
  demand (decide (b.toNat + Handle.rank x ≤ 32)) (layoutTrap h 3)
  if store then movable s [r]
  demand (s.vtype r == Handle.etype x) (mismatch [s.vtype r, Handle.etype x])
  .ok (x, s.vtag r)

/-- R225: the coordinates of element `e`. -/
def tensorCoords (s : State) (r : Handle) (b : BitVec 5) (e : Nat) : List Nat :=
  (List.range r.rank).map fun d => (s.rs (b + BitVec.ofNat 5 d)).toNat + if d + 1 = r.rank then e else 0

/-- R225: TLD leaves VL at the elements that remain of the innermost dimension. -/
def trimVl (s : State) (r : Handle) (b : BitVec 5) (w : Nat) : State :=
  let c := (s.rs (b + BitVec.ofNat 5 (r.rank - 1))).toNat
  let ext := r.extent (r.rank - 1)
  if c < ext ∧ ext < c + s.nOf w then s.modCsr fun x => { x with vl := BitVec.ofNat 64 (ext - c) } else s

/-- R225: TLD. -/
def execTld (c : Bool) (k : BitVec 3) (b : BitVec 5) (h : BitVec 4) (d : BitVec 5) (s : State) : Out :=
  let d0 := d.toNat
  vectorRun { c := c, cls := some .ls, vw := [d0], kw := [k.toNat], sr := originRegs s h b }
    (fun s => tensorType s h b d0 false)
    (fun (r, tag) s =>
      let ty := elTy tag
      let s0 := trimVl s r b ty.w
      let n := s0.nOf ty.w
      sealMask k.toNat n s0.began (fun _ => true)
        (elementWise n 0 [⟨d0, VTag.unsorted tag, ty, id⟩] (fun e s =>
          let x := tensorCoords s r b e
          if inExtents r.extents x then
            (locate s r x false).andThen fun (q, a, nib) s =>
              (loadElement (s.coreOf ty.w e) q a nib d0 ty e s).andThen fun _ s => .ok () (s.setMaskBit k.toNat e true)
          else .ok () ((s.setElem d0 ty e 0).setMaskBit k.toNat e false))
          (s0.stopsBetweenWords n 0 fun e => match locate s0 r (tensorCoords s0 r b e) false with
            | .ok (_, a, _) _ => if inExtents r.extents (tensorCoords s0 r b e) then [wordOf a] else []
            | _ => []))) s

/-- R225: TST. -/
def execTst (c : Bool) (k : BitVec 3) (b : BitVec 5) (h : BitVec 4) (d : BitVec 5) (s : State) : Out :=
  let r0 := d.toNat
  vectorRun { c := c, cls := some .ls, vr := [r0], kr := [k.toNat], sr := originRegs s h b }
    (fun s => tensorType s h b r0 true)
    (fun (r, tag) s0 =>
      let ty := elTy tag
      let n := s0.nOf ty.w
      sealed ty.w k.toNat s0.began n
        (fun s e =>
          let x := tensorCoords s r b e
          if inExtents r.extents x then
            match locate s r x true with
            | .ok (q, a, nib) s => placeOf s (s.coreOf ty.w e) q a (elemBytes ty.w) nib
            | _ => none
          else none)
        (elementWise n k.toNat [] (fun e s =>
          let x := tensorCoords s r b e
          if inExtents r.extents x then
            (locate s r x true).andThen fun (q, a, nib) s => storeElement (s.coreOf ty.w e) q a nib r0 ty e s
          else .ok () s) s0)) s

/-! ### TRELAYOUT (R226) -/

/-- R226: the bytes of the tile-state table. -/
def tableBytes (r : Handle) : Nat := (unitCount r.extents + 31) / 32 * 8

/-- R226: the operands: reserved bits, the new layout for RANK, and the overlap of the old and the new region. -/
def relayoutOperands (s : State) (h : BitVec 4) (b a : BitVec 5) : Except Trap Handle := do
  let r ← validHandle s h
  demand (!r.rly) (layoutTrap h 5)
  cleanScalars s [b]
  let w := s.rs b
  demand (bits w 29 35 == 0 && bits w 0 14 == 0 && layoutOk (layoutOf w) r.rank) (layoutTrap h 6)
  cleanScalars s [a]
  let base := (s.rs a).toNat
  demand (decide (base + regionBytes r (layoutOf w) ≤ r.base.toNat) ||
    decide (r.base.toNat + regionBytes r r.layout ≤ base)) (layoutTrap h 7)
  .ok r

/-- R226: the checks of addresses. -/
def relayoutRanges (s : State) (r : Handle) (q : BitVec 3) (sa : Word) (l : Layout) : Res Unit :=
  (aligned r.tstab 8 s).andThen fun _ s =>
    (aligned r.ccnt 8 s).andThen fun _ s =>
      (rangeProbe s r.tok r.base (regionBytes r r.layout)).andThen fun _ s =>
        (rangeProbe s q sa (regionBytes r l)).andThen fun _ s =>
          (rangeProbe s q r.tstab (tableBytes r)).andThen fun _ s =>
            (rangeProbe s q r.ccnt (if r.ccnt = 0 then 0 else 8)).andThen fun _ s => writable s q sa

/-- R226: the handle with the new region, layout and token, and the old ones beside them. -/
def relaid (r : Handle) (sa w : Word) (q : BitVec 3) : Handle :=
  let info := setBits (setBits (setBits (setBits r.info 45 18 (bits r.info 14 18)) 14 15 (bits w 14 15)) 29 3 q.toNat) 63 1 1
  setRecWord (setRecWord (setRecWord r 1 r.base) 0 sa) 2 info

/-- R215: the pins that meet the `n` bytes from `a`. -/
def pinsOf (t : Token) (a : Word) (n : Nat) : List Pin :=
  t.pins.filter fun p => decide (p.va < a.toNat + n) && decide (a.toNat < p.va + p.size)

/-- Line `l` of main memory lies in a pinned page and holds one of the `n` bytes from `va`. -/
def pinsMeetLine (pins : List Pin) (va n l : Nat) : Bool :=
  pins.any fun p => decide (p.pa ≤ 64 * l) && decide (64 * l < p.pa + p.size) &&
    decide (p.va + 64 * l < p.pa + va + n) && decide (p.pa + va < p.va + 64 * l + 64)

/-- R226: TRELAYOUT. The table write is an engine transfer, so the L1D gives up the lines it meets (R270, R278). -/
def execTrelayout (q : BitVec 3) (b a : BitVec 5) (h : BitVec 4) (s : State) : Out :=
  vectorRun { needsVl := false, whole := true, sr := [a.toNat, b.toNat] } (fun s => relayoutOperands s h b a)
    (fun r s =>
      let sa := s.rs a
      let w := s.rs b
      let l := layoutOf w
      atStart ((relayoutRanges s r q sa l).andThen fun _ s =>
        (settleVector s 6).andThen fun _ s =>
          (writeWords q r.tstab (List.replicate (tableBytes r / 8) 0) s).andThen fun _ s =>
            let s := performVector s s.hart.order.vector.length
            let x := relaid r sa w q
            let job : Relayout :=
              { isle := isleOf s.hart.home, core := s.hart.home, asid := s.hart.asid, record := x, finished := [], moving := none, promoted := []
                fetched := [], asked := none, copied := false
                oldPins := pinsOf (s.hart.token r.tok) r.base (regionBytes r r.layout)
                newPins := pinsOf (s.hart.token q) sa (regionBytes r l)
                tabPins := pinsOf (s.hart.token q) r.tstab (tableBytes r) }
            let s := { s with relayouts := s.relayouts ++ [job] }.setHandle h x
            .ok (dropLines s s.hart.home (pinsMeetLine job.tabPins r.tstab.toNat (tableBytes r))) s)) s

/-! ### TWAIT (R228) -/

/-- R228: TWAIT waits until unit `u` is NEW. -/
def awaitUnit (r : Handle) (u : Nat) (s : State) : Res Unit :=
  (unitState s r u).andThen fun st s => if st = 2 then .ok () s else waitUnit s r u

/-- R228: the handle with RLY = 0 and no old fields. -/
def settledHandle (r : Handle) : Handle := setRecWord (setRecWord r 1 0) 2 (setBits r.info 32 32 0)

/-- R228: TWAIT. -/
def execTwait (h : BitVec 4) (s : State) : Out :=
  vectorRun { needsVl := false, whole := true } (fun _ => .ok ())
    (fun _ s =>
      match s.handle h with
      | some r =>
        if r.rly then
          atStart ((resLoop (awaitUnit r) (unitCount r.extents) 0 s).andThen fun _ s =>
            .ok (acquireL1d (s.setHandle h (settledHandle r)) 6) s)
        else .ok s
      | none => .ok s) s

end Sys2Proof.Machine
end

