-- ==== Sys2Proof/Machine/Streams.lean ====
section
/-!
DEFINITION. Stream instructions: SCFG (R230), SRD, SWR and SAVAIL (R231).
-/
namespace Sys2Proof.Machine

/-- R119: TVAL of STREAM. -/
def streamTrap (f : BitVec 3) (reason : Nat) : Trap := ⟨.stream, BitVec.ofNat 64 (f.toNat + reason * 256)⟩
/-- Stream `f` of the hart under the cursor. -/
def State.stream (s : State) (f : BitVec 3) : Option Stream := s.hart.f[f.toNat]

/-! ### SCFG (R230) -/

/-- R230: the stream left unconfigured, a write stream drained first. -/
def unconfigure (s : State) (f : BitVec 3) : Res Unit :=
  match s.stream f with
  | some x =>
    (if x.writes then streamDrain f.toNat x.buf.length s else .ok () s).andThen fun _ s => .ok () (setStream s f.toNat none)
  | none => .ok () s

/-- R230: the control word and, in handle mode, the handle and AVL. With EN = 0 the word and the width of a valid handle are
checked all the same, while nothing is configured that needs the handle or AVL (log 68). -/
def streamWordOk (s : State) (f : BitVec 3) (x : Stream) : Except Trap Unit := do
  demand (bits x.ctl 13 51 == 0 && bits x.ctl 3 3 == 0 && decide (bits x.ctl 0 3 ≤ 4) &&
    !(x.width == 4 && x.stride != 0 && !x.hmode)) (streamTrap f 4)
  if x.hmode then
    match s.handle (BitVec.ofNat 4 x.hnum) with
    | some h =>
      demand (typeWidth (Handle.etype h) == x.width &&
        (!bit x.ctl 6 || decide (x.avl.toNat ≤ (Handle.extents h).foldl (· * ·) 1))) (streamTrap f 4)
    | none => if bit x.ctl 6 then .error (streamTrap f 5) else .ok ()
  else .ok ()

/-- R230: the signed distance in bytes from one element to the next. -/
def streamStep (x : Stream) : Int := if x.stride = 0 then (x.width / 8 : Nat) else x.stride.toInt

/-- R230: the first element of the range that leaves the window of token `q`, elements of `w` bits wide at least one byte. That of q0
looks at [51:0] of an address alone. -/
def firstOutside (t : Token) (q : BitVec 3) (x : Stream) : Option Nat :=
  let lo : Nat := if q = 0 then 0xF * 2 ^ 48 else t.base.toNat
  let hi : Nat := if q = 0 then 2 ^ 52 else t.base.toNat + t.len.toNat
  let n := x.width / 8
  let d : Int := if q = 0 then (streamStep x).bmod (2 ^ 52) else streamStep x
  let a := if q = 0 then bits x.base 0 52 else x.base.toNat
  let i : Nat :=
    if !tokenCovers t q x.base n then 0
    else if d < 0 then (a - lo) / d.natAbs + 1
    else if d = 0 then x.avl.toNat
    else (hi - n - a) / d.natAbs + 1
  if i < x.avl.toNat then some i else none

/-- R230: the addresses of a stream that walks no handle. The trap for the range names its first element (log 23). -/
def streamRange (s : State) (q : BitVec 3) (x : Stream) : Res Unit :=
  if x.hmode then .ok () s
  else if x.width = 4 then rangeProbe s q x.base ((x.avl.toNat + 1) / 2)
  else
    (aligned x.base (x.width / 8) s).andThen fun _ s =>
      (aligned x.stride (x.width / 8) s).andThen fun _ s =>
        match firstOutside (s.hart.token q) q x with
        | some _ => .trap ⟨.noProbe, noProbeTval x.base q⟩ s
        | none => .ok () s

/-- R230: SCFG. -/
def execScfg (q : BitVec 3) (b a : BitVec 5) (f : BitVec 3) (s : State) : Out :=
  let a0 := a.toNat
  vectorRun { needsVl := false, whole := true, sr := [a0, a0 + 1, a0 + 2, b.toNat] } (fun _ => .ok ())
    (fun _ s =>
      let ctl := s.rs b
      let x : Stream :=
        { base := s.rs a, stride := s.rs (a + 1), avl := s.rs (a + 2), ctl := ctl, token := q, position := 0, buf := [],
          moved := 0 }
      atStart ((unconfigure s f).andThen fun _ s =>
        match streamWordOk s f x with
        | .error t => .trap t s
        | .ok _ =>
          if bit ctl 6 then (streamRange s q x).andThen fun _ s => .ok (setStream s f.toNat (some x)) s
        else .ok s s)) s

/-! ### SRD and SWR (R231) -/

/-- R231: the checks when the instruction enters the vector queue. -/
def streamUse (s : State) (f : BitVec 3) (r : Nat) (writes : Bool) : Except Trap (Stream × VTag) := do
  typed s [r]
  match s.stream f with
  | none => .error (streamTrap f 1)
  | some x => do
    demand (x.writes == writes) (streamTrap f 2)
    demand (typeWidth (s.vtype r) == x.width) (streamTrap f 3)
    if writes then movable s [r]
    demand (!isPlaneType (s.vtype r)) (mismatch [s.vtype r])
    .ok (x, s.vtag r)

/-- R230: the engine of stream `f` works as far as its buffer reaches: it fetches, or performs the buffered stores. -/
def streamEngine (s : State) (f : BitVec 3) : State :=
  match s.stream f with
  | some x =>
    (if x.writes then streamDrain f.toNat x.buf.length s else streamFetch f.toNat (stripSize s.hart x.width) s).state
  | none => s

/-- R231: the stream once its counter is above 0 or its position is AVL; none while it waits for its engine. -/
def streamReady (s : State) (f : BitVec 3) (x : Stream) : Option Stream × State :=
  let go (x : Stream) : Bool := decide (0 < streamCounter s.hart x) || x.position == x.avl
  if go x then (some x, s)
  else
    let s := streamEngine s f
    ((s.stream f).filter fun x => decide (0 < streamCounter s.hart x), s)

/-- R231: VL := min(VL, counter, AVL − position). -/
def streamVl (s : State) (x : Stream) : State :=
  s.modCsr fun c => { c with
    vl := BitVec.ofNat 64 (min c.vl.toNat (min (streamCounter s.hart x) (x.avl.toNat - x.position.toNat))) }

/-- R216, R217, R293: the place of an element of a stream, its address and its nibble, after the checks of its address, for
core `core`. -/
def streamSite (s : State) (x : Stream) (core e : Nat) (store : Bool) : Res (Site × Word × Nat) :=
  (streamElement s x (x.position.toNat + e) store).andThen fun (q, a, nib) s =>
    (elementSite s core q a (elemBytes x.width) store).andThen fun site s => .ok (site, a, nib) s

/-- R231: SRD and SWR over the stream, `body` at each element and `done` on the stream when n elements have passed. -/
def streamRun (f : BitVec 3) (x : Stream) (ds : List Dest) (body : Stream → Nat → State → Res Unit)
    (done : Stream → Nat → Stream) (s : State) : VRes :=
  match streamReady s f x with
  | (none, s) => .hold s.vstart s
  | (some x, s) =>
    let s := streamVl s x
    let n := s.hart.csr.vl.toNat
    match elementWise n 0 ds (body x) s with
    | .ok s => .ok (setStream s f.toNat ((s.stream f).map fun x => done x n))
    | r => r

/-- R231: SRD. -/
def execSrd (c : Bool) (f : BitVec 3) (d : BitVec 5) (s : State) : Out :=
  let d0 := d.toNat
  vectorRun { c := c, cls := some .ls, vw := [d0] } (fun s => streamUse s f d0 false)
    (fun (x, tag) s =>
      let ty := elTy tag
      streamRun f x [⟨d0, VTag.unsorted tag, ty, id⟩]
        (fun x e s =>
          (streamSite s x (streamCore s x (x.position.toNat + e)) e false).andThen fun (site, a, _) s =>
            let y := x.buf.getD e ⟨0, true, none, 0⟩
            if y.poison then .trap ⟨.poison, poisonTval site a⟩ s else .ok () (s.setElem d0 ty e y.value.toNat))
        (fun x n => { x with position := x.position + BitVec.ofNat 64 n, buf := x.buf.drop n }) s) s

/-- R231: buffer element `i` of write stream `f` takes a value. An element that an earlier execution of the instruction put
into the buffer is replaced. -/
def streamPush (f : BitVec 3) (i : Nat) (item : StreamItem) (s : State) : Res Unit :=
  match s.stream f with
  | none => .ok () s
  | some x =>
    let m := x.moved.toNat
    let fresh (s : State) : Res Unit :=
      .ok () (setStream s f.toNat (some { x with buf := [item], moved := BitVec.ofNat 64 i }))
    if x.buf.isEmpty then fresh s
    else if m ≤ i ∧ i < m + x.buf.length then .ok () (setStream s f.toNat (some { x with buf := x.buf.set (i - m) item }))
    else if i = m + x.buf.length then .ok () (setStream s f.toNat (some { x with buf := x.buf ++ [item] }))
    else (streamDrain f.toNat x.buf.length s).andThen fun _ s => fresh s

/-- R231: SWR. -/
def execSwr (c : Bool) (f : BitVec 3) (d : BitVec 5) (s : State) : Out :=
  let r := d.toNat
  vectorRun { c := c, cls := some .ls, vr := [r] } (fun s => streamUse s f r true)
    (fun (x, tag) s =>
      let ty := elTy tag
      streamRun f x []
        (fun x e s =>
          (streamSite s x (s.coreOf ty.w e) e true).andThen fun (site, _, nib) s =>
            (s.readElem r ty e).andThen fun v s =>
              (interlock s site (elemBytes x.width) true).andThen fun _ s =>
                streamPush f (x.position.toNat + e) ⟨BitVec.ofNat 64 v, false, some site, nib⟩ s)
        (fun x n => { x with position := x.position + BitVec.ofNat 64 n }) s) s

/-- R231: SAVAIL with selector `b`: 0 the counter, 1 the position. The engine then goes on. -/
def execSavail (b : BitVec 5) (f : BitVec 3) (d : BitVec 5) (s : State) : Out :=
  vectorRun { needsVl := false, whole := true, sw := [d.toNat] }
    (fun s => match s.stream f with
      | some x => .ok x
      | none => .error (streamTrap f 1))
    (fun x s =>
      let v := if b = 0 then BitVec.ofNat 64 (streamCounter s.hart x) else x.position
      .ok (streamEngine (s.setRs d v) f)) s

end Sys2Proof.Machine
end

