-- ==== Sys2Proof/Machine/Copy.lean ====
section
/-!
DEFINITION. CPY (R232, R233, R352): the checks of its blocks, and the transfer it starts.
-/
namespace Sys2Proof.Machine

/-- R232: the sites of the `n` words from `a`, in ascending order; a window address that maps no storage traps. -/
def copySites (q : BitVec 3) (a : Word) (store : Bool) : Nat → State → Res (List Site)
  | 0, s => .ok [] s
  | n + 1, s =>
    match tokenSite s s.hart.home q a 8 store true with
    | .error t => .trap t s
    | .ok x => (copySites q (a + 8) store n s).andThen fun l s => .ok (x :: l) s

/-- R232: the `n` bytes from `a` against the token's window: NO_PROBE names the lowest byte outside it. -/
def blockProbe (s : State) (q : BitVec 3) (a : Word) (n : Nat) : Res Unit :=
  let t := s.hart.token q
  if n = 0 ∨ tokenCovers t q a n = true then .ok () s
  else
    let stop : Word := if q = 0 then 0x0010000000000000 else t.base + t.len
    .trap ⟨.noProbe, noProbeTval (if tokenCovers t q a 1 then stop else a) q⟩ s

/-- R232: the `n` bytes of one block: the five checks in their order, and its words. -/
def copyBlock (q r : BitVec 3) (src dst : Word) (n : Nat) (s : State) : Res (List Segment) :=
  (blockProbe s q src n).andThen fun _ s =>
    (blockProbe s r dst n).andThen fun _ s =>
      (writable s r dst).andThen fun _ s =>
        (copySites q src false (n / 8) s).andThen fun xs s =>
          (copySites r dst true (n / 8) s).andThen fun ys s => .ok (List.zipWith Segment.mk xs ys) s

/-- R232: the blocks from block `i` on, up to the first that fails: the words, and the failing block with its trap. -/
def copyBlocks (q r : BitVec 3) (src dst : Word) (len : Nat) (s : State) :
    Nat → Nat → List Segment × Option (Nat × Trap)
  | 0, _ => ([], none)
  | k + 1, i =>
    let off := BitVec.ofNat 64 (64 * i)
    match copyBlock q r (src + off) (dst + off) (min 64 (len - 64 * i)) s with
    | .ok l _ => let (m, t) := copyBlocks q r src dst len s k (i + 1); (l ++ m, t)
    | .trap t _ => ([], some (i, t))
    | .hold _ => ([], none)

/-- The lines of 64 bytes that hold the remote sources, each once. -/
def remoteLines (segs : List Segment) : List Nat :=
  (segs.filterMap fun g => match g.src with | .remote pa => some (pa / 64 * 64) | .key _ => none).eraseDups

/-- A word of the transfer lies on another module. -/
def touchesModules (segs : List Segment) : Bool :=
  segs.any fun g =>
    (match g.src with | .remote pa => !isConnection pa | .key _ => false) ||
    (match g.dst with | .remote pa => !isConnection pa | .key _ => false)

/-- R295, R352: one line of remote sources: taken from the remote-line buffer, or asked for. -/
def fetchLine (t : Transfer) (line : Nat) (s : State) : Transfer × State :=
  match (if isConnection line then none else rlbFind s (isleOf s.hart.home) line) with
  | some l =>
    ({ t with arrived := t.arrived ++ (List.range 8).map fun i =>
        (line + 8 * i, l.data.extractLsb' (64 * i) 64, l.poison.getLsbD i) }, s)
  | none =>
    ({ t with tags := t.tags ++ [s.nextTag] },
      sendRequest s 0 line 0 64 0 0 [] (isleOf s.hart.home) (some (hartName s)) 0)

/-- R273: CPY waits for the earlier accesses of the vector agent that its words meet. -/
def copyInterlock : List Segment → State → Res Unit
  | [], s => .ok () s
  | g :: r, s =>
    (interlock s g.src segBytes false).andThen fun _ s =>
      (interlock s g.dst segBytes true).andThen fun _ s => copyInterlock r s

/-- R297: the transfer of the words begins. -/
def startTransfer (segs : List Segment) (pins : List Pin) (s : State) : State :=
  if segs.isEmpty then s
  else
    let (t, s) := (remoteLines segs).foldl (fun (t, s) l => fetchLine t l s) (⟨s.hart.home, s.ctl.ctbase, s.ctl.ctcnt, segs, pins, [], []⟩, s)
    setHart s { s.hart with transfers := s.hart.transfers ++ [t] }

/-- R352: a word whose source and destination both lie outside the module. -/
def bothOutside (s : State) (q r : BitVec 3) (src dst : Word) (words : Nat) : Bool :=
  (List.range words).any fun i =>
    let off := BitVec.ofNat 64 (8 * i)
    match tokenSite s s.hart.home q (src + off) 8 false true, tokenSite s s.hart.home r (dst + off) 8 false true with
    | .ok (.remote _), .ok (.remote _) => true
    | _, _ => false

/-- R232, R352: the checks of CPY at issue. -/
def copyIssue (s : State) (q r : BitVec 3) (src dst len : Word) : Except Trap Unit := do
  demand (dst.toNat % 8 == 0) ⟨.align, dst⟩
  demand (src.toNat % 8 == 0) ⟨.align, src⟩
  demand (len.toNat % 8 == 0) ⟨.align, len⟩
  demand (decide (len.toNat < 2 ^ 40)) ⟨.addrRange, len⟩
  demand (!bothOutside s q r src dst (len.toNat / 8)) ⟨.addrRange, src⟩

/-- R232: the blocks before `i` are performed, at their storage where that is another module's or a connection's. -/
def copyPerformed (s : State) : Res Unit :=
  let s := settleTransfers s.hart.transfers s
  if !s.hart.transfers.isEmpty || ownWritesPending s (hartName s).1 (hartName s).2 then .hold s else .ok () s

/-- R232: CPY. -/
def execCpy (q r : BitVec 3) (b a d : BitVec 5) (s : State) : Out :=
  let src := s.rs a
  let dst := s.rs d
  let len := s.rs b
  vectorRun { engine := true, needsVl := false, sr := [d.toNat, a.toNat, b.toNat] } (fun _ => .ok ())
    (fun _ s =>
      match copyIssue s q r src dst len with
      | .error t => .trap s.vstart t s
      | .ok _ =>
        let blocks := (len.toNat + 63) / 64
        let (segs, bad) := copyBlocks q r src dst len.toNat s (blocks - s.vstart) s.vstart
        match copyInterlock segs s with
        | .hold s => .hold s.vstart s
        | .trap t s => .trap s.vstart t s
        | .ok _ s =>
          let own (pa : Nat) : Bool := remoteStorePending s (hartName s).1 (hartName s).2 pa
          if (touchesModules segs && !canSend s) || (remoteLines segs).any own then .hold s.vstart s
          else
            let pins := pinsOf (s.hart.token q) src len.toNat ++ pinsOf (s.hart.token r) dst len.toNat
            let s := startTransfer segs pins s
            match bad with
            | none => .ok s
            | some (i, t) =>
              match copyPerformed s with
              | .ok _ s => .trap i t s
              | .trap t s => .trap i t s
              | .hold s => .hold i s) s

end Sys2Proof.Machine
end

