-- ==== Sys2Proof/Machine/Xlate.lean ====
section
/-!
DEFINITION. Slot translation: VXLATE and VXLATE.FF (R234).
-/
namespace Sys2Proof.Machine

/-- R234: the parameter word: SLOT is not 0 and no reserved bit is set. -/
def xlateWordOk (w : Word) : Bool := bits w 16 16 != 0 && bits w 4 12 == 0

/-- R234: the table entry of block `blk`, all ones where there is none. -/
def tableEntry (q : BitVec 3) (core : Nat) (table : Word) (nb blk : Nat) (s : State) : Res Nat :=
  if blk < nb then
    let a := table + BitVec.ofNat 64 (4 * blk)
    match tokenSite s core q a 4 false false with
    | .error t => .trap t s
    | .ok site => siteLoad s site a 4
  else .ok 0xFFFFFFFF s

/-- R234: element `e`: vd[e] and kf[e] written; the result tells kf[e]. -/
def xlateElement (q k : BitVec 3) (table par pool : Word) (a d e : Nat) (s : State) : Res Bool :=
  let lb := bits par 0 4
  (s.readElem a (plain 7) e).andThen fun x s =>
    (tableEntry q (s.coreOf 64 e) table (bits par 32 32) (x / 2 ^ lb) s).andThen fun t s =>
      let fault := t == 0xFFFFFFFF
      let v := if fault then 0 else pool.toNat + (t * 2 ^ lb + x % 2 ^ lb) * bits par 16 16
      .ok fault ((s.setElem d (plain 8) e (v % 2 ^ 64)).setMaskBit k.toNat e fault)

/-- R234: the `n` elements from `e` on, and the least element so far with kf[e] = 1. -/
def xlateLoop (f : Nat → State → Res Bool) : Nat → Nat → Option Nat → State → LoopEnd × Option Nat
  | 0, _, least, s => (.done s, least)
  | n + 1, e, least, s =>
    match f e s with
    | .ok fault s => xlateLoop f n (e + 1) (if least.isNone && fault then some e else least) s
    | .trap t s => (.trap e t s, least)
    | .hold s => (.hold e s, least)

/-- R234: the least element with kf[e] = 1: those below VSTART come first, which the mask still holds, or, with K = 0, the hart
(log 69). -/
def leastFault (s : State) (k start : Nat) (least : Option Nat) : Option Nat :=
  if k = 0 then (if start = 0 then none else s.hart.xlateFault).or least
  else ((List.range start).find? fun e => (s.mask k).bits.getLsbD e).or least

/-- R234: VXLATE and VXLATE.FF. -/
def execVxlate (q : BitVec 3) (x : Bool) (k : BitVec 3) (b a d : BitVec 5) (s : State) : Out :=
  let a0 := a.toNat
  let d0 := d.toNat
  let par := s.rs (b + 1)
  vectorRun { engine := true, vr := [a0], vw := [d0], kw := [k.toNat], sr := [b.toNat, b.toNat + 1, b.toNat + 2] }
    (fun s => do
      typed s [a0]
      cleanScalars s [b, b + 1]
      demand (xlateWordOk par) ⟨.typeMismatch, 0⟩
      unscaled s [a0]
      demand (s.vtype a0 == 7) (mismatch [s.vtype a0]))
    (fun _ s0 =>
      let n := s0.nOf 64
      let start := s0.vstart
      let began := s0.began
      let dest : List Dest := [⟨d0, typeTag 8, plain 8, id⟩]
      let all : Nat → Bool := fun _ => true
      let forget (s : State) : State := setHart s { s.hart with xlateFault := none }
      let (r, least) := xlateLoop (xlateElement q k (s.rs b) par (s.rs (b + 2)) a0 d0) (n - start) start none s0
      let keep (s : State) : State := setHart s { s.hart with xlateFault := leastFault s 0 start least }
      match r with
      | .done s1 =>
        let trim (s : State) : State :=
          match leastFault s1 k.toNat (min start n) least with
          | some e => if x then s.modCsr fun c => { c with vl := BitVec.ofNat 64 e } else s
          | none => s
        sealMask k.toNat n began all (.ok (trim (sealDests dest all began (max start n) (forget s1))))
      | .trap e t s => sealMask k.toNat n began all (.trap e t (sealDests dest all began e (keep s)))
      | .hold e s => sealMask k.toNat n began all (.hold e (standAt dest all began e (keep s)))) s

end Sys2Proof.Machine
end

