-- ==== Sys2Proof/Machine/Atoll.lean ====
section
/-!
DEFINITION. The Atoll: its trees and their four operations (R235, R236), for harts and for messages, and the prefix
instructions.
-/
namespace Sys2Proof.Machine

/-! ### Trees (R235) -/

/-- The nodes of the store (R235). -/
def atollNodes : Nat := 4194304

/-- The children of a node of the tree; of the root for none. -/
def childrenOf (s : State) (tree : Nat) (parent : Option Nat) : List AtollNode :=
  s.atoll.filter fun x => x.tree == tree && x.parent == parent

/-- How many leading tokens of `ids` a page holds. -/
def commonTokens : List (BitVec 32) → List (BitVec 32) → Nat
  | x :: xs, y :: ys => if x = y then commonTokens xs ys + 1 else 0
  | _, _ => 0

/-- R236: the child that `ids` follows, and how far: the one that matches furthest, by free choice among several. -/
def furthestChild (pick : Nat) (ids : List (BitVec 32)) (cs : List AtollNode) : Option (AtollNode × Nat) :=
  let far := cs.foldl (fun m c => max m (commonTokens c.tokens ids)) 0
  if far = 0 then none
  else
    match cs.filter fun c => commonTokens c.tokens ids == far with
    | [c] => some (c, far)
    | best => best[pick % best.length]?.map fun c => (c, far)

/-- R236: the nodes reached along `ids` from `parent`, and the tokens matched; the first argument bounds the pages. -/
def followTree (s : State) (tree pick : Nat) : Nat → Option Nat → List (BitVec 32) → List AtollNode × Nat
  | 0, _, _ => ([], 0)
  | n + 1, parent, ids =>
    match furthestChild pick ids (childrenOf s tree parent) with
    | none => ([], 0)
    | some (c, m) =>
      if m = 16 then
        let (l, k) := followTree s tree pick n (some c.id) (ids.drop 16)
        (c :: l, 16 + k)
      else ([c], m)

/-- The walk of an operation, with the free choice of the state. -/
def walkTree (s : State) (tree : Nat) (ids : List (BitVec 32)) : List AtollNode × Nat :=
  followTree s tree (Config.atollPick s.freeCtr) (ids.length / 16 + 1) none ids

/-- Nodes changed where `f` answers. -/
def mapNodes (s : State) (keep : AtollNode → Bool) (f : AtollNode → AtollNode) : State :=
  { s with atoll := s.atoll.map fun x => if keep x then f x else x }

/-- R236: 1 added to the counts of the nodes, which are attached now. -/
def attachNodes (s : State) (ids : List Nat) : State :=
  let s1 := mapNodes s (fun x => ids.contains x.id) fun x => { x with count := x.count + 1, attached := s.atollNext }
  { s1 with atollNext := s.atollNext + 1, freeCtr := s.freeCtr + 1 }

/-- R235: the result word. -/
def atollResult (status len : Nat) : Word := BitVec.ofNat 64 (status * 2 ^ 56 + len % 2 ^ 32)

/-! ### The operations (R236) -/

/-- R236: PFXLOOK: the page ids reached, the result, the state. -/
def atollLook (s : State) (tree : Nat) (ids : List (BitVec 32)) : List (BitVec 32) × Word × State :=
  let (path, m) := walkTree s tree ids
  (path.map (·.page), atollResult 0 m, attachNodes s (path.map (·.id)))

/-- The pages of 16 tokens, whole ones only. -/
def wholePages : Nat → List (BitVec 32) → List (List (BitVec 32))
  | 0, _ => []
  | n + 1, ids => ids.take 16 :: wholePages n (ids.drop 16)

/-- R236: the existing nodes for the leading pages. -/
def existingPath (s : State) (tree : Nat) : Option Nat → List (List (BitVec 32)) → List AtollNode
  | _, [] => []
  | parent, p :: r =>
    match (childrenOf s tree parent).find? fun c => c.tokens == p with
    | some c => c :: existingPath s tree (some c.id) r
    | none => []

/-- R236: new nodes, each the child of the one before it. -/
def newNodes (tree stamp : Nat) : Option Nat → Nat → List (List (BitVec 32) × BitVec 32) → List AtollNode
  | _, _, [] => []
  | parent, id, (p, page) :: r =>
    { id := id, tree := tree, parent := parent, tokens := p, page := page, count := 1, attached := stamp } ::
      newNodes tree stamp (some id) (id + 1) r

/-- R362: kind 0x0B when the free nodes fall below 1/16 of the store. -/
def reportOccupancy (before : Nat) (isle : Nat) (s : State) : State :=
  let free := atollNodes - s.atoll.length
  if free < atollNodes / 16 ∧ atollNodes / 16 ≤ before then
    (postNote s isle 0x0B 0 0 0 0 (BitVec.ofNat 64 free) (bit s.ctl.mode 1)).1
  else s

/-- R236: PFXINS with the page ids `pages` of the buffer; `isle` is where the occupancy is reported. -/
def atollInsert (s : State) (isle tree : Nat) (ids pages : List (BitVec 32)) : Word × State :=
  let whole := wholePages (ids.length / 16) ids
  let old := existingPath s tree none whole
  let k := old.length
  let parent := old.getLast?.map (·.id)
  let fresh := newNodes tree s.atollNext parent (s.atollNext + 1) ((whole.zip pages).drop k)
  if !fresh.isEmpty && decide (atollNodes < s.atoll.length + fresh.length) then (atollResult 3 (16 * k), s)
  else
    let free := atollNodes - s.atoll.length
    let s := attachNodes s (old.map (·.id))
    (atollResult 0 (16 * k),
      reportOccupancy free isle { s with atoll := s.atoll ++ fresh, atollNext := s.atollNext + fresh.length })

/-- R236: PFXDET. A page that does not match all the tokens asked of it is not reached. -/
def atollDetach (s : State) (tree : Nat) (ids : List (BitVec 32)) : Word × State :=
  let (nodes, m) := walkTree s tree ids
  let path := if m ≠ ids.length ∧ m % 16 ≠ 0 then nodes.dropLast else nodes
  let held := (path.filter fun c => c.count != 0).map (·.id)
  let s1 := mapNodes s (fun x => held.contains x.id) fun x => { x with count := x.count - 1 }
  let ok := m == ids.length && held.length == path.length
  (atollResult (if ok then 0 else 2) held.length, { s1 with freeCtr := s.freeCtr + 1 })

/-- R236: a node with count 0 and no children. -/
def removable (s : State) (x : AtollNode) : Bool := x.count == 0 && (s.atoll.all fun y => y.parent != some x.id)

/-- A node removed. -/
def removeNode (s : State) (id : Nat) : State := { s with atoll := s.atoll.filter fun x => x.id != id }

/-- R236: the nodes of a path, the deepest first, removed as long as each has count 0 and no children. -/
def removeUp : List AtollNode → State → List (BitVec 32) × State
  | [], s => ([], s)
  | x :: r, s =>
    if removable s x then
      let (l, s) := removeUp r (removeNode s x.id)
      (x.page :: l, s)
    else ([], s)

/-- R236: the node of the tree with count 0 and no children that was attached the longest ago. -/
def oldestRemovable (s : State) (tree : Nat) : Option AtollNode :=
  (s.atoll.filter fun x => x.tree == tree && removable s x).foldl (fun best x => match best with
    | some b => if x.attached < b.attached then some x else some b
    | none => some x) none

/-- R236: up to `n` such nodes removed. -/
def removeOldest (tree : Nat) : Nat → State → List (BitVec 32) × State
  | 0, s => ([], s)
  | n + 1, s =>
    match oldestRemovable s tree with
    | some x =>
      let (l, s) := removeOldest tree n (removeNode s x.id)
      (x.page :: l, s)
    | none => ([], s)

/-- R236, R359: PFXEVICT: the page ids freed, the result, the state. In the host's eviction mode one with n = 0 frees nothing. -/
def atollEvict (s : State) (tree : Nat) (ids : List (BitVec 32)) (maxf : Nat) : List (BitVec 32) × Word × State :=
  if ids.isEmpty then
    if bit s.ctl.mode 1 then ([], atollResult 2 0, s)
    else
      let (l, s) := removeOldest tree maxf s
      (l, atollResult 0 l.length, s)
  else
    let whole := wholePages (ids.length / 16) ids
    let path := existingPath s tree none whole
    match path.reverse with
    | [] => ([], atollResult 2 0, s)
    | x :: r =>
      if ids.length % 16 ≠ 0 ∨ path.length ≠ whole.length then ([], atollResult 2 0, s)
      else if removable s x then
        let (l, s) := removeUp (x :: r) s
        (l, atollResult 0 l.length, s)
      else ([], atollResult 1 0, s)

/-! ### The instructions (R235) -/

/-- R235: the four operations. -/
inductive PrefixOp where
  | look
  | insert
  | detach
  | evict
  deriving DecidableEq, Repr

/-- R235: the page ids the buffer holds room for. -/
def PrefixOp.ids (o : PrefixOp) (n maxf : Nat) : Nat :=
  match o with
  | .look => (n + 15) / 16
  | .insert => n / 16
  | .detach => 0
  | .evict => if n = 0 then maxf else n / 16

/-- R235: does the operation write its buffer? -/
def PrefixOp.writes (o : PrefixOp) : Bool := o == .look || o == .evict

/-- R235: the parameter word. -/
def prefixWordOk (w : Word) (o : PrefixOp) (n : Nat) : Bool :=
  bits w 16 16 == 0 && bits w 48 16 == 0 && ((o == .evict && n == 0) || bits w 32 16 == 0)

/-- The sites of `n` ids of four bytes from `a`. -/
def idSites (q : BitVec 3) (a : Word) (store : Bool) : Nat → State → Res (List (Site × Word))
  | 0, s => .ok [] s
  | n + 1, s =>
    match tokenSite s s.hart.home q a 4 store false with
    | .error t => .trap t s
    | .ok x => (idSites q (a + 4) store n s).andThen fun l s => .ok ((x, a) :: l) s

/-- R235: the ids of the buffer read. -/
def readIds : List (Site × Word) → State → Res (List (BitVec 32))
  | [], s => .ok [] s
  | (x, a) :: r, s =>
    (siteLoad s x a 4).andThen fun v s => (readIds r s).andThen fun l s => .ok (BitVec.ofNat 32 v :: l) s

/-- R236: page ids written to the buffer. -/
def putIds (sites : List (Site × Word)) (ids : List (BitVec 32)) (s : State) : State :=
  let ws := sites.zip ids
  let s := ws.foldl (fun s w => match w.1.1 with
    | .key k => promoteChunk (putAgent s k 4 w.2.toNat) k
    | .remote pa => sendRequest (rlbDrop s (isleOf s.hart.home) pa) 1 pa 0 4 0 0 [(w.2.zeroExtend 64, false)]
        (isleOf s.hart.home) (some (hartName s)) 0) s
  clearCovered s (ws.filterMap fun w => match w.1.1 with | .key k => some (k, 4) | .remote _ => none)

/-- A site of another module, to which the module cannot send. -/
def cannotReach (s : State) (sites : List (Site × Word)) : Bool :=
  !canSend s && sites.any fun x => match x.1 with | .remote _ => true | .key _ => false

/-- R236, R299: the operation at its instant, the buffer, and the result. -/
def prefixEffect (o : PrefixOp) (tree maxf : Nat) (ids : List (BitVec 32)) (sites : List (Site × Word)) (s : State) :
    Res Word :=
  match o with
  | .look =>
    let (l, w, s) := atollLook s tree ids
    .ok w (acquireL1d (putIds sites l s) 6)
  | .insert =>
    (readIds sites s).andThen fun pages s =>
      let (w, s) := atollInsert (cleanL1d s s.hart.home) (isleOf s.hart.home) tree ids pages
      .ok w s
  | .detach =>
    let (w, s) := atollDetach (cleanL1d s s.hart.home) tree ids
    .ok w s
  | .evict =>
    let (l, w, s) := atollEvict s tree ids maxf
    .ok w (acquireL1d (putIds sites l s) 6)

/-- R235: a prefix instruction. -/
def prefixRun (o : PrefixOp) (q : BitVec 3) (b a d : BitVec 5) (s : State) : Out :=
  let par := s.rs (b + 1)
  let maxf := bits par 32 16
  vectorRun { engine := true, whole := true, vr := [a.toNat], sr := [b.toNat, b.toNat + 1], sw := [d.toNat] }
    (fun s => do
      typed s [a.toNat]
      cleanScalars s [b, b + 1]
      demand (prefixWordOk par o (s.nOf 32)) ⟨.typeMismatch, 0⟩
      unscaled s [a.toNat]
      demand (s.vtype a.toNat == 3) (mismatch [s.vtype a.toNat]))
    (fun _ s =>
      let n := s.nOf 32
      let count := o.ids n maxf
      let buf := s.rs b
      match (aligned buf 4 s).andThen fun _ s => (rangeProbe s q buf (4 * count)).andThen fun _ s =>
          idSites q buf o.writes count s with
      | .trap t s => .trap 0 t s
      | .hold s => .hold 0 s
      | .ok sites s =>
        match collect (fun e => (s.source a.toNat (plain 3) e).map some) (List.range n) with
        | .error (e, t) => .trap e t s
        | .ok ids =>
          if o.writes && cannotReach s sites then .hold 0 s
          else atStart ((settleBoth s 6).andThen fun _ s =>
            (prefixEffect o (bits par 0 16) maxf (ids.map (BitVec.ofNat 32)) sites s).andThen fun w s =>
              .ok (s.setRs d w) s)) s

/-- R236: PFXLOOK. -/
def execPfxlook (q : BitVec 3) (b a d : BitVec 5) (s : State) : Out := prefixRun .look q b a d s
/-- R236: PFXINS. -/
def execPfxins (q : BitVec 3) (b a d : BitVec 5) (s : State) : Out := prefixRun .insert q b a d s
/-- R236: PFXDET. -/
def execPfxdet (q : BitVec 3) (b a d : BitVec 5) (s : State) : Out := prefixRun .detach q b a d s
/-- R236: PFXEVICT. -/
def execPfxevict (q : BitVec 3) (b a d : BitVec 5) (s : State) : Out := prefixRun .evict q b a d s

end Sys2Proof.Machine
end

