-- ==== Sys2Proof/Machine/Code.lean ====
section
/-!
DEFINITION. The codes that protect storage: the Reed-Solomon code RS(72,64) of a line of main memory (R266) and what the SEC-DED
code of a core's words tells (R267).
-/
namespace Sys2Proof.Machine

/-! ### GF(2^8) (R266) -/

/-- α times `a` under x^8 + x^4 + x^3 + x^2 + 1. -/
def gfDouble (a : Nat) : Nat := if a < 128 then 2 * a else (2 * a - 256) ^^^ 0x1D

/-- The product of `a` and the low bits of `b`, as many as the first argument says. -/
def gfMulBits : Nat → Nat → Nat → Nat
  | 0, _, _ => 0
  | n + 1, a, b => (if b % 2 = 1 then a else 0) ^^^ gfMulBits n (gfDouble a) (b / 2)
/-- The product in the field. -/
def gfMul (a b : Nat) : Nat := gfMulBits 8 a b
/-- The power of an element. -/
def gfPow (a : Nat) : Nat → Nat
  | 0 => 1
  | n + 1 => gfMul a (gfPow a n)
/-- The inverse of an element that is not 0. -/
def gfInv (a : Nat) : Nat := gfPow a 254
/-- α^n. -/
def gfAlpha (n : Nat) : Nat := gfPow 2 (n % 255)

/-! ### The codeword of a line (R266)

Symbol i is the coefficient of x^(71 - i) of the code polynomial (log 74). -/

/-- The generator times (x + α^i), its coefficients from the highest down. -/
def timesRoot (g : List Nat) (i : Nat) : List Nat := List.zipWith (· ^^^ ·) (g ++ [0]) (0 :: g.map (gfMul (gfAlpha i)))
/-- R266: the generator, the product of (x - α^i) for i = 0 to 7. -/
def rsGenerator : List Nat := (List.range 8).foldl timesRoot [1]

/-- The remainder `r` after one more data byte. -/
def rsShift (g r : List Nat) (b : Nat) : List Nat :=
  let f := b ^^^ r.headD 0
  List.zipWith (· ^^^ ·) (r.drop 1 ++ [0]) ((g.drop 1).map (gfMul f))
/-- R266: the 8 check symbols of 64 data bytes. -/
def rsCheck (data : List Nat) : List Nat := data.foldl (rsShift rsGenerator) (List.replicate 8 0)
/-- R266: the codeword. -/
def rsEncode (data : List Nat) : List Nat := data ++ rsCheck data

/-- The value of a word's polynomial at `x`. -/
def polyAt (x : Nat) (w : List Nat) : Nat := w.foldl (fun a c => gfMul a x ^^^ c) 0
/-- R266: the eight syndromes. -/
def syndromes (w : List Nat) : List Nat := (List.range 8).map fun i => polyAt (gfAlpha i) w

/-- `x` and the rest of the list without the first row that starts with other than 0. -/
def takePivot : List (List Nat) → Option (List Nat × List (List Nat))
  | [] => none
  | r :: rs => if r.headD 0 ≠ 0 then some (r, rs) else (takePivot rs).map fun p => (p.1, r :: p.2)

/-- The solution of `n` equations over the field, each row its coefficients and then its value; none where they are singular. -/
def gfSolve : Nat → List (List Nat) → Option (List Nat)
  | 0, _ => some []
  | n + 1, rows =>
    match takePivot rows with
    | none => none
    | some (p, rest) =>
      let p := (p.drop 1).map (gfMul (gfInv (p.headD 0)))
      let rest := rest.map fun r => List.zipWith (fun a b => a ^^^ gfMul (r.headD 0) b) (r.drop 1) p
      (gfSolve n rest).map fun xs => ((p.zip xs).foldl (fun a x => a ^^^ gfMul x.1 x.2) (p.getLastD 0)) :: xs

/-- The positions of `n` erroneous symbols, from the syndromes. -/
def errorPlaces (s : List Nat) (n : Nat) : Option (List Nat) :=
  (gfSolve n ((List.range n).map fun j =>
      ((List.range n).map fun l => s.getD (j + n - 1 - l) 0) ++ [s.getD (j + n) 0])).bind fun c =>
    let ps := (List.range 72).filter fun p => polyAt (gfAlpha (255 - (71 - p))) (c.reverse ++ [1]) == 0
    if ps.length = n then some ps else none

/-- The word with `n` erroneous symbols corrected, where the syndromes then vanish. -/
def correctErrors (w : List Nat) (n : Nat) : Option (List Nat) :=
  let s := syndromes w
  (errorPlaces s n).bind fun ps =>
    (gfSolve n ((List.range n).map fun i => (ps.map fun p => gfAlpha (i * (71 - p))) ++ [s.getD i 0])).bind fun ys =>
      let c := (ps.zip ys).foldl (fun w x => w.set x.1 (w.getD x.1 0 ^^^ x.2)) w
      if syndromes c = List.replicate 8 0 then some c else none

/-- R266: what a read of the stored word delivers: the codeword within four symbols of it, or none. -/
def rsDecode (w : List Nat) : Option (List Nat) :=
  if syndromes w = List.replicate 8 0 then some w else [1, 2, 3, 4].findSome? (correctErrors w)

/-- The word with the symbols of `errors` changed by their patterns. -/
def withErrors (w : List Nat) (errors : List (Nat × BitVec 8)) : List Nat :=
  errors.foldl (fun w e => w.set e.1 (w.getD e.1 0 ^^^ e.2.toNat)) w

/-- R266: the one TSV group of 4 symbols in which all the errors lie. -/
def errorGroup (errors : List (Nat × BitVec 8)) : Option Nat :=
  match errors with
  | [] => none
  | e :: r => if r.all fun x => x.1 / 4 == e.1 / 4 then some (e.1 / 4) else none

/-! ### Words of a core (R267) -/

/-- What a read of a protected word tells. -/
inductive WordRead where
  | clean
  | corrected
  | double
  deriving DecidableEq, Repr

/-- R267: the bits of the errors, each of which changes its bit once: one is corrected, more are detected (log 74). -/
def secDed (errors : List (Nat × BitVec 8)) : WordRead :=
  let bits := ((errors.map (·.1)).filter (· < 72)).eraseDups.filter fun b => (errors.countP fun e => e.1 == b) % 2 == 1
  match bits.length with
  | 0 => .clean
  | 1 => .corrected
  | _ => .double

/-! ### Where a line lies (R260) -/

/-- R260: M x over GF(2), row i of the matrix giving bit i. -/
def matrixTimes (rows : List (BitVec 15)) (x : BitVec 15) : BitVec 15 :=
  (List.range 15).foldl (fun y i =>
    let r := rows.getD i 0 &&& x
    if ((List.range 15).countP fun j => r.getLsbD j) % 2 = 1 then y ||| BitVec.ofNat 15 (2 ^ i) else y) 0

/-- R260: y = M_v x XOR k_v; version 0 is the identity. -/
def hashLine (s : State) (version : Nat) (x : BitVec 15) : BitVec 15 :=
  match s.hashVersions.find? fun v => decide (v.version = version) with
  | some v => if version = 0 then x else matrixTimes v.rows x ^^^ v.const
  | none => x

/-- R260: a location within a stack's slot. -/
structure LinePlace where
  channel : Nat
  pseudo : Nat
  bankGroup : Nat
  bank : Nat
  line : Nat
  deriving DecidableEq, Repr

/-- R260: the fields of y. -/
def linePlace (y : BitVec 15) : LinePlace :=
  let f (lo n : Nat) : Nat := y.toNat / 2 ^ lo % 2 ^ n
  ⟨f 10 5, f 9 1, f 7 2, f 5 2, f 0 5⟩

end Sys2Proof.Machine
end

