-- ==== Sys2Proof/Machine/Parcels.lean ====
section
/-!
DEFINITION. Parcels: bays and PBAY (R237, R239), the delivery of a parcel, and PSEND (R238, R352).
-/
namespace Sys2Proof.Machine

/-- R119: TVAL of PARCEL. -/
def parcelTrap (reason : Nat) : Trap := ⟨.parcel, BitVec.ofNat 64 (reason * 256)⟩

/-! ### Bays (R237) -/

/-- R237: Z. -/
def Bay.slotBytes (b : Bay) : Nat := 64 * 2 ^ b.zc
/-- R237: the open bay of a number on a core. -/
def findBay (s : State) (core number : Nat) : Option Bay :=
  s.bays.find? fun b => decide (b.core = core) && decide (b.number = number)
/-- R237: the parameter word of PBAY. -/
def bayWordOk (w : Word) : Bool :=
  bits w 32 32 == 0 && bits w 12 4 == 0 && bits w 6 2 == 0 && decide (bits w 16 16 ≤ 16384) && decide (bits w 8 4 ≤ 6)
/-- R237: the offset of a bay of `n` bytes at `a` in the home core's scratchpad. -/
def bayOffset (s : State) (q : BitVec 3) (a : Word) (n : Nat) : Option Nat :=
  if tokenCovers (s.hart.token q) q a n && inWindow a then
    match windowPlace s s.hart.home a with
    | .core c off => if c = s.hart.home ∧ off + n ≤ 0xC00000 then some off else none
    | _ => none
  else none
/-- R237: another hart holds the bay. -/
def bayTaken (s : State) (core number : Nat) : Bool :=
  (findBay s core number).any fun b => (b.gang.toNat, b.member) != hartName s

/-- R237: PBAY. -/
def execPbay (q : BitVec 3) (b a : BitVec 5) (s : State) : Out :=
  let w := s.rs b
  let sa := s.rs a
  vectorRun { needsVl := false, whole := true, sr := [a.toNat, b.toNat] }
    (fun s => do
      cleanScalars s [b]
      demand (bayWordOk w) (parcelTrap 4))
    (fun _ s =>
      let slots := bits w 16 16
      let zc := bits w 8 4
      let number := bits w 0 6
      let core := s.hart.home
      atStart ((aligned sa 64 s).andThen fun _ s =>
        match bayOffset s q sa (64 + slots * (64 * 2 ^ zc)) with
        | none => .trap (parcelTrap 3) s
        | some off =>
          if bayTaken s core number then .trap (parcelTrap 4) s
          else (interlock s (.key (coreKey core off)) 16 true).andThen fun _ s =>
              let s := storeBytes s (coreKey core off) 16 0
              let rest := s.bays.filter fun x => !(decide (x.core = core) && decide (x.number = number))
              let bay : Bay := ⟨core, number, BitVec.ofNat 32 (hartName s).1, (hartName s).2, off, slots, zc⟩
              .ok { s with bays := if slots = 0 then rest else bay :: rest } s)) s

/-! ### Delivery (R237) -/

/-- Words with their poison written from key `k` upward. -/
def putWords (k : Nat) : List (Word × Bool) → State → State
  | [], s => s
  | (v, p) :: r, s =>
    let s := storeBytes s k 8 v.toNat
    putWords (k + 8) r (if p then poisonKey s k else s)

/-- R237: the key of the slot that a parcel of `n` words takes in the bay; none where it is dropped. -/
def parcelSlot (s : State) (b : Bay) (n : Nat) : Option Nat :=
  let k := coreKey b.core b.off
  let arrived := (loadWord s k).toNat
  if arrived < b.slots ∧ 8 * n ≤ b.slotBytes then some (k + 64 + arrived * b.slotBytes) else none

/-- R237: a parcel of `data` for a bay of a core: true when it takes a slot. -/
def deliverParcel (s : State) (core number : Nat) (data : List (Word × Bool)) : Bool × State :=
  match findBay s core number with
  | none => (false, s)
  | some b =>
    let k := coreKey b.core b.off
    match parcelSlot s b data.length with
    | some slot => (true, storeBytes (putWords slot data s) k 8 ((loadWord s k).toNat + 1))
    | none => (false, storeBytes s (k + 8) 8 ((loadWord s (k + 8)).toNat + 1))

/-- R238: the core and the bay of a destination word. -/
def destCore (w : Word) : Nat := bits w 12 3 * 64 + bits w 6 6
def destBay (w : Word) : Nat := bits w 0 6
/-- R238: a destination word with no reserved bit. -/
def destOk (w : Word) : Bool := bits w 29 35 == 0 && !bit w 15
/-- R238: the parcel stays in this module. -/
def destLocal (s : State) (w : Word) : Bool := bit w 28 || bits w 16 12 == bits s.ctl.node 0 12

/-! ### PSEND (R238) -/

/-- A parcel: its destination word and its source address. -/
structure Parcel where
  dest : Word
  src : Word
  deriving DecidableEq, Repr

/-- R238: the length in sd. -/
def parcelLengthOk (w : Word) : Bool :=
  bits w 13 51 == 0 && w.toNat != 0 && decide (w.toNat % 64 = 0) && decide (w.toNat ≤ 4096)

/-- The sites of `n` words from `a` that PSEND reads. -/
def parcelSites (core : Nat) (q : BitVec 3) (a : Word) : Nat → State → Res (List Site)
  | 0, s => .ok [] s
  | n + 1, s =>
    match tokenSite s core q a 8 false true with
    | .error t => .trap t s
    | .ok x => (parcelSites core q (a + 8) n s).andThen fun l s => .ok (x :: l) s

/-- R238: the checks of parcel `e`: its destination, its source address and the sites of its words. -/
def parcelCheck (q : BitVec 3) (len va vb e : Nat) (s : State) : Res (Parcel × List Site) :=
  (s.readElem vb (plain 8) e).andThen fun x s =>
    let src := BitVec.ofNat 64 x
    (aligned src 64 s).andThen fun _ s =>
      if tokenCovers (s.hart.token q) q src len then
        (parcelSites (s.coreOf 64 e) q src (len / 8) s).andThen fun sites s =>
          (s.readElem va (plain 8) e).andThen fun y s =>
            let dest := BitVec.ofNat 64 y
            if destOk dest then .ok (⟨dest, src⟩, sites) s else .trap (parcelTrap 2) s
      else .trap ⟨.noProbe, noProbeTval src q⟩ s

/-- R238: the parcels of the active elements, or the lowest failing one. -/
def parcelList (q : BitVec 3) (len km va vb : Nat) : Nat → Nat → State → List (Parcel × List Site) × LoopEnd
  | 0, _, s => ([], .done s)
  | n + 1, e, s =>
    match (s.readMask km e).andThen fun act s =>
        if act then (parcelCheck q len va vb e s).andThen fun p s => .ok [p] s else .ok [] s with
    | .ok l s => let (m, r) := parcelList q len km va vb n (e + 1) s; (l ++ m, r)
    | .trap t s => ([], .trap e t s)
    | .hold s => ([], .hold e s)

/-- R238: the words at the sites read with their poison. -/
def parcelWords : List Site → State → Res (List (Word × Bool))
  | [], s => .ok [] s
  | x :: r, s =>
    (interlock s x 8 false).andThen fun _ s =>
      (match x with
        | .key k => Res.ok (loadWord s k, poisoned s k 8) s
        | .remote pa => (remoteLoad s pa 8).andThen fun (v, p) s => .ok (BitVec.ofNat 64 v, p) s).andThen fun w s =>
        (parcelWords r s).andThen fun l s => .ok (w :: l) s

/-- R238: the data of every parcel read. -/
def parcelData : List (Parcel × List Site) → State → Res (List (Parcel × List (Word × Bool)))
  | [], s => .ok [] s
  | (p, x) :: r, s =>
    (parcelWords x s).andThen fun d s => (parcelData r s).andThen fun l s => .ok ((p, d) :: l) s

/-- R238: the open bay of this module that a parcel goes to. -/
def parcelBay (s : State) (p : Parcel) : Option Bay :=
  if destLocal s p.dest then findBay s (destCore p.dest) (destBay p.dest) else none

/-- R273: PSEND waits for what the hart has under way at the ARRIVED and DROPPED words of the bays it delivers to. -/
def settleBays : List (Parcel × List (Word × Bool)) → State → Res Unit
  | [], s => .ok () s
  | (p, _) :: r, s =>
    (match parcelBay s p with
      | some b => interlock s (.key (coreKey b.core b.off)) 16 true
      | none => .ok () s).andThen fun _ s => settleBays r s

/-- R273: the same at the slots its parcels take; `x` is the machine with the parcels before these delivered. -/
def settleSlots : List (Parcel × List (Word × Bool)) → State → State → Res Unit
  | [], _, s => .ok () s
  | (p, d) :: r, x, s =>
    match parcelBay s p with
    | some b =>
      (match parcelSlot x b d.length with
        | some k => interlock s (.key k) (8 * d.length) true
        | none => .ok () s).andThen fun _ s => settleSlots r (deliverParcel x b.core b.number d).2 s
    | none => settleSlots r x s

/-- R351: the connection is one a parcel can be sent on. -/
def connectionUsable (s : State) (node : Nat) : Bool :=
  (connection s (node - 0xC00)).any fun r => connectionValid r && node != 0xFFF

/-- R238, R352: one parcel sent or delivered; the counts so far in `t`. On a connection it leaves as one SEND of L + 8 bytes, its
destination word first. -/
def sendParcel (t : PsendState) (p : Parcel) (data : List (Word × Bool)) (s : State) : PsendState × State :=
  let node := bits p.dest 16 12
  let pa := 2 ^ 55 + node * 2 ^ 43
  if destLocal s p.dest then
    let (ok, s) := deliverParcel s (destCore p.dest) (destBay p.dest) data
    (if ok then { t with delivered := t.delivered + 1 } else { t with dropped := t.dropped + 1 }, s)
  else if 0xC00 ≤ node ∧ (!connectionUsable s node || data.any (·.2)) = true then
    ({ t with dropped := t.dropped + 1 }, s)
  else
    let send (len : Nat) (arg0 : Word) (data : List (Word × Bool)) : State :=
      sendRequest s 5 pa 0 len arg0 0 data (isleOf s.hart.home) (some (hartName s)) 0
    ({ t with pending := t.pending ++ [s.nextTag] },
      if 0xC00 ≤ node then send (8 * data.length + 8) 0 ((p.dest, false) :: data) else send (8 * data.length) p.dest data)

/-- R238: sd. -/
def parcelCounts (t : PsendState) : Word := BitVec.ofNat 64 (t.delivered + t.dropped * 2 ^ 32)

/-- R238: a parcel goes to a module the device cannot send to yet. -/
def parcelBlocked (s : State) (p : Parcel) : Bool :=
  !destLocal s p.dest && decide (bits p.dest 16 12 < 0xC00) && !canSend s

/-- The lines that came by RDMA READ for a PSEND whose source lies on a connection (R340) serve no other. -/
def dropConnectionLines (s : State) : State :=
  { s with rlb := s.rlb.filter fun l => !(l.isle == isleOf s.hart.home && isConnection (64 * l.line)) }

/-- R238: PSEND under way: it completes once nothing is pending. -/
def awaitParcels (t : PsendState) (s : State) : VRes :=
  if t.pending.isEmpty then .ok ((setHart s { s.hart with psend := none }).setRs t.rd (parcelCounts t))
  else .hold 0 (setHart s { s.hart with psend := some t })

/-- R238: PSEND. -/
def execPsend (q k : BitVec 3) (b a d : BitVec 5) (s : State) : Out :=
  let len := s.rs d
  let va := a.toNat
  let vb := b.toNat
  vectorRun { engine := true, whole := true, vr := [va, vb], kr := [k.toNat], sr := [d.toNat], sw := [d.toNat] }
    (fun s => do
      typed s [va, vb]
      cleanScalars s [d]
      demand (parcelLengthOk len) (parcelTrap 1)
      unscaled s [va, vb]
      demand (s.vtype va == 8 && s.vtype vb == 8) (mismatch [s.vtype va, s.vtype vb]))
    (fun _ s =>
      match s.hart.psend with
      | some t => awaitParcels t s
      | none =>
        match parcelList q len.toNat k.toNat va vb (s.nOf 64) 0 s with
        | (_, .trap e t s) => .trap e t s
        | (_, .hold _ s) => .hold 0 s
        | (ps, .done s) =>
          if ps.any fun p => parcelBlocked s p.1 then .hold 0 s
          else match (parcelData ps s).andThen fun l s =>
              (settleBays l s).andThen fun _ s => (settleSlots l s s).andThen fun _ s => .ok l s with
            | .trap t s => .trap 0 t s
            | .hold s => .hold 0 s
            | .ok l s =>
              let (t, s) := l.foldl (fun (t, s) p => sendParcel t p.1 p.2 s) (⟨[], 0, 0, d⟩, dropConnectionLines s)
              awaitParcels t s) s

end Sys2Proof.Machine
end

