-- ==== Sys2Proof/Machine/Context.lean ====
section
/-!
DEFINITION. Context frames: what a save writes (R330-R332) and what a restore reads back (R333, R334).
-/
namespace Sys2Proof.Machine

/-! ### Blocks of a frame -/

/-- The nonzero words of `v`, `n` words from key `k` upward, written. -/
def putNonzero (m : List Host.Cell) (k : Nat) : Nat → Nat → List Host.Cell
  | 0, _ => m
  | n + 1, v =>
    if v = 0 then m
    else putNonzero (if v % 2 ^ 64 = 0 then m else writeLE m k 8 (v % 2 ^ 64)) (k + 8) n (v / 2 ^ 64)

/-- A block of `n` bytes at key `k` written whole by the device. -/
def saveBlock (k n v : Nat) (s : State) : State :=
  let s := (List.range ((n + 32767) / 32768)).foldl (fun s i => promoteChunk s (k + 32768 * i)) s
  { s with
    mem := putNonzero (memClear s.mem k n) k (n / 8) v
    memPoison := s.memPoison.filter fun u => !(decide (k ≤ u) && decide (u + unitBytes u ≤ k + n)) }

/-- A block of `n` bytes at key `k` read. -/
def readBlock (m : List Host.Cell) (k n : Nat) : Nat :=
  (m.filter fun c => decide (k ≤ c.1) && decide (c.1 < k + n)).foldl (fun v c => v ||| c.2.toNat * 2 ^ (8 * (c.1 - k))) 0

/-- Words packed, the first in the low bits. -/
def packWords (l : List Word) : Nat := packFields 64 (l.map (·.toNat))

/-- The poison bits of the words from key `k`, `n` words, that lie in poisoned storage. -/
def blockPoison (s : State) (k n : Nat) : Nat :=
  if s.memPoison.isEmpty then 0
  else ((List.range n).filter fun i => poisoned s (k + 8 * i) 8).foldl (fun v i => v ||| 2 ^ i) 0

/-- `v` with its words of `w` bits cleared where `p` has a bit; the third argument counts the words. -/
def clearWords (w v p : Nat) : Nat → Nat
  | 0 => v
  | n + 1 =>
    let v := clearWords w v p n
    if p.testBit n then v - v / 2 ^ (w * n) % 2 ^ w * 2 ^ (w * n) else v

/-- The same, at once where no bit is set. -/
def dropPoisoned (w v p n : Nat) : Nat := if p = 0 then v else clearWords w v p n

/-! ### The layout of a frame (R330, R331) -/

/-- R330: the control registers in ascending number, and the watchdog count. -/
def frameCsrs (h : Hart) : List Word :=
  let c := h.csr
  [c.vl, c.vstart, c.vflags, c.vstat, c.vrm, c.retired, c.budget, c.zlist, c.wdlimit, c.key0, c.key1, c.key2, c.key3,
    c.counter, c.nonce, c.rngmode, c.tcause, c.tval, c.tpc, c.tvec, c.tscratch, c.priv, BitVec.ofNat 64 h.wdcount, 0]

/-- R330: the words of a token. -/
def frameToken (t : Token) : List Word :=
  [BitVec.ofNat 64 ((if t.live then 1 else 0) + (if t.w then 2 else 0)), t.base, t.len, 0]

/-- R330: the words of a stream (log 20). -/
def frameStream (h : Hart) (f : Option Stream) : List Word :=
  match f with
  | some x => [x.base, x.stride, x.avl, x.ctl, x.token.zeroExtend 64, x.position, BitVec.ofNat 64 (streamCounter h x), 0]
  | none => List.replicate 8 0

/-- R330: the words of a tile's state (log 20). -/
def frameTile (t : Tile) : List Word :=
  let kind := match t.kind with | .none => 0 | .fp => 1 | .int => 2
  let c := t.cfg
  let flags := (if t.ranked then 1 else 0) + kind * 2 + (if t.ovf then 8 else 0) + (if c.isSome then 16 else 0) +
    ((c.map (·.token.toNat)).getD 0) * 32
  [BitVec.ofNat 64 flags, (c.map (·.word)).getD 0, (c.map (·.saddr)).getD 0, 0, 0, 0, 0, 0]

/-- R330: the headers of a tile's lists, in the form of R183 (log 20). -/
def frameLists (t : Tile) : List Word :=
  match t.cfg with
  | some c => (List.range t.lists.length).flatMap fun l => ((storedList c (t.list c l)).take 4).map (BitVec.ofNat 64)
  | none => []

/-- R330: the poison map. -/
def framePoison (h : Hart) : Nat :=
  let ks := (List.range 7).map fun i => (h.k[(i + 1) % 8]'(Nat.mod_lt _ (by decide))).poison.toNat
  let vs := h.v.toList.map fun x => x.poison.toNat
  let zs := h.z.toList.map fun x => x.poison.toNat
  packFields 2048 ks + 2 ^ 14336 * (packFields 8192 vs + 2 ^ 262144 * packFields 16384 zs)

/-- R331: STATE. -/
def frameState (h : Hart) : Nat :=
  match h.st with
  | .wait => 1
  | .swapped => 2
  | .trapped => 3
  | _ => 0

/-- R332, step 2: every region of a member's frame at key `k`. -/
def saveRegions (h : Hart) (k : Nat) (s : State) : State :=
  let valid := ((List.range 16).filter fun i => (h.h[i % 16]'(Nat.mod_lt _ (by decide))).isSome).foldl (fun a i => a + 2 ^ i) 0
  let conf := ((List.range 8).filter fun i => (h.f[i % 8]'(Nat.mod_lt _ (by decide))).isSome).foldl (fun a i => a + 2 ^ i) 0
  let s := saveBlock (k + 0x40) 192 (packWords (frameCsrs h)) s
  let s := saveBlock (k + 0x100) 256 (packWords (0 :: h.s.toList.drop 1)) s
  let s := saveBlock (k + 0x200) 128 (packFields 32 (h.v.toList.map (·.tag.toNat))) s
  let s := saveBlock (k + 0x280) 224 (packWords ((h.q.toList.drop 1).flatMap frameToken)) s
  let s := saveBlock (k + 0x380) 64 (valid + conf * 2 ^ 16) s
  let s := saveBlock (k + 0x400) 1024 (packFields 512 (h.h.toList.map fun r => (r.getD 0).toNat)) s
  let s := saveBlock (k + 0x800) 512 (packWords (h.f.toList.flatMap (frameStream h))) s
  let s := saveBlock (k + 0xA00) 512 (packWords (h.z.toList.flatMap frameTile)) s
  let s := h.z.toList.zipIdx.foldl (fun s t => saveBlock (k + 0x1000 + 4096 * t.2) 4096 (packWords (frameLists t.1)) s) s
  let s := (h.k.toList.zipIdx.drop 1).foldl (fun s m =>
    saveBlock (k + 0x10000 + 16384 * (m.2 - 1)) 16384 (dropPoisoned 64 m.1.bits.toNat m.1.poison.toNat 2048) s) s
  let s := saveBlock (k + 0x30000) 65536 (framePoison h) s
  let s := h.z.toList.zipIdx.foldl (fun s t =>
    saveBlock (k + 0x240000 + 163840 * t.2) 163840 (dropPoisoned 80 t.1.elems.toNat t.1.poison.toNat 16384) s) s
  h.v.toList.zipIdx.foldl (fun s x =>
    if bit h.csr.vdirty x.2 then
      saveBlock (k + 0x40000 + 65536 * x.2) 65536 (dropPoisoned 64 x.1.data.toNat x.1.poison.toNat 8192) s
    else s) s

/-- R331, R332: the header, VALID gaining VDIRTY, and DONE last. -/
def saveHeader (h : Hart) (k : Nat) (s : State) : State :=
  let valid := bits (loadWord s k) 0 32 ||| bits h.csr.vdirty 0 32
  let w0 := 2 ^ 56 + h.csr.span.toNat % 16 * 2 ^ 48 + bits h.csr.footprint 0 6 * 2 ^ 42 +
    bits h.csr.footprint 8 4 * 2 ^ 32 + valid
  saveBlock k 64 (packWords [BitVec.ofNat 64 w0, h.pc &&& ~~~3,
    BitVec.ofNat 64 (h.mqSeq.toNat * 2 ^ 8 + frameState h), h.csr.vdirty, 0, 0, 0, 1]) s

/-- R332: the hart's context saved in the frame at key `k`. -/
def saveContext (h : Hart) (k : Nat) (s : State) : State :=
  saveHeader h k (saveRegions h k (storeBytes s (k + 56) 8 0))

/-! ### Restoring (R333) -/

/-- R333: a frame that may be restored. -/
def frameReady (s : State) (k : Nat) : Bool := bit (loadWord s (k + 56)) 0 && bits (loadWord s k) 56 8 == 1

/-- Word `i` of a block at `k`. -/
def frameWord (s : State) (k i : Nat) : Word := loadWord s (k + 8 * i)

/-- R42: a PRIV as a hart may hold it: code 3, which it never holds, gives user mode (log 67). -/
def legalPriv (w : Word) : Word :=
  let code (v : Nat) : Nat := if v = 3 then 0 else v
  privWord (code (bits w 0 2)) (code (bits w 2 2)) (bit w 4)

/-- R330: the control registers as the frame holds them; those a placement gives stay, and so does a VSTAT.BAYC set since
the save (R239). Reserved bits, which read zero, and values a register never holds come from software that wrote the frame:
they are not restored (R12, R38-R42, log 67). -/
def restoredCsrs (s : State) (k : Nat) (c : Csrs) (hartid footprint : Word) : Csrs :=
  let w (i : Nat) : Word := frameWord s (k + 0x40) i
  { c with
    vl := BitVec.ofNat 64 (min (w 0).toNat (c.vlmaxc.toNat / 4)), vstart := w 1, vflags := w 2 &&& 0x1F
    vstat := (w 3 &&& 0x11F) ||| (c.vstat &&& 0x10), vrm := if bits (w 4) 0 3 ≤ 4 then w 4 &&& 7 else 0, retired := w 5
    budget := w 6 &&& 0xFFFFFFFF, zlist := w 7 &&& 0x7F, wdlimit := w 8 &&& 0xFFFFFFFFFFFF, key0 := w 9, key1 := w 10, key2 := w 11
    key3 := w 12, counter := w 13, nonce := w 14, rngmode := w 15 &&& 1, tcause := w 16 &&& 0xFF, tval := w 17
    tpc := w 18 &&& ~~~3, tvec := w 19 &&& ~~~3, tscratch := w 20, priv := legalPriv (w 21)
    vdirty := 0, hartid := hartid, footprint := footprint }

/-- R330: a token; its pins stayed in the package pin table (R213). -/
def restoredToken (s : State) (k : Nat) (old : Token) : Token :=
  let w := frameWord s k 0
  ⟨bit w 0, bit w 1, frameWord s k 1, frameWord s k 2, old.pins⟩

/-- R222, R330: a handle record; its reserved bits, and the bits of BASE that are zero, are not restored (log 67). -/
def restoredRecord (s : State) (k : Nat) : Handle :=
  BitVec.ofNat 512 (readBlock s.mem k 64) &&&
    0x00000000FFFFFFFFFFFFFFFFFFFFFFFFFFFFFFFFFFFFFFFFFFFFFFFFFFFFFFFFFFFFFFFFFFFFFFFFFFFFE000FFFFC71FFFFFFFFFFFFFFFFF000FFFFFFFFFFFFF

/-- R230, R330: a stream; a read stream fetches again from its position. -/
def restoredStream (s : State) (k : Nat) : Stream :=
  { base := frameWord s k 0, stride := frameWord s k 1, avl := frameWord s k 2, ctl := frameWord s k 3 &&& 0x1FC7
    token := BitVec.ofNat 3 (frameWord s k 4).toNat, position := frameWord s k 5, buf := [], moved := frameWord s k 5 }

/-- R330: a tile: its state at `k`, its list headers at `kl`, its elements at `ke`, and its poison bits. -/
def restoredTile (s : State) (k kl ke p : Nat) (old : Tile) : Tile :=
  let w := frameWord s k 0
  let cfg : RankedConfig :=
    ⟨frameWord s k 1, frameWord s k 2, BitVec.ofNat 3 (bits w 5 3), (old.cfg.map (·.site)).getD (.key 0)⟩
  let ranked := bit w 0
  { ranked := ranked
    kind := match bits w 1 2 with | 1 => .fp | 2 => .int | _ => .none
    ovf := bit w 3
    elems := BitVec.ofNat 1310720 (readBlock s.mem ke 163840)
    poison := BitVec.ofNat 16384 p
    cfg := if bit w 4 then some cfg else none
    lists := if bit w 4 then (List.range cfg.lists).map fun l =>
        let h (i : Nat) : Word := frameWord s (kl + 32 * l) i
        ⟨bits (h 0) 0 11, BitVec.ofNat 80 ((h 1).toNat + bits (h 2) 0 16 * 2 ^ 64), bit (h 0) 31⟩
      else [] }

/-- R333: a vector register: its tag under R36, its data where VALID, its poison. -/
def restoredVector (s : State) (k p i foot : Nat) : VReg :=
  let tag := BitVec.ofNat 32 (readLE s.mem (k + 0x200 + 4 * i) 4)
  let tag := if tagOk tag i foot then tag else 0
  if bit (loadWord s k) i then
    ⟨tag, BitVec.ofNat 524288 (readBlock s.mem (k + 0x40000 + 65536 * i) 65536),
      BitVec.ofNat 8192 (p ||| blockPoison s (k + 0x40000 + 65536 * i) 8192)⟩
  else ⟨tag, 0, BitVec.ofNat 8192 p⟩

/-- R333: a mask. -/
def restoredMask (s : State) (k p i : Nat) : MaskReg :=
  let a := k + 0x10000 + 16384 * (i - 1)
  if i = 0 then .zero else ⟨BitVec.ofNat 131072 (readBlock s.mem a 16384), BitVec.ofNat 2048 (p ||| blockPoison s a 2048)⟩

/-- R26: the state a member returns to. -/
def restoredState (code : Nat) : HartState :=
  match code with
  | 1 => .wait
  | 2 => .swapped
  | 3 => .trapped
  | _ => .ready

/-- R333: the member `h` as the frame at key `k` holds it, on its new cores. Its scalar poison, for which a frame has no
place, its pins and what it waits for were kept (log 20). VREGS and TILES are those of the header as it stands (log 67). -/
def restoredHart (s : State) (k : Nat) (h : Hart) (cores : List Nat) (slot : Nat) : Hart :=
  let home := cores.headD 0
  let head := loadWord s k
  let foot := bits head 42 6
  let map := readBlock s.mem (k + 0x30000) 65536
  let field (lo n : Nat) : Nat := map / 2 ^ lo % 2 ^ n
  let maps := bits (frameWord s (k + 0x380) 0) 0 24
  { h with
    pc := frameWord s k 1 &&& ~~~3
    s := Vector.ofFn fun i => if i.val = 0 then 0 else frameWord s (k + 0x100) i.val
    sPoison := h.sPoison ||| BitVec.ofNat 32 (blockPoison s (k + 0x100) 32 / 2 * 2)
    v := Vector.ofFn fun i => restoredVector s k (field (14336 + 8192 * i.val) 8192) i.val foot
    k := Vector.ofFn fun i => restoredMask s k (field (2048 * (i.val - 1)) 2048) i.val
    z := Vector.ofFn fun i => restoredTile s (k + 0xA00 + 64 * i.val) (k + 0x1000 + 4096 * i.val)
      (k + 0x240000 + 163840 * i.val) (field (276480 + 16384 * i.val) 16384) h.z[i]
    q := Vector.ofFn fun i => if i.val = 0 then .window else restoredToken s (k + 0x280 + 32 * (i.val - 1)) h.q[i]
    h := Vector.ofFn fun i =>
      if maps.testBit i.val then some (restoredRecord s (k + 0x400 + 64 * i.val)) else none
    f := Vector.ofFn fun i =>
      if maps.testBit (16 + i.val) then some (restoredStream s (k + 0x800 + 64 * i.val)) else none
    csr := restoredCsrs s k h.csr (BitVec.ofNat 64 (home * 4 + slot)) (footprintWord (slotCap s home slot) (bits head 32 4) foot)
    st := restoredState (bits (frameWord s k 2) 0 2)
    cores := cores
    slot := slot
    convoy := .none
    wdcount := bits (frameWord s (k + 0x40) 22) 0 64
    age := 0
    mq := []
    mqSeq := BitVec.ofNat 56 (bits (frameWord s k 2) 8 56)
    held := false
    expired := false }

/-- R181: the shared words of ranked tiles, found again through the tokens of the hart under the cursor. -/
def refreshSites (s : State) : State :=
  let find (c : RankedConfig) : RankedConfig :=
    if c.sh then
      match tokenSite s s.hart.home c.token c.saddr 8 false false with
      | .ok x => { c with site := x }
      | .error _ => c
    else c
  setHart s { s.hart with z := s.hart.z.map fun t => { t with cfg := t.cfg.map find } }

end Sys2Proof.Machine
end

