-- ==== Sys2Proof/Machine/Random.lean ====
section
/-!
DEFINITION. The ChaCha20 block function that R161 and R361 name, in its original arrangement of a 64-bit counter and a 64-bit
nonce. The quarter round and the constant are ChaCha20's own (log 14).
-/
namespace Sys2Proof.Machine

/-- The 16 words of the state. -/
abbrev ChaCha := Vector (BitVec 32) 16

/-- One quarter round on words i, j, k, l. -/
def quarterRound (x : ChaCha) (i j k l : Fin 16) : ChaCha :=
  let a := x[i] + x[j]
  let d := (x[l] ^^^ a).rotateLeft 16
  let c := x[k] + d
  let b := (x[j] ^^^ c).rotateLeft 12
  let a := a + b
  let d := (d ^^^ a).rotateLeft 8
  let c := c + d
  let b := (b ^^^ c).rotateLeft 7
  (((x.set i a).set j b).set k c).set l d

/-- A column round and a diagonal round. -/
def doubleRound (x : ChaCha) : ChaCha :=
  let x := quarterRound x 0 4 8 12
  let x := quarterRound x 1 5 9 13
  let x := quarterRound x 2 6 10 14
  let x := quarterRound x 3 7 11 15
  let x := quarterRound x 0 5 10 15
  let x := quarterRound x 1 6 11 12
  let x := quarterRound x 2 7 8 13
  quarterRound x 3 4 9 14

/-- `n` double rounds. -/
def rounds : Nat → ChaCha → ChaCha
  | 0, x => x
  | n + 1, x => rounds n (doubleRound x)

/-- R161: the initial state: "expand 32-byte k", key words 0-3, counter and nonce, each split low half first. -/
def chachaState (k0 k1 k2 k3 counter nonce : Word) : ChaCha :=
  let lo (w : Word) := w.extractLsb' 0 32
  let hi (w : Word) := w.extractLsb' 32 32
  #v[0x61707865, 0x3320646E, 0x79622D32, 0x6B206574, lo k0, hi k0, lo k1, hi k1, lo k2, hi k2, lo k3, hi k3,
    lo counter, hi counter, lo nonce, hi nonce]

/-- R161: one block of keystream, 512 bits, as a little-endian number. -/
def chachaBlock (k0 k1 k2 k3 counter nonce : Word) : Nat :=
  let x := chachaState k0 k1 k2 k3 counter nonce
  let y := rounds 10 x
  ((y.zipWith (· + ·) x).toList.foldr (fun w acc => w.toNat + 2 ^ 32 * acc) 0)

/-- R161: `n` blocks of keystream from the counter on. -/
def keystream (k0 k1 k2 k3 counter nonce : Word) : Nat → Nat
  | 0 => 0
  | n + 1 => chachaBlock k0 k1 k2 k3 counter nonce + 2 ^ 512 * keystream k0 k1 k2 k3 (counter + 1) nonce n

end Sys2Proof.Machine
end

