-- ==== Sys2Proof/Machine/Placement.lean ====
section
/-!
DEFINITION. The placement engines: where a gang may be placed (R304, R239, R303), what a placement does (R306, R243, R124,
R397), restores (R333), the choice of victims (R313, R314), and the events of the queue.
-/
namespace Sys2Proof.Machine

/-! ### Free slots (R304) -/

/-- R357: slots that no user gang takes. -/
def slotReserved (core slot : Nat) : Bool := slot == 3 && (core % 64 == 0 || core == 1)
/-- R359: MODE.PLC and PLX exclude the core. -/
def coreExcluded (s : State) (core : Nat) : Bool :=
  bit s.ctl.mode 4 && bit (s.ctl.plx[core / 64 % 8]'(Nat.mod_lt _ (by decide))) (core % 64)
/-- A hart holds the slot. -/
def slotTaken (s : State) (core slot : Nat) : Bool := s.harts.any fun h => h.slot == slot && decide (core ∈ h.cores)
/-- R304, R49: the tiles of the harts whose home the core is. -/
def tilesUsed (s : State) (core : Nat) : Nat :=
  (s.harts.filter fun h => !h.cores.isEmpty && h.home == core).foldl (fun n h => n + bits h.csr.footprint 8 4) 0

/-- What a placement needs: SPAN, FOOT, TILES, the address space, ISLES, and what is held from it (R303): core, slot, tiles. -/
structure Needs where
  span : Nat
  foot : Nat
  tiles : Nat
  asid : BitVec 12
  isles : Nat
  withheld : List (Nat × Nat × Nat)
  deriving DecidableEq, Repr

/-- R303: the tiles of a core that are held for the entry. -/
def tilesHeld (x : Gang) (core : Nat) : Nat := (x.slotsHeld.filter fun w => w.1 == core).foldl (fun n w => n + w.2.2) 0

/-- R303: what reserving entries that stand before the gang hold: slots, and the tiles of each core beside number 4, which is no
slot. What is held for two of them counts once. -/
def withheldFrom (s : State) (g : Gang) : List (Nat × Nat × Nat) :=
  let xs := s.gangs.filter fun x => x.reserving && x.gid != g.gid && standsBefore x g
  let held := xs.flatMap (·.slotsHeld)
  held.map (fun w => (w.1, w.2.1, 0)) ++
    (held.map (·.1)).eraseDups.map fun c => (c, 4, xs.foldl (fun n x => max n (tilesHeld x c)) 0)
/-- The needs of a gang. -/
def gangNeeds (s : State) (g : Gang) : Needs := ⟨g.span, g.foot, g.tiles, g.asid, g.islesMask, withheldFrom s g⟩

/-- R239: the address space of the owner of an open bay, a gang's member or a hart of no gang. -/
def bayAsid (s : State) (b : Bay) : Option (BitVec 12) :=
  if b.gang = 0 then (findHart s 0 b.member).map (·.asid) else (findGang s b.gang.toNat).map (·.asid)

/-- R304, R239, R243: a member may occupy a slot of the core, as far as the core goes. -/
def coreServes (s : State) (x : Needs) (core : Nat) : Bool :=
  decide (core < 512) && x.isles.testBit (core / 64) && decide (core ∉ s.retiredCores) && !coreExcluded s core &&
  (s.harts.all fun h => !(h.resident && decide (core ∈ h.cores) && h.csr.gangid != 0 && h.asid != x.asid)) &&
  (s.bays.all fun b => b.core != core || (bayAsid s b).all fun a => a == x.asid)
/-- R304: the slot is free for a member. -/
def slotServes (s : State) (x : Needs) (core slot : Nat) : Bool :=
  decide (slot < 4) && !slotReserved core slot && !slotTaken s core slot && decide (x.foot ≤ slotCap s core slot) &&
  !x.withheld.any (fun w => w.1 == core && w.2.1 == slot)
/-- R304: the tiles free on a core. -/
def tilesFree (s : State) (x : Needs) (core : Nat) : Nat :=
  8 - tilesUsed s core - (x.withheld.filter fun w => w.1 == core).foldl (fun n w => n + w.2.2) 0

/-- R304: the places are legal together, member by member, each with its needs. -/
def placesLegal (s : State) (l : List (Place × Needs)) : Bool :=
  l.all (fun (p, x) => p.cores.length == x.span && p.cores.eraseDups.length == p.cores.length &&
    p.cores.all fun c => coreServes s x c && slotServes s x c p.slot) &&
  (let taken := l.flatMap fun (p, _) => p.cores.map fun c => (c, p.slot)
   taken.eraseDups.length == taken.length) &&
  l.all fun (p, x) =>
    let home := p.cores.headD 0
    let same := l.filter fun (p', _) => p'.cores.headD 0 == home
    decide (same.foldl (fun n (_, y) => n + y.tiles) 0 ≤ tilesFree s x home) || x.tiles == 0

/-! ### Whether a placement exists (R304, R313) -/

/-- The subsets of the four slot numbers. -/
def slotSets : List (List Nat) := (List.range 16).map fun m => (List.range 4).filter fun n => m.testBit n

/-- The cores on which slot number `n` is free for a member. -/
def coresWith (s : State) (x : Needs) (n : Nat) : List Nat :=
  (List.range 512).filter fun c => coreServes s x c && slotServes s x c n

/-- How many members a core can be the home of, by its tiles. -/
def homesOf (s : State) (x : Needs) (core : Nat) : Nat := if x.tiles = 0 then 4 else tilesFree s x core / x.tiles

/-- R304: the most members of equal needs that can be placed beside the members already bound to a slot number and a home core.
A member takes SPAN cores of its slot number, one of them its home, where its tiles must fit: a flow from slot numbers to home
cores, whose greatest value is the least cut. For every set `t` of slot numbers the cut counts the members that the cores of the
numbers in `t` can hold, and the homes that the other numbers find. -/
def mostMembers (s : State) (x : Needs) (bound : List (Nat × Nat)) : Nat :=
  let free := (List.range 4).map (coresWith s x)
  let cores := (List.range 512).filter fun c => free.any fun l => decide (c ∈ l)
  let held (i : Nat) : Nat := bound.countP fun b => b.1 == i
  let homes (c : Nat) : Nat := homesOf s x c - if x.tiles = 0 then 0 else bound.countP fun b => b.2 == c
  let cut (t : List Nat) : Nat :=
    (t.foldl (fun n i => n + ((free.getD i []).length / x.span - held i)) 0) +
      cores.foldl (fun n c =>
        n + min (homes c) (((List.range 4).filter fun i =>
          decide (i ∉ t) && decide (c ∈ free.getD i []) && !bound.contains (i, c)).length)) 0
  (slotSets.map cut).foldl min (cut [])

/-- R239: the core on which a member of the gang holds an open bay. -/
def bayCore (s : State) (g m : Nat) : Option Nat :=
  (s.bays.find? fun b => b.gang.toNat == g && b.member == m).map (·.core)

/-- R304, R239: members bound to home cores find a slot number each, and then `n` others find places anywhere. -/
def canPlace (s : State) (x : Needs) (n : Nat) : List (Nat × Nat) → List Nat → Bool
  | bound, [] => decide (n ≤ mostMembers s x bound)
  | bound, home :: r =>
    (List.range 4).any fun slot =>
      let cores := coresWith s x slot
      decide (home ∈ cores) && !bound.contains (slot, home) &&
        decide ((bound.countP fun b => b.1 == slot) < cores.length / x.span) &&
        (x.tiles == 0 || decide (bound.countP (fun b => b.2 == home) < homesOf s x home)) &&
        canPlace s x n ((slot, home) :: bound) r

/-- The members of an entry that a placement places: all, or those that were saved. -/
def entryMembers (s : State) (g : Gang) : List Nat :=
  if g.status = .preempted then (List.range g.gsize).filter fun m => m ∉ g.gone && (findHart s g.gid.toNat m).isSome
  else List.range g.gsize

/-- R304: the entry can be placed. -/
def placeable (s : State) (g : Gang) : Bool :=
  let ms := entryMembers s g
  let homes := if g.status = .preempted then ms.filterMap (bayCore s g.gid.toNat) else []
  canPlace s (gangNeeds s g) (ms.length - homes.length) [] homes

/-! ### The placement chosen (R303, R305) -/

/-- R303: no entry that stands before the gang can be placed now: it is passed over only then. An entry whose replayed key is not
to be read yet (R397) is passed over too. -/
def queueTurn (s : State) (g : Gang) : Bool :=
  s.gangs.all fun x => !(x.eligibleEntry && x.gid != g.gid && standsBefore x g && decide (x.keyRetryAt ≤ s.clk) && placeable s x)

/-- The Gallery of a core. -/
def galleryOf (core : Nat) : Nat := core / 8

/-- R305: a core with a repair on record (R365). -/
def coreRepaired (s : State) (core : Nat) : Bool :=
  decide (core ∈ s.lanesUsed) || s.slotCaps.any (fun c => c.1 == core) ||
    s.sparesUsed.any fun x => bits x 56 8 == 1 && bits x 32 9 == core

/-- R305: what a placement costs, the weightier first: for its members together, 0 for the cores of one Gallery or else the
number of Isles; the Galleries and then the Isles of the home cores; the slots on repaired cores; and, member by member, the
core numbers and the slot number (log 73). -/
def placeCost (s : State) (l : List Place) : List Nat :=
  let spread (p : Place) : Nat :=
    if (p.cores.map galleryOf).eraseDups.length ≤ 1 then 0 else (p.cores.map isleOf).eraseDups.length
  let homes := l.map fun p => p.cores.headD 0
  [l.foldl (fun n p => n + spread p) 0, (homes.map galleryOf).eraseDups.length, (homes.map isleOf).eraseDups.length,
    (l.flatMap (·.cores)).countP (coreRepaired s)] ++ l.flatMap fun p => p.cores ++ [p.slot]

/-- The first list is less, in the order of its first difference. -/
def listLess : List Nat → List Nat → Bool
  | [], [] => false
  | [], _ :: _ => true
  | _ :: _, [] => false
  | x :: xs, y :: ys => decide (x < y) || (x == y && listLess xs ys)

/-- Some `n` elements of the list, in its order, satisfy `f`. -/
def anyOf (f : List Nat → Bool) : Nat → List Nat → List Nat → Bool
  | 0, _, acc => f acc.reverse
  | _ + 1, [], _ => false
  | n + 1, x :: r, acc => anyOf f n r (x :: acc) || anyOf f (n + 1) r acc

/-- Some placement of the members, each with the span that the second entry names, satisfies `f`. -/
def anyPlacement (f : List Place → Bool) : List (Nat × Nat) → List Place → Bool
  | [], acc => f acc.reverse
  | (m, span) :: r, acc =>
    (List.range 512).any fun home => (List.range 4).any fun slot =>
      anyOf (fun others => anyPlacement f r (⟨m, home :: others, slot⟩ :: acc)) (span - 1)
        ((List.range 512).filter (· != home)) []

/-- R239: the places of members that hold an open bay. -/
def baysKept (s : State) (gid : Nat) (places : List Place) : Bool :=
  places.all fun p => (bayCore s gid p.member).all fun c => p.cores.headD 0 == c

/-- R304, R239: the places are legal for the members of the gang, each with its needs. -/
def placesServe (s : State) (gid : Nat) (needs : Nat → Needs) (restore : Bool) (l : List Place) : Bool :=
  placesLegal s (l.map fun p => (p, needs p.member)) && (!restore || baysKept s gid l)

/-- R303-R305: the placement engines choose these places for the gang: it is its turn, the places are legal, and no legal ones
are preferred to them. -/
def placesChosen (s : State) (g : Gang) (needs : Nat → Needs) (restore : Bool) (l : List Place) : Bool :=
  queueTurn s g && placesServe s g.gid.toNat needs restore l &&
  !anyPlacement (fun x => listLess (placeCost s x) (placeCost s l) && placesServe s g.gid.toNat needs restore x)
    (l.map fun p => (p.member, (needs p.member).span)) []

/-! ### Preparing cores (R243, R244) -/

/-- R243: scratchpad, lane memories and scalar data memory of a core zeroed, their poison cleared, the mailbox spared. -/
def zeroCore (s : State) (core : Nat) : State :=
  let base := coreKey core 0
  let top := if core % 64 = 0 then base + mailboxOff else base + 2 ^ 26
  { s with
    mem := memClear s.mem base (top - base)
    memPoison := s.memPoison.filter fun u => !(decide (base ≤ u) && decide (u < top)) }

/-- R243, R244: a core prepared for a gang of the address space. -/
def prepareCore (asid : BitVec 12) (s : State) (core : Nat) : State :=
  let s := flushL1d s core
  let s := { s with icache := s.icache.filter fun w => w.core != core }
  match s.resident.find? fun r => r.1 == core with
  | some (_, a) =>
    if a = asid then s
    else
      let s := zeroCore { s with stc := s.stc.filter fun e => e.core != core } core
      { s with resident := (core, asid) :: s.resident.filter fun r => r.1 != core }
  | none => { s with resident := (core, asid) :: s.resident }

/-! ### The gang key (R124, R361, R397) -/

/-- R124, R361: a fresh key: of the host's seed, or of the entropy source. -/
def freshKey (s : State) (g : Gang) : BitVec 256 × State :=
  if bit s.ctl.mode 5 && bit s.ctl.seedv 0 then
    let seed := s.ctl.seed
    (BitVec.ofNat 256 (chachaBlock seed[0] seed[1] seed[2] seed[3] (g.gid.zeroExtend 64) 0), s)
  else (Config.entropy s.freeCtr, { s with freeCtr := s.freeCtr + 1 })

/-- R124, R397: the fresh key written at CADDR + 32 by the device, for a gang whose home is set; where it cannot be written, or
the write in another module fails, kind 0x0F with INFO = 0. -/
def writeKey (s : State) (g : Gang) (key : BitVec 256) : State :=
  let core := g.home.getD 0
  if g.caddr = 0 then s
  else match deviceSite s core g.asid true .store (g.caddr + 32) 32 with
    | some (.key k, s) => storeBytes (promoteChunk s k) k 32 key.toNat
    | some (.remote pa, s) =>
      if canSend s then
        sendReporting (rlbDrop s (isleOf core) pa) 1 pa 0 32 0 0
          ((List.range 4).map fun i => (key.extractLsb' (64 * i) 64, false)) (isleOf core) none 0
          (some (gangRecord g 0x0F g.caddr 0))
      else postGangNote s g 0x0F g.caddr 0 false
    | none => postGangNote s g 0x0F g.caddr 0 false

/-- R124, R397: the replayed key read at CADDR + 32; one of another module cannot be read before NODE is written. -/
def readKey (s : State) (core : Nat) (g : Gang) : Res (Option (BitVec 256)) :=
  match deviceSite s core g.asid true .load (g.caddr + 32) 32 with
  | some (.key k, s) => if poisoned s k 32 then .ok none s else .ok (some (BitVec.ofNat 256 (readLE s.mem k 32))) s
  | some (.remote pa, s) =>
    if canSend s then
      (engineRemoteLoad s (isleOf core) pa 32 none).andThen fun (v, p) s => .ok (if p then none else some (BitVec.ofNat 256 v)) s
    else .ok none s
  | none => .ok none s

/-- R124: the key of a placement on core `core`; none where a replayed key cannot be read. -/
def formKey (s : State) (core : Nat) (g : Gang) : Res (Option (BitVec 256)) :=
  if g.rngm then readKey s core g
  else
    let (k, s) := freshKey s g
    .ok (some k) (writeKey s { g with home := some core } k)

/-! ### Placing a gang (R306, R44, R308) -/

/-- R44, R38: member `p.member` of the gang READY in its place. -/
def placedHart (s : State) (g : Gang) (key : BitVec 256) (level : Nat) (p : Place) : Hart :=
  let w (i : Nat) : Word := key.extractLsb' (64 * i) 64
  let m := BitVec.ofNat 64 p.member
  let home := p.cores.headD 0
  let h := startedHart s p.cores p.slot g.asid g.entry
    { Csrs.start with
      gangid := g.gid.zeroExtend 64, gangsize := BitVec.ofNat 64 g.gsize, member := m
      wdlimit := BitVec.ofNat 64 g.wdlim, key0 := w 0, key1 := w 1, key2 := w 2, key3 := w 3 ^^^ m, counter := 0
      nonce := g.seq, rngmode := if g.rngm then 1 else 0, tvec := trapVector s (isleOf home) g.asid } g.tiles g.foot
  { h with
    csr := { h.csr with budget := budgetOf h level }
    s := ((h.s.set 4 g.arg).set 5 m).set 6 (BitVec.ofNat 64 g.gsize) }

/-- The held slots and tiles with no more tiles on a core than `room` has there. -/
def heldWithin (room : Nat → Nat) : List (Nat × Nat × Nat) → List (Nat × Nat × Nat)
  | [] => []
  | w :: r =>
    let n := min w.2.2 (room w.1)
    (w.1, w.2.1, n) :: heldWithin (fun c => if c = w.1 then room c - n else room c) r

/-- R303: what a placement has taken is no longer held for a reserving entry: its slots, and of the tiles of a core those that are
not free any more. The rest stays held; tiles whose slot is taken stand beside number 4. -/
def takeHeld (s : State) (places : List Place) : State :=
  let taken (w : Nat × Nat × Nat) : Bool := places.any fun p => p.slot == w.2.1 && decide (w.1 ∈ p.cores)
  let left (l : List (Nat × Nat × Nat)) : List (Nat × Nat × Nat) :=
    heldWithin (fun c => 8 - tilesUsed s c) (l.map fun w => if taken w then (w.1, 4, w.2.2) else w)
  { s with gangs := s.gangs.map fun g => { g with slotsHeld := left g.slotsHeld } }

/-- R306, R397: the gang placed, or not where its key cannot be read, of which kind 0x0F tells. -/
def placeMembers (s : State) (g : Gang) (places : List Place) : State :=
  let home := ((places.head?).map fun p => p.cores.headD 0).getD 0
  match formKey ((places.flatMap (·.cores)).foldl (prepareCore g.asid) s) home g with
  | .trap _ s => s
  | .hold t => { s with requests := t.requests, sent := t.sent, nextTag := t.nextTag }
  | .ok none _ => setGang (postGangNote s g 0x0F g.caddr 2 false) { g with keyRetryAt := s.clk + 2500000 }
  | .ok (some key) s =>
    let level := budgetLevel (powerLevel s) g.prio
    let harts := places.map (placedHart s g key level)
    let s := setGang { s with parked := harts ++ s.parked } { g with
      status := .resident, home := some home, key := key, level := level, firstSince := none, blockedSince := none
      reserving := false, slotsHeld := [], reported := false, placedAt := s.clk }
    refreshFirst (takeHeld s places)

/-- R303-R306: the chosen placement of an eligible new gang, at the earliest when its key may be read again. -/
def placeGang (s : State) (gid : Nat) (places : List Place) : State :=
  match findGang s gid with
  | some g =>
    if g.status = .queued ∧ g.keyRetryAt ≤ s.clk ∧ draining s = false ∧ places.map (·.member) = List.range g.gsize ∧
        placesChosen s g (fun _ => gangNeeds s g) false places = true then placeMembers s g places
    else s
  | none => s

/-- R306: a placement engine places all members of an eligible gang at one instant. -/
def execGangPlacement (g : Nat) (places : List Place) (s : State) : Out := .next (placeGang s g places)
/-- R397: a placement whose key could not be read is tried again. -/
def execKeyReadRetry (g : Nat) (places : List Place) (s : State) : Out := .next (placeGang s g places)

/-! ### The queue's clocks (R303, R313, R49) -/

/-- R303, R313: as the queue stands: the first unplaced entries of their levels, and since when no placement of them exists. -/
def refreshQueue (s : State) : State :=
  let s := refreshFirst s
  { s with gangs := s.gangs.map fun g =>
      if g.eligibleEntry && g.firstSince.isSome then
        { g with blockedSince := if placeable s g then none else some (g.blockedSince.getD s.clk) }
      else g }

/-- R303: the entry has been the first unplaced one of its level for 1 ms and becomes reserving, the only one of its level. -/
def execEntryReserving (g : Nat) (s : State) : Out :=
  match findGang s g with
  | some x =>
    let due := x.firstSince.any fun t => decide (t + 2500000 ≤ s.clk)
    if due ∧ s.gangs.all (fun y => !(y.reserving && y.prio == x.prio)) = true then
      .next (setGang s { x with reserving := true })
    else .next s
  | none => .next s

/-- R303, R325: kind 0x03 for an entry that still cannot be placed after 1 s. -/
def execUnplaceableReport (g : Nat) (s : State) : Out :=
  match findGang s g with
  | some x =>
    if x.eligibleEntry ∧ x.reported = false ∧ x.waitingSince + 2500000000 ≤ s.clk ∧ placeable s x = false then
      let info := BitVec.ofNat 64 (x.gsize + x.foot * 2 ^ 8 + x.span * 2 ^ 16 +
        if x.status = .preempted then 2 ^ 20 else 0)
      .next (postGangNote (setGang s { x with reported := true }) x 0x03 0 info false)
    else .next s
  | none => .next s

/-! ### Victims (R313, R314) -/

/-- R313: the resident gang is a candidate victim of the entry, as far as priorities and its 10 ms go. -/
def belowEntry (s : State) (p v : Gang) : Bool :=
  v.status == .resident &&
  (if p.prio = 7 then decide (v.prio ≤ 6)
   else decide (v.prio + 2 ≤ p.prio) && v.windowFrom.all fun t => decide (t + 25000000 ≤ s.clk))
/-- R331: every member of the gangs finds a frame, those of earlier ones taken. -/
def framesSuffice (s : State) : List Gang → Bool
  | [] => true
  | v :: r =>
    let (fs, lack) := assignFrames s v
    lack == 0 && framesSuffice (setGang s { v with frames := fs }) r
/-- R331: and every member of it finds a frame. -/
def isCandidate (s : State) (p v : Gang) : Bool := belowEntry s p v && (assignFrames s v).2 == 0

/-- R303: the state once the gangs hold no slot; what they free is held for the entries that are reserving. -/
def without (s : State) (vs : List Gang) : State :=
  let gone (h : Hart) : Bool := vs.any fun v => v.gid.toNat == h.name.1
  let s := (s.harts.filter gone).foldl (fun s h => holdFreed s h.cores h.slot (bits h.csr.footprint 8 4)) s
  let f (h : Hart) : Hart := if gone h then { h with cores := [] } else h
  { s with hart := f s.hart, parked := s.parked.map f }

/-- R314: the removal of the set lets the entry be placed, and no gang can be left out. A set for which the frames do not suffice
together is none (R331). -/
def sufficient (s : State) (p : Gang) (vs : List Gang) : Bool := placeable (without s vs) p
def minimalSet (s : State) (p : Gang) (vs : List Gang) : Bool :=
  sufficient s p vs && framesSuffice s vs && vs.all fun v => !sufficient s p (vs.filter fun x => x.gid != v.gid)

/-- Numbers in rising order. -/
def risingList : List Nat → List Nat := fun l => l.foldl (fun acc x => insertSorted x acc) []
where
  /-- `x` put before the first number above it. -/
  insertSorted (x : Nat) : List Nat → List Nat
    | [] => [x]
    | y :: r => if x ≤ y then x :: y :: r else y :: insertSorted x r

/-- R314, 3: the placement times of `a`, the earliest first, are preferred to those of `b`. -/
def laterTimes : List Nat → List Nat → Option Bool
  | [], [] => none
  | [], _ :: _ => some true
  | _ :: _, [] => some false
  | x :: xs, y :: ys => if x = y then laterTimes xs ys else some (decide (y < x))

/-- R314: is the set `a` preferred to the set `b`? -/
def preferred (s : State) (a b : List Gang) : Bool :=
  let top (l : List Gang) : Nat := l.foldl (fun n g => max n g.prio) 0
  let harts (l : List Gang) : Nat := l.foldl (fun n g => n + (gangMembers s g.gid.toNat).length) 0
  let times (l : List Gang) : List Nat := risingList (l.map (·.placedAt))
  let least (l : List Gang) : Nat := l.foldl (fun n g => min n g.gid.toNat) (2 ^ 32)
  if top a ≠ top b then decide (top a < top b)
  else if harts a ≠ harts b then decide (harts a < harts b)
  else match laterTimes (times a) (times b) with
    | some x => x
    | none => decide (least b < least a)

/-- The sets of candidates. -/
def candidateSets : List Gang → List (List Gang)
  | [] => [[]]
  | g :: r => let l := candidateSets r; l ++ l.map (g :: ·)

/-- R314: the set is a minimal one, and no other minimal set is preferred to it. -/
def chosenVictims (s : State) (p : Gang) (vs : List Gang) : Bool :=
  vs.all (isCandidate s p) && minimalSet s p vs &&
  (candidateSets (s.gangs.filter (isCandidate s p))).all fun x => !(minimalSet s p x && preferred s x vs)

/-- R331: kind 0x05 for a gang that only wants for frames to be a candidate. -/
def reportFrames (s : State) (p : Gang) : State :=
  (s.gangs.filter fun v => belowEntry s p v && (assignFrames s v).2 != 0).foldl
    (fun s v => postGangNote s v 0x05 0 (BitVec.ofNat 64 (assignFrames s v).2) false) s

/-- R313, R314: pre-emption for the entry begins, of the victims named where they are a set the rules choose. -/
def preemptFor (s : State) (gid : Nat) (victims : List Nat) : State :=
  match findGang s gid with
  | some p =>
    let due := p.prio == 7 || p.blockedSince.any fun t => decide (t + 25000 ≤ s.clk)
    if p.eligibleEntry ∧ draining s = false ∧ due = true ∧ placeable s p = false then
      let vs := victims.filterMap (findGang s)
      let s := reportFrames s p
      if victims.isEmpty then s
      else if vs.length = victims.length ∧ chosenVictims s p vs = true then
        vs.foldl (fun s v => match findGang s v.gid.toNat with
          | some v => beginPreemption s v true
          | none => s) s
      else s
    else s
  | none => s

/-- R313: at the end of the grace period the victims are judged. -/
def execPreemptionGraceExpiry (g : Nat) (victims : List Nat) (s : State) : Out := .next (preemptFor s g victims)
/-- R313: a gang's 10 ms are over, and it is a candidate again for a waiting entry. -/
def execPreemptionWindowExpiry (g : Nat) (victims : List Nat) (s : State) : Out := .next (preemptFor s g victims)

/-! ### The dependence word (R302) -/

/-- R302: the dependence word of a pending entry read again. -/
def dependAgain (s : State) (g : Nat) : State :=
  match findGang s g with
  | some x => if x.status = .pending then evaluateDepend s x else s
  | none => s

/-- R302: after a write to the word's line. -/
def execDependenceEvaluation (g : Nat) (s : State) : Out := .next (dependAgain s g)
/-- R302: an unreadable word is read again. -/
def execDependenceRetry (g : Nat) (s : State) : Out := .next (dependAgain s g)
/-- R302: a word of another module is read again. -/
def execDependencePoll (g : Nat) (s : State) : Out := .next (dependAgain s g)

end Sys2Proof.Machine
end

