-- ==== Sys2Proof/Machine/System.lean ====
section
/-!
DEFINITION. System instructions: control and status registers (R114, R38-R43), traps and returns (R117, R118), fences (R120),
waiting and yielding (R121, R122), spawning (R125), the gang barrier and the exit of a hart (R127-R129).
-/
namespace Sys2Proof.Machine

/-! ### Control and status registers (R38-R42) -/

/-- R38: the value of a control and status register. -/
def readCsr (s : State) (n : BitVec 10) : Word :=
  let c := s.hart.csr
  match n.toNat with
  | 0x000 => c.vl
  | 0x001 => c.vstart
  | 0x002 => c.vdirty
  | 0x003 => c.vflags
  | 0x004 => c.vstat
  | 0x005 => c.vrm
  | 0x010 => c.hartid
  | 0x011 => c.gangid
  | 0x012 => c.gangsize
  | 0x013 => c.member
  | 0x014 => c.span
  | 0x015 => c.footprint
  | 0x016 => c.vlmaxc
  | 0x020 => BitVec.ofNat 64 s.clk
  | 0x021 => c.retired
  | 0x022 => c.budget
  | 0x023 => c.zlist
  | 0x024 => c.wdlimit
  | 0x028 => c.key0
  | 0x029 => c.key1
  | 0x02A => c.key2
  | 0x02B => c.key3
  | 0x02C => c.counter
  | 0x02D => c.nonce
  | 0x02E => c.rngmode
  | 0x100 => c.tcause
  | 0x101 => c.tval
  | 0x102 => c.tpc
  | 0x103 => c.tvec
  | 0x104 => c.tscratch
  | 0x105 => c.priv
  | _ => 0

/-- R42, R114: PRIV with PREV written: code 3 is never held, and supervisor mode does not write 2. A write of 3 leaves PREV as it was
(log 92). -/
def writePrev (c : Csrs) (v : Word) : Word :=
  let p := bits v 2 2
  if p = 3 ∨ (p = 2 ∧ bits c.priv 0 2 = 1) then c.priv else setBits c.priv 2 2 p

/-- R12, R38-R42, R114: a control and status register written: read-only fields keep their values, W1C fields clear where the
value has a one, reserved fields stay zero. -/
def writeCsr (c : Csrs) (n : BitVec 10) (v : Word) : Csrs :=
  match n.toNat with
  | 0x001 => { c with vstart := v }
  | 0x002 => { c with vdirty := c.vdirty &&& ~~~v }
  | 0x003 => { c with vflags := v &&& 0x1F }
  | 0x004 => { c with vstat := (c.vstat &&& ~~~0x1F) ||| (v &&& 0x1F) }
  | 0x005 => if bits v 0 3 ≤ 4 then { c with vrm := v &&& 7 } else c
  | 0x023 => { c with zlist := v &&& 0x7F }
  | 0x024 => { c with wdlimit := v &&& 0xFFFFFFFFFFFF }
  | 0x028 => { c with key0 := v }
  | 0x029 => { c with key1 := v }
  | 0x02A => { c with key2 := v }
  | 0x02B => { c with key3 := v }
  | 0x02C => { c with counter := v }
  | 0x02D => { c with nonce := v }
  | 0x02E => { c with rngmode := v &&& 1 }
  | 0x100 => { c with tcause := v &&& 0xFF }
  | 0x101 => { c with tval := v }
  | 0x102 => { c with tpc := v &&& ~~~3 }
  | 0x103 => { c with tvec := v &&& ~~~3 }
  | 0x104 => { c with tscratch := v }
  | 0x105 => { c with priv := writePrev c v }
  | _ => c

/-- R38: the registers that only supervisor and service mode reach. -/
def csrRestricted (n : BitVec 10) : Bool :=
  n == 0x024 || (decide (0x028 ≤ n.toNat) && decide (n.toNat ≤ 0x02B)) || n == 0x02E || decide (0x100 ≤ n.toNat)

/-- R119: TVAL of PRIV: the instruction word of opcode 0x18 or 0x19 with its F10, B, A and D fields. -/
def privTval (f10 b a d op : Nat) : Word := BitVec.ofNat 64 (f10 * 2 ^ 22 + b * 2 ^ 17 + a * 2 ^ 12 + d * 2 ^ 7 + op)

/-- R43: the access waits until every earlier instruction has completed: a CSRR (`sel` 0) of VL, VSTART, VDIRTY, VFLAGS or
VSTAT, and a write of VFLAGS, VSTAT or VDIRTY. -/
def csrWaits (n : BitVec 10) (sel : Nat) : Bool :=
  if sel = 0 then decide (n.toNat ≤ 4) else decide (2 ≤ n.toNat) && decide (n.toNat ≤ 4)

/-- R43, R114, R115: an access to register `n`: PRIV for a restricted one in user mode, else `f`. -/
def csrRun (s : State) (n : BitVec 10) (sel : Nat) (a d : BitVec 5) (rs : List (BitVec 5)) (f : State → State) : Out :=
  if s.hart.user && csrRestricted n then .next (trapAt s ⟨.priv, privTval n.toNat sel a.toNat d.toNat 0x18⟩ 0)
  else scalarRun s rs fun s => .ok (s.hart.pc + 4) (f (if csrWaits n sel then drainMatrix s else s))

/-- R114: sd := csr. -/
def execCsrr (c : BitVec 10) (d : BitVec 5) (s : State) : Out :=
  csrRun s c 0 0 d [] fun s => s.setRs d (readCsr s c)
/-- R114: csr := sa. -/
def execCsrw (c : BitVec 10) (a : BitVec 5) (s : State) : Out :=
  csrRun s c 1 a 0 [a] fun s => s.modCsr fun x => writeCsr x c (s.rs a)
/-- R114: sd := csr, then csr := sa. -/
def execCsrx (c : BitVec 10) (a d : BitVec 5) (s : State) : Out :=
  csrRun s c 2 a d [a] fun s => (s.modCsr fun x => writeCsr x c (s.rs a)).setRs d (readCsr s c)

/-! ### Traps (R117, R118) -/

/-- R118: traps ECALL. -/
def execEcall (s : State) : Out := .next (trapAt s ⟨.ecall, 0⟩ 0)
/-- R118: traps EBREAK. -/
def execEbreak (s : State) : Out := .next (trapAt s ⟨.ebreak, 0⟩ 0)
/-- R117: the return from a trap; PRIV in user mode. -/
def execTret (s : State) : Out :=
  if s.hart.user then .next (trapAt s ⟨.priv, privTval 2 0 0 0 0x19⟩ 0) else .next (trapReturn s.countRetired)

/-! ### Pause and yield (R121) -/

/-- R121: the hart is not selected for the next 32 clk: it is again from the 33rd on. -/
def execPause (s : State) : Out :=
  scalarRun s [] fun s => .ok (s.hart.pc + 4) (setHart s { s.hart with pauseUntil := s.clk + 33 })
/-- R121, R309: the age is 0, and the hart stands last for the next selection. -/
def execYield (s : State) : Out :=
  scalarRun s [] fun s => .ok (s.hart.pc + 4) (setHart s { s.hart with age := 0, yielded := true })

/-! ### Fences (R120) -/

/-- R120: a fence: what it waits for, then its cache actions. -/
def fence (s : State) (sc : BitVec 4) (sv vs : Bool) (wait : State → Nat → Res Unit) : Out :=
  scalarRun s [] fun s =>
    (wait s sc.toNat).andThen fun _ s =>
      let s := if sv then cleanL1d s s.hart.home else s
      let s := if vs then acquireL1d (dropWritten s) sc.toNat else s
      .ok (s.hart.pc + 4) (coverWrites (if 7 ≤ sc.toNat then rlbFlush s (isleOf s.hart.home) else s))

/-- R120: every earlier access of the scalar agent is performed at the scope. At DOMAIN and SYSTEM the remote-line buffer of
the Isle is dropped, since the fence is part of an acquire of the vector agent (R291, R295). -/
def execFenceSv (sc : BitVec 4) (s : State) : Out := fence s sc true false settleScalar
/-- R120: every earlier access of the vector agent is performed at the scope, before later scalar ones. -/
def execFenceVS (sc : BitVec 4) (s : State) : Out := fence s sc false true settleVector
/-- R120: every earlier access of the vector agent is performed at the scope, before later vector ones; its stores that still
lag are kept in that order by a barrier among them. -/
def execFenceVV (sc : BitVec 4) (s : State) : Out :=
  scalarRun s [] fun s =>
    if sc.toNat < 7 ∧ s.hart.order.vector ≠ [] then
      let queue := s.hart.order.vector
      let back (q : List Pending) (s : State) : State := setOrder s { s.hart.order with vector := q }
      match settleVector (back [] s) sc.toNat with
      | .ok _ s => .ok (s.hart.pc + 4) (back (queue ++ [.barrier]) (coverWrites s))
      | .trap t s => .trap t (back queue s)
      | .hold s => .hold (back queue s)
    else
      (settleVector s sc.toNat).andThen fun _ s =>
        .ok (s.hart.pc + 4) (coverWrites (if 7 ≤ sc.toNat then rlbFlush s (isleOf s.hart.home) else s))
/-- R120: every earlier access of both agents is performed at the scope. -/
def execFenceAll (sc : BitVec 4) (s : State) : Out := fence s sc true true settleBoth

/-! ### Waiting for a word (R122) -/

/-- R122: the condition of code `c` of the word `w` against `v`. -/
def waitHolds (c : Nat) (w v : Word) : Bool :=
  match c with
  | 0 => w == v
  | 1 => w != v
  | 2 => v.ule w
  | 3 => w.ult v
  | 4 => v.sle w
  | _ => w.slt v

/-- R122, R295: the word at `a` read at the storage, past L1D and the remote-line buffer. The control pages are reached by loads and
stores alone (R251): a WAITW there traps ADDR_RANGE (log 80). -/
def waitRead (s : State) (a : Word) : Res Word :=
  match scalarLanding s a 8 .load with
  | .error t => .trap t s
  | .ok (.window k, s) => readStored (performScalarOver s k 8) k
  | .ok (.main pa, s) => readStored (performScalarOver s pa 8) pa
  | .ok (.remote pa, s) =>
    match s.hart.remote.find? (fun r => r.typ == 0 && decide (r.addr = pa)) with
    | some ⟨tag, _, _, _, some (w, p), _⟩ =>
      let s := setHart s { s.hart with remote := s.hart.remote.filter fun x => x.tag != tag }
      if p then .trap ⟨.poison, poisonTval (.remote pa) a⟩ s else .ok w s
    | some _ => .hold s
    | none => .hold (askRead s pa 0 0)
  | .ok (.isleCtl _ _, s) => .trap ⟨.addrRange, a⟩ s
  | .ok (.moduleCtl _, s) => .trap ⟨.addrRange, a⟩ s
where
  /-- The word at the storage of key `k`. -/
  readStored (s : State) (k : Nat) : Res Word :=
    (engineInterlock s (.key k) 8 false).andThen fun _ s =>
      if poisoned s k 8 then .trap ⟨.poison, poisonTval (.key k) a⟩ s else .ok (loadWord s k) s

/-- R122: the wait ends: sd := the word, an acquire of both agents at the scope, the instruction retires. -/
def waitDone (s : State) (sc : BitVec 4) (d : BitVec 5) (w : Word) : State :=
  retireTo (acquireL1d (s.setRs d w) sc.toNat) (s.hart.pc + 4)

/-- R122: WAITW with condition code `cond`: done when the condition holds, WAIT otherwise. -/
def waitw (s : State) (sc : BitVec 4) (b a d : BitVec 5) (cond : BitVec 3) : Out :=
  match poisonedScalar s [a, b] with
  | some t => .next (trapAt s t 0)
  | none =>
    let addr := s.rs a
    let v := s.rs b
    match waitRead s addr with
    | .trap t s => .next (trapAt s t 0)
    | .hold s => .next s
    | .ok w s =>
      if waitHolds cond.toNat w v then .next (waitDone s sc d w)
      else .next (setHart s { s.hart with st := .wait, waits := .word addr sc cond v d })

/-- R122: waits until the word is equal to sb. -/
def execWaitwEq (sc : BitVec 4) (b a d : BitVec 5) (s : State) : Out := waitw s sc b a d 0
/-- R122: waits until the word is not equal to sb. -/
def execWaitwNe (sc : BitVec 4) (b a d : BitVec 5) (s : State) : Out := waitw s sc b a d 1
/-- R122: waits until the word is at least, unsigned sb. -/
def execWaitwGeu (sc : BitVec 4) (b a d : BitVec 5) (s : State) : Out := waitw s sc b a d 2
/-- R122: waits until the word is below, unsigned sb. -/
def execWaitwLtu (sc : BitVec 4) (b a d : BitVec 5) (s : State) : Out := waitw s sc b a d 3
/-- R122: waits until the word is at least, signed sb. -/
def execWaitwGe (sc : BitVec 4) (b a d : BitVec 5) (s : State) : Out := waitw s sc b a d 4
/-- R122: waits until the word is below, signed sb. -/
def execWaitwLt (sc : BitVec 4) (b a d : BitVec 5) (s : State) : Out := waitw s sc b a d 5

/-! ### Spawning (R125) -/

/-- R125: the 64 bytes of the record at `a`, one read at PACKAGE scope. -/
def readRecord (s : State) (a : Word) : Res (BitVec 512) :=
  match scalarLanding s a 64 .load with
  | .error t => .trap t s
  | .ok (.window k, s) =>
    if poisoned s k 64 then .trap ⟨.poison, poisonTval (.key (poisonedAt s k 64)) (a + BitVec.ofNat 64 (poisonedAt s k 64 - k))⟩ s
    else .ok (BitVec.ofNat 512 (readLE s.mem k 64)) s
  | .ok (.main pa, s) =>
    if poisoned s pa 64 then .trap ⟨.poison, poisonTval (.key pa) a⟩ s else .ok (BitVec.ofNat 512 (readLE s.mem pa 64)) s
  | .ok (.remote pa, s) =>
    (remoteLoad s pa 64).andThen fun (v, p) s =>
      if p then .trap ⟨.poison, poisonTval (.remote pa) a⟩ s else .ok (BitVec.ofNat 512 v) s
  | .ok (.isleCtl _ _, s) => .trap ⟨.addrRange, a⟩ s
  | .ok (.moduleCtl _, s) => .trap ⟨.addrRange, a⟩ s

/-- R125: posts the record at sa; sd := the GANGID, or bit 63 and the reason code of R126. -/
def execSpawn (a d : BitVec 5) (s : State) : Out :=
  scalarRun s [a] fun s =>
    let addr := s.rs a
    match scalarLanding s addr 64 .load with
    | .error t => .trap t s
    | .ok (_, s) =>
      (settleBoth s 6).andThen fun _ s =>
        (readRecord (cleanL1d s s.hart.home) addr).andThen fun rec s =>
          let code := recordCode s rec s.hart.user
          let (w, s) := if code = 0 then postRecord s rec s.hart.asid else (BitVec.ofNat 64 (2 ^ 63 + code), s)
          .ok (s.hart.pc + 4) (s.setRs d w)

/-! ### The gang barrier and the exit (R127, R129) -/

/-- R127: releases at GANG scope, arrives at the barrier and waits. In TRAPPED state it is a double trap with cause 0 (R25).
A hart of no gang has no barrier and goes on (log 16). -/
def execGbar (s : State) : Out :=
  if s.hart.tact then .next (doubleTrap s 0 s.hart.pc)
  else
    match settleBoth s 4 with
    | .trap t s => .next (trapAt s t 0)
    | .hold s => .next s
    | .ok _ s =>
      let s := releaseL1d s 4
      match findGang s s.hart.name.1 with
      | some g =>
        let s := setHart s { s.hart with st := .wait, waits := .barrier g.phase, convoy := .closed }
        .next (completePhase s { g with arrived := g.arrived + 1 })
      | none => .next (retireTo (acquireL1d s 4) (s.hart.pc + 4))

/-- R129: waits for earlier work, kills the tokens, frees the slots, exits the hart and counts the exit. -/
def execHexit (s : State) : Out :=
  let g := findGang s s.hart.name.1
  let scope := (g.map Gang.cscope).getD 6
  match settleBoth s scope with
  | .trap t s => .next (trapAt s t 0)
  | .hold s => .next s
  | .ok _ s =>
    let (gid, m) := s.hart.name
    .next (countExit (exitHart (releaseL1d s scope).countRetired) gid m)

end Sys2Proof.Machine
end

