-- ==== Sys2Proof/Machine/Wakes.lean ====
section
/-!
DEFINITION. Events of harts and gangs: wakes (R122, R312), PAUSE and the watchdog (R121, R317), notifications and fault service
(R325, R326), requests of the mailbox (R327), saves and restores (R315, R332, R333).
-/
namespace Sys2Proof.Machine

/-! ### Waking (R24, R312) -/

/-- R24: the hart under the cursor leaves WAIT or SWAPPED. -/
def wakeHart (s : State) : State :=
  setHart s { s.hart with st := if s.hart.tact then .trapped else .ready, waits := .nothing, age := 0 }

/-- R122: WAITW of the hart under the cursor evaluated again. Where the read would trap, the hart leaves WAIT as for a wake and
its WAITW, which stays at the pc, takes the trap when it executes again (log 66). -/
def wakeWord (s : State) : State :=
  match s.hart.waits with
  | .word addr sc cond v rd =>
    match waitRead s addr with
    | .hold s => s
    | .trap _ s => wakeHart s
    | .ok w s => if waitHolds cond.toNat w v then wakeHart (waitDone s sc rd w) else s
  | _ => s

/-- R127, R312: GBAR of the hart under the cursor is over once its phase has completed. -/
def wakeBarrier (s : State) : State :=
  match s.hart.waits with
  | .barrier phase =>
    match findGang s s.hart.name.1 with
    | some g => if g.phase ≠ phase then wakeHart (retireTo (acquireL1d s 4) (s.hart.pc + 4)) else s
    | none => s
  | _ => s

/-- An event of a hart whose gang issues. -/
def hartEvent (s : State) (g m : Nat) (f : State → State) : State :=
  onHart s g m fun s => if gangIssues s s.hart && !s.hart.stopped then f s else s

/-- R122: a write to the watched line. -/
def execWaitwWake (g m : Nat) (s : State) : Out := .next (hartEvent s g m wakeWord)
/-- R312: a phase has completed. -/
def execGbarWake (g m : Nat) (s : State) : Out := .next (hartEvent s g m wakeBarrier)

/-- R121: the 32 clk of PAUSE are over. -/
def execPauseExpiry (g m : Nat) (s : State) : Out :=
  .next (onHart s g m fun s => if s.hart.pauseUntil ≤ s.clk then setHart s { s.hart with pauseUntil := 0 } else s)

/-! ### The watchdog (R317) -/

/-- R317: the gang is suspended; kind 0x0D also goes to the host. -/
def suspendGang (s : State) (g : Gang) : State :=
  let s := setHart s { s.hart with wdcount := 0, expired := true }
  let s := setGang (stopGang s g.gid.toNat) { g with status := .suspended }
  (postHartNote s 0x0D s.hart.pc s.hart.csr.wdlimit true).1

/-- R317: the watchdog of the hart under the cursor has reached WDLIMIT. In host-assisted mode its gang is suspended. Otherwise the
hart traps: a PSEND in flight completes first, and its retirement sets the count to 0 (R240, log 40); another instruction stops where
it stands (R321). -/
def watchdog (s : State) : State :=
  let limit := s.hart.csr.wdlimit
  if s.hart.st = .run ∧ limit ≠ 0 ∧ limit.toNat ≤ s.hart.wdcount then
    match (if bit s.ctl.mode 2 then findGang s s.hart.name.1 else none) with
    | some g => suspendGang s g
    | none => if s.hart.psend.isSome then s else trapAt (setHart s s.hart.stopBetween) ⟨.watchdog, limit⟩ s.vstart
  else s

/-- R317: a watchdog expires. -/
def execWatchdogExpiry (g m : Nat) (s : State) : Out := .next (hartEvent s g m watchdog)

/-! ### Notifications and fault service (R325, R326) -/

/-- R326, R359: what waits for the reply to a record that was held back, a hart for kind 0x01 and a repair for kind 0x07,
learns the record's place in the ring; `hart` names the hart. -/
def noteIndex (s : State) (isle index : Nat) (r : BitVec 256) (hart : Option (Nat × Nat)) : State :=
  let va := r.extractLsb' 64 64
  let f (h : Hart) : Hart :=
    if h.waits = .fault isle none va ∧ hart = some h.name then { h with waits := .fault isle (some index) va } else h
  match (r.extractLsb' 0 8).toNat with
  | 1 => { s with hart := f s.hart, parked := s.parked.map f }
  | 7 => { s with repairs := s.repairs.map fun j =>
      if j.isle = isle ∧ j.location = va ∧ j.index = none then { j with index := some index } else j }
  | _ => s

/-- R323, R325: the fault policy of a double trap whose record was held back. -/
def policyFollows (s : State) (n : HeldNote) : State :=
  match findGang s (n.record.extractLsb' 32 32).toNat with
  | some g =>
    if n.record.extractLsb' 0 8 = 2 ∧ n.hart.isSome ∧ g.status = .held ∧ g.fpol = 0 then endGang s g else s
  | none => s

/-- R325: the oldest record an Isle holds back is written to its ring, where there is room; what waited behind it follows. -/
def deliverHeld (s : State) (isle : Nat) : State :=
  let i := isle % 8
  match (s.isle i).heldNotes with
  | [] => s
  | n :: rest =>
    if ringHasRoom s i then
      let (s, index) := deliverNote (s.setIsle i { s.isle i with heldNotes := rest }) i n.record n.toHost
      policyFollows (noteIndex s i index n.record n.hart) n
    else s

/-- R325: a held notification is delivered. -/
def execNotificationDelivery (isle : Nat) (s : State) : Out := .next (deliverHeld s isle)

/-- R325: REPLY of record `index` of an Isle. -/
def replyByte (s : State) (isle index : Nat) : Nat := (memRead s.mem (coreKey (isle * 64) (noteOff index + 24))).toNat

/-- R326: PROBE_FAULT of the hart under the cursor at its VPROBE. -/
def probeFault (s : State) (va : Word) : State :=
  trapAt (setHart s { s.hart with waits := .nothing, st := if s.hart.tact then .trapped else .run }) ⟨.probeFault, va⟩ 0

/-- R27, R316: the context of the hart under the cursor is saved, or being kept in a frame. -/
def contextSaved (s : State) : Bool :=
  s.hart.st == .preempted ||
  match findGang s s.hart.name.1 with
  | some g => g.status == .preempting && !(decide (s.hart.name.2 ∈ g.unsaved))
  | none => false

/-- R326: the reply to the fault of the hart under the cursor, if there is one. The read of it is an acquire at PACKAGE scope
(R291); that of a saved hart is its restore's. -/
def faultReply (s : State) : State :=
  match s.hart.waits with
  | .fault isle (some index) va =>
    let r := replyByte s isle index
    if r = 0 then s
    else if contextSaved s then setHart s { s.hart with waits := if r = 1 then .nothing else .denied va }
    else if r = 1 then wakeHart (acquireL1d s 6)
    else probeFault (acquireL1d s 6) va
  | _ => s

/-- R326: a write to REPLY. -/
def execProbeFaultReply (g m : Nat) (s : State) : Out := .next (onHart s g m faultReply)

/-! ### Requests of the mailbox (R327) -/

/-- R327: the request of an Isle is finished: PSTAT, PREQ cleared, kind 0x06. -/
def finishPreq (s : State) (isle gang : Nat) (asid : BitVec 12) (stat : Nat) : State :=
  let k := mailboxKey isle
  let s := storeBytes (storeBytes s (k + 24) 8 stat) (k + 16) 8 0
  let s := s.setIsle isle { s.isle isle with begun := none }
  (postNote s isle 0x06 gang asid.toNat 0 0 (BitVec.ofNat 64 stat) false).1

/-- R327: the request of an Isle has begun: a write to PREQ replaces it no more. -/
def beginPreq (s : State) (isle action : Nat) (g : Gang) : State :=
  s.setIsle isle { s.isle isle with begun := some ⟨action, g.gid.toNat, g.asid⟩ }

/-- R327, action 1. The request is finished once the gang holds no slot. -/
def preqPreempt (s : State) (isle : Nat) (g : Gang) : State :=
  let finish (s : State) (stat : Nat) : State := finishPreq s isle g.gid.toNat g.asid stat
  match g.status with
  | .held => finish s 2
  | .resident | .suspended =>
    let s' := beginPreemption s g false
    if (assignFrames s g).2 = 0 then beginPreq s' isle 1 g else finish s' 2
  | .preempting => beginPreq s isle 1 g
  | .ending => s
  | .pending | .queued | .preempted => finish s 0

/-- R327, action 2: the gang ends, at once or when its accesses are performed. -/
def preqEnd (s : State) (isle : Nat) (g : Gang) : State :=
  let s := endGang (beginPreq s isle 2 g) g
  if (findGang s g.gid.toNat).isNone then refreshFirst (finishPreq s isle g.gid.toNat g.asid 0) else s

/-- R327: a request that has begun, looked at again: it is finished when its gang holds no slot, or has retired. -/
def preqGoesOn (s : State) (isle : Nat) (b : BegunRequest) : State :=
  match findGang s b.gang with
  | none => finishPreq s isle b.gang b.asid 0
  | some g =>
    if b.action = 2 then preqEnd s isle g
    else if g.status = .preempting ∨ g.status = .ending then s else finishPreq s isle b.gang b.asid 0

/-- R327: the request of an Isle's mailbox, if its action is `act`. -/
def mailboxRequest (s : State) (isle act : Nat) (f : State → Nat → Gang → State) : State :=
  let i := isle % 8
  match (s.isle i).begun with
  | some b => if b.action = act then preqGoesOn s i b else s
  | none =>
    let w := mailboxWord s i 16
    if bits w 32 2 = act then
      match findGang s (bits w 0 32) with
      | some g => f s i g
      | none => finishPreq s i (bits w 0 32) 0 1
    else s

/-- R327: action 1, pre-empt. -/
def execPreqPreempt (isle : Nat) (s : State) : Out := .next (mailboxRequest s isle 1 preqPreempt)
/-- R327: action 2, end. -/
def execPreqEnd (isle : Nat) (s : State) : Out := .next (mailboxRequest s isle 2 preqEnd)
/-- R327: action 3, reserved. -/
def execPreqReserved (isle : Nat) (s : State) : Out :=
  .next (mailboxRequest s isle 3 fun s i g => finishPreq s i g.gid.toNat g.asid 2)

/-! ### Saving (R315, R332) -/

/-- R329: the key of the frame a member holds. -/
def memberFrame (s : State) (g : Gang) (m : Nat) : Option Nat :=
  (g.frames.find? fun f => f.1 == m).map fun f => frameKey s f.2.1 f.2.2

/-- R315, R332: a member stopped and its context saved, once its engine instructions are complete, its write streams drained and
its transfers performed (R240). The dirty lines of its home core are written back (R287). -/
def saveMember (gid : Nat) (s : State) (m : Nat) : State :=
  match findGang s gid with
  | some g =>
    match memberFrame s g m with
    | some k =>
      let s := onHart s gid m (stopHart 6)
      match findHart s gid m with
      | some h =>
        if h.settled then
          setGang (saveContext h k s) { g with unsaved := g.unsaved.filter (· != m) }
        else s
      | none => setGang s { g with unsaved := g.unsaved.filter (· != m) }
    | none => s
  | none => s

/-- R315: the pre-emption of a gang goes on: its members' contexts are saved. -/
def execGangPreemption (g : Nat) (s : State) : Out :=
  match findGang s g with
  | some x => if x.status = .preempting then .next (x.unsaved.foldl (saveMember g) s) else .next s
  | none => .next s

/-- R315, step 5: the member's slots and tiles are freed, and it is PREEMPTED. -/
def leaveSlots (s : State) : State :=
  let s := holdFreed s s.hart.cores s.hart.slot (bits s.hart.csr.footprint 8 4)
  setHart s { s.hart with st := .preempted, cores := [], mq := [], convoy := .none, held := false }

/-- R315, R332: every member is saved: the gang is PREEMPTED and its restore entry joins the queue. -/
def execContextSaveDone (g : Nat) (s : State) : Out :=
  match findGang s g with
  | some x =>
    let ms := (gangMembers s g).filter fun m => m ∉ x.gone
    if x.status = .preempting ∧ x.unsaved.isEmpty = true ∧
        ms.all (fun m => (memberFrame s x m).any fun k => bit (loadWord s (k + 56)) 0) = true then
      let s := ms.foldl (fun s m => onHart s g m leaveSlots) s
      match findGang s g with
      | some x => .next (refreshFirst (setGang s { x with status := .preempted, waitingSince := s.clk, reported := false }))
      | none => .next s
    else .next s
  | none => .next s

/-! ### Restoring (R333) -/

/-- R333: what a saved member needs, as its frame says. -/
def frameNeeds (s : State) (g : Gang) (m : Nat) : Needs :=
  let w := ((memberFrame s g m).map fun k => loadWord s k).getD 0
  { gangNeeds s g with span := bits w 48 4, foot := bits w 42 6, tiles := bits w 32 4 }

/-- R26: a restored member that was WAIT or SWAPPED goes on if it may. -/
def resume (s : State) : State :=
  let s := refreshSites s
  match s.hart.st with
  | .wait => wakeBarrier (wakeWord s)
  | .swapped =>
    match s.hart.waits with
    | .nothing => wakeHart s
    | .denied va => probeFault s va
    | _ => faultReply s
  | _ => s

/-- R333: one member restored in its place. -/
def restoreMember (g : Gang) (s : State) (p : Place) : State :=
  match memberFrame s g p.member with
  | some k => onHart s g.gid.toNat p.member fun s => coverWrites (setHart s (restoredHart s k s.hart p.cores p.slot))
  | none => s

/-- R303-R306, R333: the chosen placement of a restore entry. A frame that is not complete holds the gang as fault policy 1 does, and
kind 0x02 goes to the host too (R123). -/
def restoreGang (s : State) (gid : Nat) (places : List Place) : State :=
  match findGang s gid with
  | some g =>
    let ms := entryMembers s g
    if g.status = .preempted ∧ draining s = false ∧ places.map (·.member) = ms then
      if !ms.all fun m => (memberFrame s g m).any (frameReady s) then
        refreshFirst (postGangNote (setGang s { g with status := .held }) g 0x02 0 0 true)
      else if placesChosen s g (frameNeeds s g) true places then
        let home := ((places.find? fun p => p.member == 0).map fun p => p.cores.headD 0).orElse fun _ => g.home
        let s := (places.flatMap (·.cores)).foldl (prepareCore g.asid) s
        let s := places.foldl (restoreMember g) s
        let s := setGang s { g with
          status := .resident, home := home, firstSince := none, blockedSince := none, reserving := false, slotsHeld := []
          reported := false, placedAt := s.clk }
        let s := refreshFirst (takeHeld s places)
        ms.foldl (fun s m => onHart s gid m resume) s
      else s
    else s
  | none => s

/-- R333: a restore entry is placed. -/
def execGangRestore (g : Nat) (places : List Place) (s : State) : Out := .next (restoreGang s g places)

end Sys2Proof.Machine
end

