-- ==== Sys2Proof/Machine/Migrate.lean ====
section
/-!
DEFINITION. Events of the Landing engine and of the engines of a hart: migrations (R263-R265), invalidations (R257), units of
a relayout (R227), stream work (R230, R231), the end of transfers and of PSEND (R238, R297), and lines that leave a cache
(R248, R295).
-/
namespace Sys2Proof.Machine

/-! ### Requests (R263) -/

/-- R252: the word of MREQ. -/
def mreqWord (region kind version : Nat) : Word :=
  BitVec.ofNat 64 (region % 2 ^ 21 + kind * 2 ^ 21 + version % 2 ^ 4 * 2 ^ 23)

/-- R263: a rehash asked for by a write to MREQ. -/
def execMreqRehash (isle region version : Nat) (s : State) : Out := .next (writeMreq s isle (mreqWord region 0 version))
/-- R263: a move to HBM4E asked for. -/
def execMreqMoveHbm (isle region : Nat) (s : State) : Out := .next (writeMreq s isle (mreqWord region 1 0))
/-- R263: a move to LPDDR-6 asked for. -/
def execMreqMoveLpddr (isle region : Nat) (s : State) : Out := .next (writeMreq s isle (mreqWord region 2 0))

/-- R263: the next configured version after `v`. -/
def nextVersion (s : State) (v : Nat) : Nat :=
  (((List.range 15).map fun i => (v + 1 + i) % 16).find? (versionConfigured s)).getD v

/-- R263, R252: the misses of a region have reached RHTHR, which 0 disables; only a controller of HBM4E rehashes. -/
def rowMissRehash (s : State) (region : Nat) : State :=
  let e := regionEntry s region
  let q : MigrationRequest := ⟨region, .rehash (nextVersion s e.version)⟩
  if (s.isle e.slot.isle).rhthr = 0 ∨ requestRefused s q = true then s else postMigration s q
/-- R263: a region's row-miss count reaches RHTHR. -/
def execRowMissRehash (region : Nat) (s : State) : Out := .next (rowMissRehash s region)

/-! ### The start of a migration (R264, R265) -/

/-- The pins of tokens and engine transfers of a hart. -/
def hartPins (h : Hart) : List Pin := h.q.toList.flatMap (·.pins) ++ h.transfers.flatMap (·.pins)
/-- The pins of a relayout. -/
def relayoutPins (r : Relayout) : List Pin := r.oldPins ++ r.newPins ++ r.tabPins
/-- R259: pins of the region: some pinned page meets it. -/
def regionPinned (s : State) (region : Nat) : Bool :=
  (s.harts.flatMap hartPins ++ s.relayouts.flatMap relayoutPins).any fun p =>
    decide (region * 2 ^ 21 < p.pa + p.size) && decide (p.pa < (region + 1) * 2 ^ 21)

/-- R259: the spare slots as the device ships: the rows from 32,704 of a stack, the indices from 130,560 of an Isle. -/
def nativeSpares (hbm : Bool) (place : Nat) : List StorageSlot :=
  if hbm then (List.range 64).map fun i => .hbm place (32704 + i)
  else (List.range 512).map fun i => .lpddr place (130560 + i)
/-- A slot of the stack, or of the Isle's LPDDR-6. -/
def StorageSlot.liesOn (x : StorageSlot) (hbm : Bool) (place : Nat) : Bool :=
  match x with
  | .hbm stack _ => hbm && stack == place
  | .lpddr isle _ => !hbm && isle == place
/-- R259, R265: the free spare slots of a stack or of an Isle's LPDDR-6. -/
def freeSpares (s : State) (hbm : Bool) (place : Nat) : List StorageSlot :=
  (nativeSpares hbm place ++ s.sparesFreed.filter (·.liesOn hbm place)).filter fun x => x ∉ s.sparesTaken

/-- The first free spare of the places named. -/
def firstSpare (s : State) (hbm : Bool) (places : List Nat) : Option StorageSlot :=
  (places.flatMap (freeSpares s hbm)).head?

/-- R265, R365: the spare slot a request takes, and the target version; a repair stays on its stack, or in its Isle's LPDDR-6. A
move to HBM4E takes the lowest-numbered stack with a free spare and arrives under version 0 (log 25). -/
def migrationTarget (s : State) (e : RegionEntry) (k : MigrationKind) : Option (StorageSlot × Nat) :=
  match k, e.slot with
  | .rehash v, .hbm stack _ => (firstSpare s true [stack]).map fun x => (x, v)
  | .rehash _, .lpddr _ _ => none
  | .toHbm, _ => (firstSpare s true (List.range 16)).map fun x => (x, 0)
  | .toLpddr, slot => (firstSpare s false [slot.isle]).map fun x => (x, 0)
  | .repair, .hbm stack _ => (firstSpare s true [stack]).map fun x => (x, e.version)
  | .repair, .lpddr isle _ => (firstSpare s false [isle]).map fun x => (x, 0)

/-- R264: the request for a region starts, in one step with the finding that the region is IDLE and not pinned. A request the
region's own move has settled meanwhile is dropped. -/
def migrationStart (s : State) (region : Nat) : State :=
  match s.migrations.find? fun q => decide (q.region = region) with
  | none => s
  | some q =>
    let e := regionEntry s region
    let rest := s.migrations.erase q
    if e.migration.isSome then s
    else if requestRefused s q then { s with migrations := rest }
    else if regionPinned s region then s
    else match migrationTarget s e q.kind with
      | none => s
      | some (slot, v) =>
        let m : Migration := ⟨slot, v, [], none, [], q.kind == .repair⟩
        setRegion { s with
          migrations := rest
          sparesTaken := if slot ∈ s.sparesFreed then s.sparesTaken else s.sparesTaken ++ [slot]
          sparesFreed := s.sparesFreed.filter (· != slot) } { e with migration := some m }
/-- R264: the engine starts a request. -/
def execMigrationStart (region : Nat) (s : State) : Out := .next (migrationStart s region)

/-! ### Chunks (R265) -/

/-- R265: the old slot becomes a spare, unless it is retired. -/
def freeSlot (s : State) (x : StorageSlot) (retire : Bool) : State :=
  if retire then { s with sparesTaken := if x ∈ s.sparesTaken then s.sparesTaken else s.sparesTaken ++ [x] }
  else if x ∈ s.sparesTaken then { s with sparesTaken := s.sparesTaken.filter (· != x) }
  else { s with sparesFreed := s.sparesFreed ++ [x] }

/-- R265: the chunk the engine takes next. Promoted chunks have gone first: they are NEW with the write that promoted them. -/
def nextChunk (m : Migration) : Option Nat := (List.range 64).find? fun c => c ∉ m.done

/-- R265: every chunk is NEW: the entry holds the new slot and version, in state IDLE, and the old slot is a spare. -/
def migrationEnd (s : State) (e : RegionEntry) (m : Migration) : State :=
  freeSlot (setRegion s { e with slot := m.target, version := m.version, migration := none }) e.slot m.retire

/-- R265: the next act of the engine on a region: the chunk is set to MOVING, or, once copied, to NEW; after the last one the
migration ends. The bytes and their poison keep their physical addresses, so no cell changes. -/
def migrationChunk (s : State) (region chunk : Nat) : State :=
  let e := regionEntry s region
  match e.migration with
  | none => s
  | some m =>
    let m' : Migration :=
      if m.moving = some chunk then { m with done := m.done ++ [chunk], moving := none }
      else if m.moving = none ∧ nextChunk m = some chunk then { m with moving := some chunk }
      else m
    if (nextChunk m').isNone then migrationEnd s e m' else setRegion s { e with migration := some m' }
/-- R265: the engine copies one chunk. -/
def execMigrationChunk (region chunk : Nat) (s : State) : Out := .next (migrationChunk s region chunk)

/-! ### Invalidation (R257) -/

/-- R257: a write to ICMD. -/
def execIcmdInvalidate (isle : Nat) (value : Word) (s : State) : Out := .next (writeIcmd s isle value)

/-- The pages a pin holds. -/
def pinPages (p : Pin) : Nat × Nat := (p.va / 4096, (p.va + p.size + 4095) / 4096)
/-- The range of pages as far as it lies within [lo, hi). -/
def clip (lo hi : Nat) (r : Nat × Nat) : Nat × Nat := (max lo r.1, min hi r.2)
/-- A range put among those that start later. -/
def insertRange (r : Nat × Nat) : List (Nat × Nat) → List (Nat × Nat)
  | [] => [r]
  | x :: l => if r.1 ≤ x.1 then r :: x :: l else x :: insertRange r l
/-- The pages at or above `from_` that the ranges, by rising start, cover. -/
def coveredPages (from_ : Nat) : List (Nat × Nat) → Nat
  | [] => 0
  | (a, b) :: l => (b - max a from_) + coveredPages (max b from_) l

/-- R257: the pages of the range that live tokens, engine transfers and relayouts of the address space still pin. -/
def pinnedPages (s : State) (asid : BitVec 12) (first n : Nat) : Nat :=
  let pins := (s.harts.filter fun h => h.asid == asid).flatMap hartPins ++
    (s.relayouts.filter fun r => r.asid == asid).flatMap relayoutPins
  let rs := pins.map fun p => clip first (first + n) (pinPages p)
  coveredPages 0 (rs.foldl (fun l r => insertRange r l) [])

/-- R257: the invalidation of an Isle is over: PINNED and DONE. -/
def invalidationDone (s : State) (isle : Nat) : State :=
  let c := s.isle isle
  if c.done then s
  else
    let n := pinnedPages s (BitVec.ofNat 12 (bits c.icmd 0 12)) (bits c.start 12 40) (bits c.icmd 12 32)
    s.setIsle isle { c with pinned := BitVec.ofNat 32 n, done := true }
/-- R257: an invalidation finishes. -/
def execInvalidationDone (isle : Nat) (s : State) : Out := .next (invalidationDone s isle)

/-! ### Relayouts (R227) -/

/-- R227: the Landing engine goes on with a relayout: its next act on the unit it converts. -/
def execRelayoutUnit (relayout : Nat) (s : State) : Out := .next (relayoutStep relayout s).state

/-! ### Engines of a hart -/

/-- R230: a read stream of the hart fetches `n` further elements. -/
def execStreamFetch (g m f n : Nat) (s : State) : Out := .next (onHart s g m fun s => (streamFetch f n s).state)
/-- R231: `n` buffered stores of a write stream are performed. -/
def execStreamWriteDrain (g m f n : Nat) (s : State) : Out := .next (onHart s g m fun s => (streamDrain f n s).state)

/-- R297, R273: the oldest transfer of the hart under the cursor performed, if its words are all there. -/
def completeTransfer (s : State) : State :=
  match s.hart.transfers with
  | [] => s
  | t :: r => if transferWaits t then s else performTransfer (setHart s { s.hart with transfers := r }) t

/-- A hart of a retired gang leaves once its last transfer has ended. -/
def dropEnded (s : State) (g m : Nat) : State :=
  if g ≠ 0 ∧ (findGang s g).isNone = true then
    { s with parked := s.parked.filter fun h => !(h.name == (g, m) && h.st == .exited && h.transfers.isEmpty) }
  else s
/-- R297: an engine transfer is performed. -/
def execEngineTransferComplete (g m : Nat) (s : State) : Out := .next (dropEnded (onHart s g m completeTransfer) g m)

/-- R238, R240, R274: PSEND is over once nothing is pending: sd, the instruction retires, and nothing of it is under way. -/
def psendDone (s : State) : State :=
  match s.hart.psend with
  | some t =>
    if t.pending.isEmpty then
      let s := (setHart (noShadows s) { (noShadows s).hart with psend := none, engine := false }).setRs t.rd (parcelCounts t)
      retireTo (s.modCsr fun c => { c with vstart := 0 }) (s.hart.pc + 4)
    else s
  | none => s
/-- R238: every parcel is acknowledged or dropped. -/
def execPsendComplete (g m : Nat) (s : State) : Out := .next (onHart s g m psendDone)

/-! ### Lines -/

/-- R248: a line leaves a core's L1D, written back first if dirty. -/
def execL1dEviction (core line : Nat) (s : State) : Out := .next (dropLine s core line)
/-- R295: a line leaves an Isle's remote-line buffer. -/
def execRemoteLineExpiry (isle line : Nat) (s : State) : Out :=
  .next { s with rlb := s.rlb.filter fun l => !(decide (l.isle = isle) && decide (l.line = line)) }

end Sys2Proof.Machine
end

