-- ==== Sys2Proof/Machine/Device.lean ====
section
/-!
DEFINITION. Events of the device as a whole: errors and repairs (R363-R365), power (R371, R372), the stages of start (R355,
R357, R358), drains (R367), writes of the control page (R354, R361), and SPDM (R369, R370).
-/
namespace Sys2Proof.Machine

/-! ### Locations (R363) -/

/-- R363: the structure code of a location. The number beneath it is laid out as log 21 says. -/
def locCode (loc : Word) : Nat := bits loc 56 8
/-- Codes 1 to 3: the core. -/
def locCore (loc : Word) : Nat :=
  match locCode loc with
  | 1 => bits loc 32 9
  | 2 => bits loc 2 9
  | _ => bits loc 5 9
/-- Code 2: the slot. -/
def locSlot (loc : Word) : Nat := bits loc 0 2
/-- Codes 4 and 6: the storage slot that holds the row. -/
def locStorage (loc : Word) : StorageSlot :=
  if locCode loc = 4 then .hbm (bits loc 24 4) (bits loc 0 15) else .lpddr (bits loc 32 3) (bits loc 15 17)
/-- R363: a location from its code and the number beneath it. -/
def locWord (code n : Nat) : Word := BitVec.ofNat 64 (code * 2 ^ 56 + n)
/-- Code 1: row `row` of array `array` of a core. -/
def coreLocation (core array row : Nat) : Word := locWord 1 (core * 2 ^ 32 + array * 2 ^ 24 + row % 2 ^ 24)
/-- Code 4: the row of a stack's bank that holds a line, by stack, channel, pseudo-channel, bank group, bank and row. -/
def rowLocation (stack row : Nat) (x : LinePlace) : Word :=
  locWord 4 (stack * 2 ^ 24 + (((x.channel * 2 + x.pseudo) * 4 + x.bankGroup) * 4 + x.bank) * 2 ^ 32 + row)
/-- Code 6: the row that holds line `line` of an LPDDR-6 slot of an Isle. -/
def lpddrLocation (isle index line : Nat) : Word :=
  locWord 6 (isle * 2 ^ 32 + index * 2 ^ 15 + (Config.lpddrRow line).toNat)
/-- Code 5: TSV group `group` of a channel. -/
def groupLocation (stack channel group : Nat) : Word := locWord 5 (stack * 2 ^ 10 + channel * 2 ^ 5 + group)
/-- What has spares of its own: the array of code 1, the channel of code 5. -/
def locGroup (loc : Word) : Word := if locCode loc = 1 then loc >>> 24 else loc >>> 5
/-- The Isle whose mailbox hears of the location. -/
def locIsle (loc : Word) : Nat :=
  match locCode loc with
  | 1 | 2 | 3 => isleOf (locCore loc)
  | 4 | 6 => (locStorage loc).isle
  | 5 => bits loc 10 4 / 2
  | _ => 0

/-! ### Lasting faults (R363) -/

/-- R354: RASWIN in clk, and RASCNT. -/
def rasWindow (s : State) : Nat := bits s.ctl.ras 8 16 * 3600 * 2500000000
def rasCount (s : State) : Nat := bits s.ctl.ras 0 8
/-- R363: the events of a location that count: those in (now - RASWIN, now]. -/
def countedEvents (s : State) (loc : Word) : List RasEvent :=
  s.rasEvents.filter fun e => e.location == loc && decide (s.clk < e.at_ + rasWindow s)
/-- R363: RASCNT correctable events, or one uncorrectable one. -/
def lasting (s : State) (loc : Word) : Bool :=
  let es := countedEvents s loc
  es.any (fun e => !e.correctable) || decide (rasCount s ≤ (es.filter (·.correctable)).length)

/-! ### Repairs (R365) -/

/-- The region a storage slot holds. -/
def regionAt (s : State) (x : StorageSlot) : Option Nat :=
  match s.regions.find? fun e => e.slot == x with
  | some e => some e.region
  | none =>
    let r := match x with
      | .hbm stack row => row * 16 + stack
      | .lpddr isle index => 523264 + index * 8 + isle
    if homeSlot r = x ∧ r < exposedRegions ∧ s.regions.all (fun e => e.region != r) = true then some r else none

/-- R365: the actions of the table, in its order; the number of one is what kind 0x08 reports (log 21). -/
inductive RepairAction where
  | spareRow
  | slotCapacity
  | spareLane
  | retireCore
  | moveRegion
  | spareGroup
  deriving DecidableEq, Repr

def RepairAction.code : RepairAction → Nat
  | .spareRow => 1
  | .slotCapacity => 2
  | .spareLane => 3
  | .retireCore => 4
  | .moveRegion => 5
  | .spareGroup => 6

/-- R365: the first action that applies to a location; none where no spare is left. -/
def repairAction (s : State) (loc : Word) : Option RepairAction :=
  let used := (s.sparesUsed.filter fun x => locCode x == locCode loc && locGroup x == locGroup loc).length
  match locCode loc with
  | 1 => if used < Config.spareRows then some .spareRow else none
  | 2 => if slotCap s (locCore loc) (locSlot loc) = 0 then none else some .slotCapacity
  | 3 =>
    if locCore loc ∉ s.lanesUsed then some .spareLane
    else if locCore loc ∈ s.retiredCores then none else some .retireCore
  | 4 | 6 =>
    match locStorage loc with
    | .hbm stack _ => if (firstSpare s true [stack]).isSome then some .moveRegion else none
    | .lpddr isle _ => if (firstSpare s false [isle]).isSome then some .moveRegion else none
  | 5 => if used = 0 then some .spareGroup else none
  | _ => none

/-- R365: a repair of the location is under way, or waits for what lets it begin. One for which no spare is left is not. -/
def underRepair (s : State) (loc : Word) : Bool :=
  s.repairs.any fun j => j.location == loc &&
    match j.stage with
    | .started _ => true
    | _ => (repairAction s loc).isSome

/-- R363, R365: a lasting finding: kind 0x07, which the host gets too in host-assisted mode (R359) and where the fault affects
running work (R366): for an uncorrectable event, and where a core is to be retired. The repair, where one applies and none is under
way, follows. -/
def lastingFound (s : State) (loc : Word) (uncorrectable : Bool) : State :=
  if underRepair s loc then s
  else
    let info := BitVec.ofNat 64 (locCode loc + if uncorrectable then 256 else 0)
    let assisted := bit s.ctl.mode 3
    let (s, index) := postNote s (locIsle loc) 0x07 0 0 0 loc info
      (assisted || uncorrectable || repairAction s loc == some .retireCore)
    match repairAction s loc with
    | some _ =>
      let stage : RepairStage := if assisted then .proposed else .approved
      { s with repairs := s.repairs ++ [⟨loc, stage, locIsle loc % 8, index⟩] }
    | none => s

/-! ### Reads that find an event (R266, R267, R364) -/

/-- R363: an event of a location is counted, and the location may then be lasting. -/
def countEvent (s : State) (loc : Word) (correctable : Bool) : State :=
  let s := { s with rasEvents := s.rasEvents ++ [⟨loc, s.clk, correctable⟩] }
  if lasting s loc then lastingFound s loc (!correctable) else s

/-- R363, R362: an uncorrectable event: kind 0x09 to the supervisor and the host, with the physical address where there is one. -/
def uncorrectable (s : State) (loc pa : Word) : State :=
  countEvent (postNote s (locIsle loc) 0x09 0 0 0 loc pa true).1 loc false

/-- R259, R260, R265: the slot that holds the line at a physical address and the version under which it lies there: the target's
once its chunk is NEW. -/
def lineSlot (s : State) (pa : Nat) : StorageSlot × Nat :=
  let e := regionEntry s (regionOf pa)
  match e.migration with
  | some m => if pa % 2 ^ 21 / 32768 ∈ m.done then (m.target, m.version) else (e.slot, e.version)
  | none => (e.slot, e.version)

/-- R363: the location at which an event of the line at `pa` counts: its row, or the TSV group in which all the errors lie. -/
def lineLocation (s : State) (pa : Nat) (group : Option Nat) : Word :=
  match lineSlot s pa with
  | (.hbm stack row, v) =>
    let x := linePlace (hashLine s v (BitVec.ofNat 15 (pa % 2 ^ 21 / 64)))
    match group with
    | some g => groupLocation stack x.channel g
    | none => rowLocation stack row x
  | (.lpddr isle index, _) => lpddrLocation isle index (pa % 2 ^ 21 / 64)

/-- R266: a line of main memory read with errors in its codeword: corrected and written back, or poisoned. A line that is poisoned
stays so, and errors that make a codeword of another line go unseen. -/
def readLine (s : State) (pa : Nat) (group : Bool) (errors : List (Nat × BitVec 8)) : State :=
  let k := pa / 64 * 64
  if mainBytes < k + 64 ∨ poisoned s k 64 = true then s
  else
    let word := withErrors (rsEncode ((List.range 64).map fun i => (memRead s.mem (k + i)).toNat)) errors
    let loc := lineLocation s k (if group then errorGroup errors else none)
    match rsDecode word with
    | none => uncorrectable (poisonKey s k) loc (BitVec.ofNat 64 k)
    | some c =>
      let data := ((c.take 64).foldr (fun b n => b + 256 * n) 0)
      if c = word then putBytes s k 64 data
      else countEvent (putBytes (promoteChunk s k) k 64 data) loc true

/-- R267: a protected word read with errors: corrected, or poisoned as `poison` says. -/
def readWord (s : State) (loc : Word) (errors : List (Nat × BitVec 8)) (poison : State → State) : State :=
  match secDed errors with
  | .clean => s
  | .corrected => countEvent s loc true
  | .double => uncorrectable (poison s) loc 0

/-- The hart that holds a slot of a core changed; `f` is told which slice the core is. -/
def onSlot (s : State) (core slot : Nat) (f : Nat → Hart → Hart) : State :=
  let g (h : Hart) : Hart :=
    if h.slot = slot then
      match h.cores.findIdx? (· == core) with
      | some c => f c h
      | none => h
    else h
  { s with hart := g s.hart, parked := s.parked.map g }

/-- R267: word `n` of slice `c` of vector register `r` poisoned. -/
def Hart.poisonVector (h : Hart) (r n c : Nat) : Hart :=
  let x := h.v[r % 32]'(Nat.mod_lt _ (by decide))
  { h with v := h.v.set (r % 32) { x with poison := x.poison ||| BitVec.ofNat 8192 (2 ^ (1024 * c + n % 1024)) } (Nat.mod_lt _ (by decide)) }
/-- R267: word `n` of mask `r` poisoned. -/
def Hart.poisonMask (h : Hart) (r n : Nat) : Hart :=
  let x := h.k[r % 8]'(Nat.mod_lt _ (by decide))
  { h with k := h.k.set (r % 8) { x with poison := x.poison ||| BitVec.ofNat 2048 (2 ^ (n % 2048)) } (Nat.mod_lt _ (by decide)) }
/-- R267: element `n` of tile `r` poisoned. -/
def Hart.poisonTile (h : Hart) (r n : Nat) : Hart :=
  let x := h.z[r % 8]'(Nat.mod_lt _ (by decide))
  { h with z := h.z.set (r % 8) { x with poison := x.poison ||| BitVec.ofNat 16384 (2 ^ (n % 16384)) } (Nat.mod_lt _ (by decide)) }
/-- R267: scalar register `r` poisoned; s0 holds no word. -/
def Hart.poisonScalar (h : Hart) (r : Nat) : Hart :=
  if r % 32 = 0 then h else { h with sPoison := h.sPoison ||| BitVec.ofNat 32 (2 ^ (r % 32)) }
/-- R230, R267: the buffered elements of a stream that lie in word `n` of its strip on slice `c`, poisoned. The oldest lies first
(log 21). -/
def Stream.poisonWord (f : Stream) (span n c : Nat) : Stream :=
  let inWord (i : Nat) : Bool :=
    let p := slotOf span f.width i
    p.1 == c && p.2 * f.width / 64 == n
  { f with buf := f.buf.mapIdx fun i x => { x with poison := x.poison || inWord i } }
/-- R267: word `n` of the strip of stream `i` on slice `c` poisoned. -/
def Hart.poisonStrip (h : Hart) (i n c : Nat) : Hart :=
  let f := (h.f[i % 8]'(Nat.mod_lt _ (by decide))).map (·.poisonWord h.cores.length n c)
  { h with f := h.f.set (i % 8) f (Nat.mod_lt _ (by decide)) }

/-- R267: word `n` of a line of a core's L1D poisoned. -/
def poisonL1d (s : State) (core line n : Nat) : State :=
  { s with l1d := s.l1d.map fun l =>
      if l.core = core ∧ l.line = line then { l with poison := l.poison ||| BitVec.ofNat 8 (2 ^ (n % 8)) } else l }

/-- R363, R364: the scrubber reads a place and finds the errors. What it reads counts as any read does; the numbers of arrays and
rows are those of log 21. An error in the instruction cache is repaired by fetching again (R328), and so is one in a translation
held (log 21). -/
def scrubbed (s : State) (place : StoragePlace) (group : Bool) (errors : List (Nat × BitVec 8)) : State :=
  match place with
  | .line pa => readLine s pa group errors
  | .region core off =>
    let k := coreKey core (off / 8 * 8)
    let array := if off < 0x1000000 then 0 else if off < 0x1100000 then 1 else 2
    if coreOffMapped off = false ∨ poisoned s k 8 = true then s
    else readWord s (coreLocation core array (off % 2 ^ 24 / 4096)) errors (poisonKey · k)
  | .vector core slot reg word =>
    readWord s (locWord 2 (core * 4 + slot % 4)) errors fun s => onSlot s core slot fun c h => h.poisonVector reg word c
  | .mask core slot reg word =>
    readWord s (coreLocation core 3 (((slot * 8 + reg) * 2048 + word) / 512)) errors fun s =>
      onSlot s core slot fun _ h => h.poisonMask reg word
  | .tile core slot reg elem =>
    readWord s (coreLocation core 4 (((slot * 8 + reg) * 16384 + elem) / 512)) errors fun s =>
      onSlot s core slot fun _ h => h.poisonTile reg elem
  | .scalar core slot reg =>
    readWord s (coreLocation core 5 ((slot * 32 + reg) / 512)) errors fun s => onSlot s core slot fun _ h => h.poisonScalar reg
  | .l1d core line word =>
    readWord s (coreLocation core 6 ((line % 1024 * 8 + word) / 512)) errors fun s => poisonL1d s core line word
  | .strip core slot stream word =>
    readWord s (coreLocation core 7 (((slot * 8 + stream) * 1024 + word) / 512)) errors fun s =>
      onSlot s core slot fun c h => h.poisonStrip stream word c
  | .icache core key =>
    readWord s (coreLocation core 8 (key / 4096 % 32)) errors fun s =>
      { s with icache := s.icache.filter fun w => !(w.core == core && w.key == key) }
  | .stc core va =>
    readWord s (coreLocation core 9 (va / 4096 % 16)) errors fun s =>
      { s with stc := s.stc.filter fun e => !(e.core == core && e.va == va) }
  | .engine core word => readWord s (coreLocation core 10 (word / 512)) errors id
  | .lane core lane => readWord s (locWord 3 (core * 2 ^ 5 + lane % 32)) errors id

/-- R364: the scrubber reads a place. -/
def execScrub (place : StoragePlace) (group : Bool) (errors : List (Nat × BitVec 8)) (s : State) : Out :=
  .next (scrubbed s place group errors)

/-! ### What a repair does (R365) -/

/-- R365: a core retired: gangs on it are pre-empted as by PREQ action 1, its bays close and their harts' VSTAT.BAYC is set
(R239), and it takes no placement. -/
def retireCore (s : State) (core : Nat) : State :=
  let on (g : Gang) : Bool := (g.status == .resident || g.status == .suspended) &&
    s.harts.any fun h => h.name.1 == g.gid.toNat && decide (core ∈ h.cores)
  let s := (s.gangs.filter on).foldl (fun s g => beginPreemption s g false) s
  let owners := (s.bays.filter fun b => b.core == core).map fun b => (b.gang.toNat, b.member)
  let f (h : Hart) : Hart :=
    if h.name ∈ owners then { h with csr := { h.csr with vstat := h.csr.vstat ||| 0x10 } } else h
  { s with
    hart := f s.hart, parked := s.parked.map f, bays := s.bays.filter fun b => b.core != core
    retiredCores := if core ∈ s.retiredCores then s.retiredCores else s.retiredCores ++ [core] }

/-- R365: capacity 32 → 24 → 16 → retired. -/
def reducedCap (cap : Nat) : Nat := if cap = 32 then 24 else if cap = 24 then 16 else 0

/-- R365, R335: the action begun on a location; none while it waits for the slot. The move of a region goes before other requests
for the region, so that the slot of the lasting row is the one that is retired. -/
def repairBegin (s : State) (loc : Word) (a : RepairAction) : Option State :=
  let core := locCore loc
  match a with
  | .spareRow | .spareGroup => some { s with sparesUsed := s.sparesUsed ++ [loc] }
  | .slotCapacity =>
    let slot := locSlot loc
    if slotTaken s core slot then none
    else some { s with slotCaps := (core, slot, reducedCap (slotCap s core slot)) ::
      s.slotCaps.filter fun c => !(c.1 == core && c.2.1 == slot) }
  | .spareLane => some { s with lanesUsed := s.lanesUsed ++ [core] }
  | .retireCore => some (retireCore s core)
  | .moveRegion =>
    match regionAt s (locStorage loc) with
    | some r =>
      let e := regionEntry s r
      match e.migration with
      | some m => some (setRegion s { e with migration := some { m with retire := true } })
      | none => some { s with migrations := ⟨r, .repair⟩ :: s.migrations.filter (· != ⟨r, .repair⟩) }
    | none =>
      if s.regions.any fun e => e.migration.any fun m => m.target == locStorage loc then none
      else some (freeSlot { s with sparesFreed := s.sparesFreed.filter (· != locStorage loc) } (locStorage loc) true)

/-- The job of a location replaced. -/
def setJob (s : State) (j : RepairJob) : State :=
  { s with repairs := s.repairs.map fun x => if x.location = j.location then j else x }

/-- R365: the repair of a location begins, once it is approved; gangs that stayed on a retired core are pre-empted again. -/
def repairStart (s : State) (loc : Word) : State :=
  match s.repairs.find? fun j => j.location == loc with
  | some j =>
    match j.stage, repairAction s loc with
    | .approved, some a =>
      match repairBegin s loc a with
      | some s => setJob s { j with stage := .started a.code }
      | none => s
    | .started 4, _ => retireCore s (locCore loc)
    | _, _ => s
  | none => s
/-- R365: a lasting location is repaired. -/
def execRepair (location : Word) (s : State) : Out := .next (repairStart s location)

/-- R359, R360: the reply to the kind 0x07 record: 1 lets the repair start; any other settles the record without it. -/
def repairReply (s : State) (loc : Word) : State :=
  match s.repairs.find? fun j => j.location == loc with
  | some ⟨_, .proposed, isle, some i⟩ =>
    let r := replyByte s isle i
    if r = 0 then s
    else if r = 1 then setJob s ⟨loc, .approved, isle, some i⟩
    else { s with repairs := s.repairs.filter fun j => j.location != loc }
  | _ => s
/-- R359: a repair is approved. -/
def execRepairApproval (location : Word) (s : State) : Out := .next (repairReply s location)

/-- R365: what a repair under way waits for: the region gone from the row, the gangs gone from the core. -/
def repairOver (s : State) (loc : Word) (code : Nat) : Bool :=
  match code with
  | 4 => s.harts.all fun h => h.name.1 == 0 || decide (locCore loc ∉ h.cores)
  | 5 => (regionAt s (locStorage loc)).isNone
  | _ => true

/-- R365, R359: a repair is complete: kind 0x08, in host-assisted mode to the host too; the structure that took over has no event yet (log 21). -/
def repairDone (s : State) (loc : Word) : State :=
  match s.repairs.find? fun j => j.location == loc with
  | some ⟨_, .started code, isle, _⟩ =>
    if repairOver s loc code then
      let s := { s with
        repairs := s.repairs.filter fun j => j.location != loc
        rasEvents := s.rasEvents.filter fun e => e.location != loc }
      (postNote s isle 0x08 0 0 0 loc (BitVec.ofNat 64 code) (bit s.ctl.mode 3)).1
    else s
  | _ => s
/-- R365: a repair finishes. -/
def execRepairComplete (location : Word) (s : State) : Out := .next (repairDone s location)

/-! ### Power (R371, R372) -/

/-- R371: the mean of the latest ms, where that has passed since the last measurement. The ms below 90 % of PLIMIT count until
they lower the level, and those above 4,200 W until one is not (R372). -/
def measured (s : State) (watts : Nat) : State :=
  if s.clk < s.measuredAt + 2500000 then s
  else
    let limit := bits s.ctl.power 16 16
    let level := powerLevel s
    let s := { s with
      watts := watts, measuredAt := s.clk
      lowPowerMs := if watts * 10 < limit * 9 then s.lowPowerMs + 1 else 0
      highPowerMs := if 4200 < watts then s.highPowerMs + 1 else 0 }
    if s.thermalHot then s
    else if limit < watts then setPowerLevel s (min 3 (level + 1))
    else if 100 ≤ s.lowPowerMs ∧ bits s.ctl.power 2 2 < level then setPowerLevel { s with lowPowerMs := 0 } (level - 1)
    else s
/-- R371: every 1 ms power is measured. -/
def execPowerMeasurement (watts : Nat) (s : State) : Out := .next (measured s watts)

/-- R372: the hottest die: one at 95 °C holds POWER.LEVEL at 3 until every die is below 90 °C. -/
def heated (s : State) (degrees : Nat) : State :=
  let hot := decide (95 ≤ degrees) || (s.thermalHot && decide (90 ≤ degrees))
  let s := { s with hottest := degrees, thermalHot := hot }
  if hot then setPowerLevel s 3 else s
/-- R372: the dies have a temperature. -/
def execThermalHold (degrees : Nat) (s : State) : Out := .next (heated s degrees)

/-- R372: the module trips: its power has exceeded 4,200 W for 10 ms, or a die has reached 110 °C. -/
def tripDue (s : State) : Bool := decide (10 ≤ s.highPowerMs) || decide (110 ≤ s.hottest)
/-- R358: a trip: all state but that of the stage 0 functions is lost, STAGE.FAIL = 5 and STAGE.NUM = 0. -/
def tripped (s : State) : State :=
  setStage { State.reset with
    ctl := s.ctl, sent := s.sent, nextTag := s.nextTag, thermalHot := s.thermalHot, hottest := s.hottest, watts := s.watts
    measuredAt := s.measuredAt, clk := s.clk, agenda := s.agenda, freeCtr := s.freeCtr } 0 5
/-- R358: a trip, where one is due. -/
def execPowerTrip (s : State) : Out := .next (if tripDue s then tripped s else s)

/-! ### The stages of start (R355, R357, R358) -/

/-- R355: power-good: stage 0. What acts next and the free values are the model's own. -/
def execPowerGood (s : State) : Out := .next { State.reset with agenda := s.agenda, freeCtr := s.freeCtr }
/-- R357: BOOTGO is written. -/
def execBootgo (s : State) : Out := .next (bootgo s)

/-- R260: the matrix of the rows is invertible, as far as its columns below `n` go. -/
def pivots : Nat → List (BitVec 15) → Bool
  | 0, _ => true
  | n + 1, rows =>
    match rows.find? (·.getLsbD n) with
    | none => false
    | some p => pivots n ((rows.erase p).map fun r => if r.getLsbD n then r ^^^ p else r)
/-- R260: a version that may be loaded: 1 to 15, 15 rows, not singular. -/
def versionOk (v : HashVersion) : Bool :=
  decide (1 ≤ v.version) && decide (v.version ≤ 15) && v.rows.length == 15 && pivots 15 v.rows

/-- R357: the supervisor harts, one in slot 3 of core 0 of each Isle. -/
def supervisorHarts (s : State) (starts : List HartStart) : List Hart :=
  starts.map fun x => bootHart s (64 * x.isle) (x.pc &&& ~~~3) (x.tvec &&& ~~~3) 1

/-- R357: in stage 1 the service firmware verifies the supervisor image that lies at storage key `image`, records its measurement
and starts a supervisor hart on each Isle; an image it refuses starts none. -/
def startSupervisors (s : State) (image : Nat) (starts : List HartStart) : State :=
  if imageFailure s image 2 = 0 ∧ starts.map (·.isle) = List.range 8 then
    { s with
      supervisorMeasure := Config.sha384 (storedBytes s image (256 + bits (loadWord s image) 32 32))
      parked := supervisorHarts s starts ++ s.parked }
  else s

/-- R357: the supervisor harts run. -/
def supervised (s : State) : Bool := slotTaken s 0 3

/-- R355, R358: memory training ends, and stage 2 is entered, for good where the training failed. -/
def memoryTrained (s : State) (failed : Bool) (versions : List HashVersion) : State :=
  let s := { s with regions := [], hashVersions := if failed then [] else versions.filter versionOk }
  setStage s 2 (if failed then 4 else 0)
/-- R357, R358: stage 1 goes on: first the supervisor harts start, then memory training finishes. -/
def execMemoryTraining (failed : Bool) (versions : List HashVersion) (image : Nat) (starts : List HartStart) (s : State) : Out :=
  .next (if stageNum s ≠ 1 then s
    else if supervised s then memoryTrained s failed versions
    else startSupervisors s image starts)

/-- R355: service firmware reports ready. -/
def execServiceReady (s : State) : Out :=
  .next (if stageNum s = 2 ∧ bits s.ctl.stage 8 8 = 0 then setStage s 3 0 else s)

/-! ### Writes of the control page (R354, R361, R367) -/

/-- R367: DRAIN.REQ = 1. -/
def execDrainRequest (s : State) : Out := .next (writeModuleCtl s 0x070 1)
/-- R367: DRAIN.REQ = 0. -/
def execDrainRelease (s : State) : Out := .next (writeModuleCtl s 0x070 0)
/-- R361: a SEED word is written. -/
def execSeedWrite (i : Nat) (value : Word) (s : State) : Out := .next (writeSeed s i value)
/-- R354: another register is written. -/
def execControlRegisterWrite (offset : Nat) (value : Word) (s : State) : Out := .next (writePlainCtl s offset value)

/-! ### SPDM (R368-R370) -/

/-- R369: the bytes of the request that stands. -/
def spdmRequest (s : State) : List Byte :=
  (List.range (bits s.ctl.spdmctl 0 13)).map fun i => s.ctl.spdmReq.extractLsb' (8 * i) 8
/-- R369: bytes put together, the first in the low bits. -/
def packBytes (l : List Byte) : Nat := l.foldr (fun b n => b.toNat + 256 * n) 0

/-- The bytes of a digest, the first in the low bits. -/
def digestBytes (d : BitVec 384) : List Byte := (List.range 48).map fun i => d.extractLsb' (8 * i) 8
/-- A number in two bytes and in three, the lowest first. -/
def twoBytes (n : Nat) : List Byte := [BitVec.ofNat 8 n, BitVec.ofNat 8 (n / 256)]
def threeBytes (n : Nat) : List Byte := twoBytes n ++ [BitVec.ofNat 8 (n / 65536)]
/-- R369: SPDM's ERROR response: an error code and its data. -/
def spdmError (code data : Nat) : List Byte := [0x12, 0x7F, BitVec.ofNat 8 code, BitVec.ofNat 8 data]

/-- R370: the digest that measurement `i` reports: all zeros for an image that is not yet verified. -/
def measurement (s : State) (i : Nat) : BitVec 384 :=
  if i = 1 then Config.bootMeasure else if i = 2 then s.serviceMeasure else s.supervisorMeasure
/-- R370: the block of measurement `i`: its index, the specification, its size, a digest of SHA-384. -/
def measurementBlock (s : State) (i : Nat) : List Byte :=
  [BitVec.ofNat 8 i, 1] ++ twoBytes 51 ++ [0] ++ twoBytes 48 ++ digestBytes (measurement s i)

/-- R368: the answer to GET_CERTIFICATE: the part of the chain that its Offset and Length name, of slot 0 alone. -/
def certificateAnswer (req : List Byte) : List Byte :=
  let field (i : Nat) : Nat := (req.getD i 0).toNat + 256 * (req.getD (i + 1) 0).toNat
  if req.getD 2 0 ≠ 0 then spdmError 1 0
  else
    let rest := Config.certificateChain.drop (field 4)
    let part := rest.take (min (field 6) 4088)
    [0x12, 0x02, 0, 0] ++ twoBytes part.length ++ twoBytes (rest.length - part.length) ++ part

/-- R370: the answer to GET_MEASUREMENTS: the number of measurements, all of them, or the one named; signed where asked. -/
def measurementAnswer (s : State) (req : List Byte) : List Byte :=
  let op := (req.getD 3 0).toNat
  let l := if op = 0 then some [] else if op = 255 then some [1, 2, 3] else if op ≤ 3 then some [op] else none
  match l with
  | none => spdmError 1 0
  | some l =>
    let blocks := l.flatMap (measurementBlock s)
    let body := [0x12, 0x60, if op = 0 then 3 else 0, 0, BitVec.ofNat 8 l.length] ++ threeBytes blocks.length ++ blocks ++
      Config.spdmNonce s.freeCtr ++ twoBytes 0
    if (req.getD 2 0).getLsbD 0 then body ++ Config.spdmSignature body s.freeCtr else body

/-- R369: the answer to a request: SPDM 1.2 lays it out (log 27), and one of another code is answered with ERROR. -/
def spdmResponse (s : State) (req : List Byte) : List Byte :=
  match (req.getD 1 0).toNat with
  | 0x81 => [0x12, 0x01, 0, 1] ++ digestBytes (Config.sha384 Config.certificateChain)
  | 0x82 => certificateAnswer req
  | 0xE0 => measurementAnswer s req
  | 0x84 | 0xE1 | 0xE3 | 0x83 => Config.spdmResponse req s.serviceMeasure s.supervisorMeasure s.freeCtr
  | c => spdmError 7 c

/-- R369: the codes that are answered otherwise than with ERROR. -/
def spdmCodes : List Nat := [0x84, 0xE1, 0xE3, 0x81, 0x82, 0x83, 0xE0]

/-- R369: the request that stands, if its code is `code` or none that the module knows, is answered: the response, its length in
[28:16], [13] cleared and [31] set. -/
def spdmAnswer (s : State) (code : Nat) : State :=
  let req := spdmRequest s
  let c := (req.getD 1 0).toNat
  if bit s.ctl.spdmctl 13 ∧ (c = code ∨ c ∉ spdmCodes) then
    let resp := (spdmResponse s req).take 4096
    let mask := BitVec.ofNat 32768 (2 ^ (8 * resp.length) - 1)
    let ctl := BitVec.ofNat 64 (2 ^ 31 + resp.length * 2 ^ 16 + bits s.ctl.spdmctl 0 13)
    { s with
      freeCtr := s.freeCtr + 1
      ctl := { s.ctl with
        spdmctl := ctl
        spdmResp := (s.ctl.spdmResp &&& ~~~mask) ||| BitVec.ofNat 32768 (packBytes resp) } }
  else s

/-- R369: GET_VERSION. -/
def execGetVersion (s : State) : Out := .next (spdmAnswer s 0x84)
/-- R369: GET_CAPABILITIES. -/
def execGetCapabilities (s : State) : Out := .next (spdmAnswer s 0xE1)
/-- R369: NEGOTIATE_ALGORITHMS. -/
def execNegotiateAlgorithms (s : State) : Out := .next (spdmAnswer s 0xE3)
/-- R369: GET_DIGESTS. -/
def execGetDigests (s : State) : Out := .next (spdmAnswer s 0x81)
/-- R368: GET_CERTIFICATE. -/
def execGetCertificate (s : State) : Out := .next (spdmAnswer s 0x82)
/-- R369: CHALLENGE. -/
def execChallenge (s : State) : Out := .next (spdmAnswer s 0x83)
/-- R370: GET_MEASUREMENTS. -/
def execGetMeasurements (s : State) : Out := .next (spdmAnswer s 0xE0)

end Sys2Proof.Machine
end

