-- ==== Sys2Proof/WellFormed.lean ====
section
/-!
DEFINITION. What the encoding alone makes an instruction (R12, R80-R85): an `Instr` whose operand fields break one of
these checks is no instruction, and its word traps ILLEGAL_INSN. Constraints that depend on a register's TYPE (R86) are
not here: they are issue checks of the instruction's meaning.
-/
namespace Sys2Proof

/-- R83, R103: rounding mode field 0-4, or 7 for VRM.RM. -/
def roundingModeOk (m : BitVec 3) : Bool := decide (m.toNat ≤ 4) || m == 7
/-- R83: scope codes 9-15 are unassigned. -/
def scopeOk (s : BitVec 4) : Bool := decide (s.toNat ≤ 8)
/-- R80: a 5-bit field that names a mask holds 0-7. -/
def isMaskField (d : BitVec 5) : Bool := decide (d.toNat ≤ 7)
/-- R135: the even register of a pair. -/
def isEven (d : BitVec 5) : Bool := d.toNat % 2 == 0
/-- R150: a register number that is a multiple of 4. -/
def isMultipleOf4 (d : BitVec 5) : Bool := d.toNat % 4 == 0
/-- R160, R178, R211: one of s4, s8, ..., s28. -/
def isS4k (d : BitVec 5) : Bool := d.toNat % 4 == 0 && d != 0
/-- R137: width codes 6 and 7 are unassigned. -/
def widthCodeOk (w : BitVec 3) : Bool := decide (w.toNat ≤ 5)
/-- R34, R148: TYPE codes of 19 or more are reserved. -/
def typeCodeOk (t : BitVec 5) : Bool := decide (t.toNat ≤ 18)
/-- R150: .sat is legal only for E4M3 (13) and E5M2 (14). -/
def packSatOk (y : Bool) (t : BitVec 5) : Bool := !y || t == 13 || t == 14
/-- R203: MD is 0 (row) or 1 (column). -/
def tileModeOk (m : BitVec 2) : Bool := decide (m.toNat ≤ 1)
/-- R38: the control and status register numbers that exist. -/
def csrListed (c : BitVec 10) : Bool :=
  decide (c.toNat ≤ 5) || (decide (0x010 ≤ c.toNat) && decide (c.toNat ≤ 0x016)) ||
    (decide (0x020 ≤ c.toNat) && decide (c.toNat ≤ 0x024)) ||
    (decide (0x028 ≤ c.toNat) && decide (c.toNat ≤ 0x02E)) ||
    (decide (0x100 ≤ c.toNat) && decide (c.toNat ≤ 0x105))

/-- The checks the encoding alone fixes, constructor by constructor. A step of the device or the outside world has no
encoding and no such check. -/
def Instr.wellFormed : Instr → Bool
  | .add _ _ _ => true
  | .sub _ _ _ => true
  | .and _ _ _ => true
  | .or _ _ _ => true
  | .xor _ _ _ => true
  | .andn _ _ _ => true
  | .sll _ _ _ => true
  | .srl _ _ _ => true
  | .sra _ _ _ => true
  | .mul _ _ _ => true
  | .mulh _ _ _ => true
  | .mulhu _ _ _ => true
  | .div _ _ _ => true
  | .divu _ _ _ => true
  | .rem _ _ _ => true
  | .remu _ _ _ => true
  | .min _ _ _ => true
  | .max _ _ _ => true
  | .minu _ _ _ => true
  | .maxu _ _ _ => true
  | .slt _ _ _ => true
  | .sltu _ _ _ => true
  | .clz _ _ => true
  | .ctz _ _ => true
  | .popc _ _ => true
  | .addi _ _ _ => true
  | .andi _ _ _ => true
  | .ori _ _ _ => true
  | .xori _ _ _ => true
  | .slti _ _ _ => true
  | .slli _ _ _ => true
  | .srli _ _ _ => true
  | .srai _ _ _ => true
  | .lih _ _ => true
  | .addpc _ _ => true
  | .liw _ _ => true
  | .fadd _ m _ _ _ => roundingModeOk m
  | .fsub _ m _ _ _ => roundingModeOk m
  | .fmul _ m _ _ _ => roundingModeOk m
  | .ffma _ m _ _ _ => roundingModeOk m
  | .fdiv _ m _ _ _ => roundingModeOk m
  | .fsqrt _ m _ _ => roundingModeOk m
  | .fmin _ _ _ _ => true
  | .fmax _ _ _ _ => true
  | .fcmpEq _ _ _ _ => true
  | .fcmpLt _ _ _ _ => true
  | .fcmpLe _ _ _ _ => true
  | .fcmpUnord _ _ _ _ => true
  | .fcvtToInt32 _ m _ _ => roundingModeOk m
  | .fcvtToUint32 _ m _ _ => roundingModeOk m
  | .fcvtToInt64 _ m _ _ => roundingModeOk m
  | .fcvtToUint64 _ m _ _ => roundingModeOk m
  | .fcvtFromInt32 _ m _ _ => roundingModeOk m
  | .fcvtFromUint32 _ m _ _ => roundingModeOk m
  | .fcvtFromInt64 _ m _ _ => roundingModeOk m
  | .fcvtFromUint64 _ m _ _ => roundingModeOk m
  | .fcvtFp _ m _ _ => roundingModeOk m
  | .ldB _ _ _ => true
  | .ldH _ _ _ => true
  | .ldW _ _ _ => true
  | .ldD _ _ _ => true
  | .ldBu _ _ _ => true
  | .ldHu _ _ _ => true
  | .ldWu _ _ _ => true
  | .stB _ _ _ => true
  | .stH _ _ _ => true
  | .stW _ _ _ => true
  | .stD _ _ _ => true
  | .amoAdd _ s _ _ _ => scopeOk s
  | .amoAnd _ s _ _ _ => scopeOk s
  | .amoOr _ s _ _ _ => scopeOk s
  | .amoXor _ s _ _ _ => scopeOk s
  | .amoMin _ s _ _ _ => scopeOk s
  | .amoMax _ s _ _ _ => scopeOk s
  | .amoMinu _ s _ _ _ => scopeOk s
  | .amoMaxu _ s _ _ _ => scopeOk s
  | .cas _ s _ _ _ => scopeOk s
  | .amoSwap _ s _ _ _ => scopeOk s
  | .beq _ _ _ => true
  | .bne _ _ _ => true
  | .blt _ _ _ => true
  | .bge _ _ _ => true
  | .bltu _ _ _ => true
  | .bgeu _ _ _ => true
  | .jal _ _ => true
  | .jalr _ _ _ => true
  | .csrr c _ => csrListed c
  | .csrw c _ => csrListed c
  | .csrx c _ _ => csrListed c
  | .ecall => true
  | .ebreak => true
  | .tret => true
  | .pause => true
  | .yield => true
  | .hexit => true
  | .gbar => true
  | .fenceSv s => scopeOk s
  | .fenceVS s => scopeOk s
  | .fenceVV s => scopeOk s
  | .fenceAll s => scopeOk s
  | .waitwEq s _ _ _ => scopeOk s
  | .waitwNe s _ _ _ => scopeOk s
  | .waitwGeu s _ _ _ => scopeOk s
  | .waitwLtu s _ _ _ => scopeOk s
  | .waitwGe s _ _ _ => scopeOk s
  | .waitwLt s _ _ _ => scopeOk s
  | .spawn _ _ => true
  | .vsetvl w _ _ => widthCodeOk w
  | .vsetvlX w _ _ => widthCodeOk w
  | .vcfg _ _ => true
  | .vaddVV _ _ _ _ _ => true
  | .vaddVS _ _ _ _ _ => true
  | .vaddVI _ _ _ _ _ => true
  | .vsubVV _ _ _ _ _ => true
  | .vsubVS _ _ _ _ _ => true
  | .vsubVI _ _ _ _ _ => true
  | .vmulVV _ _ _ _ _ => true
  | .vmulVS _ _ _ _ _ => true
  | .vmulhVV _ _ _ _ _ => true
  | .vmulhVS _ _ _ _ _ => true
  | .vfmaVV _ _ _ _ _ => true
  | .vfmaVS _ _ _ _ _ => true
  | .vdivVV _ _ _ _ _ => true
  | .vdivVS _ _ _ _ _ => true
  | .vminVV _ _ _ _ _ => true
  | .vminVS _ _ _ _ _ => true
  | .vmaxVV _ _ _ _ _ => true
  | .vmaxVS _ _ _ _ _ => true
  | .vandVV _ _ _ _ _ => true
  | .vandVS _ _ _ _ _ => true
  | .vandVI _ _ _ _ _ => true
  | .vorVV _ _ _ _ _ => true
  | .vorVS _ _ _ _ _ => true
  | .vorVI _ _ _ _ _ => true
  | .vxorVV _ _ _ _ _ => true
  | .vxorVS _ _ _ _ _ => true
  | .vxorVI _ _ _ _ _ => true
  | .vshlVV _ _ _ _ _ => true
  | .vshlVS _ _ _ _ _ => true
  | .vshlVI _ _ _ _ _ => true
  | .vshrVV _ _ _ _ _ => true
  | .vshrVS _ _ _ _ _ => true
  | .vshrVI _ _ _ _ _ => true
  | .vldexpVV _ _ _ _ _ => true
  | .vldexpVS _ _ _ _ _ => true
  | .vldexpVI _ _ _ _ _ => true
  | .vselVV _ _ _ _ _ => true
  | .vselVS _ _ _ _ _ => true
  | .vselVI _ _ _ _ _ => true
  | .vadcVV _ k _ _ _ => k != 0
  | .vadcVS _ k _ _ _ => k != 0
  | .vsbcVV _ k _ _ _ => k != 0
  | .vsbcVS _ k _ _ _ => k != 0
  | .vwaddVV _ _ _ _ d => isEven d
  | .vwaddVS _ _ _ _ d => isEven d
  | .vwmulVV _ _ _ _ d => isEven d
  | .vwmulVS _ _ _ _ d => isEven d
  | .vwfmaVV _ _ _ _ d => isEven d
  | .vwfmaVS _ _ _ _ d => isEven d
  | .vsgnVV _ _ _ _ _ => true
  | .vsgnVS _ _ _ _ _ => true
  | .vabs _ _ _ _ => true
  | .vrnd _ _ m _ _ => roundingModeOk m
  | .vcvt _ _ t _ _ => typeCodeOk t
  | .vunpack _ _ _ _ _ => true
  | .vsfuRcp _ _ _ _ => true
  | .vsfuRsqrt _ _ _ _ => true
  | .vsfuSqrt _ _ _ _ => true
  | .vsfuExp2 _ _ _ _ => true
  | .vsfuLog2 _ _ _ _ => true
  | .vsfuSin _ _ _ _ => true
  | .vsfuCos _ _ _ _ => true
  | .vcmpEqVV _ _ _ _ d => isMaskField d
  | .vcmpNeVV _ _ _ _ d => isMaskField d
  | .vcmpLtVV _ _ _ _ d => isMaskField d
  | .vcmpLeVV _ _ _ _ d => isMaskField d
  | .vcmpGtVV _ _ _ _ d => isMaskField d
  | .vcmpGeVV _ _ _ _ d => isMaskField d
  | .vcmpOrdVV _ _ _ _ d => isMaskField d
  | .vcmpUnordVV _ _ _ _ d => isMaskField d
  | .vcmpEqVS _ _ _ _ d => isMaskField d
  | .vcmpNeVS _ _ _ _ d => isMaskField d
  | .vcmpLtVS _ _ _ _ d => isMaskField d
  | .vcmpLeVS _ _ _ _ d => isMaskField d
  | .vcmpGtVS _ _ _ _ d => isMaskField d
  | .vcmpGeVS _ _ _ _ d => isMaskField d
  | .vcmpOrdVS _ _ _ _ d => isMaskField d
  | .vcmpUnordVS _ _ _ _ d => isMaskField d
  | .kand _ b a d => isMaskField d && isMaskField a && isMaskField b
  | .kor _ b a d => isMaskField d && isMaskField a && isMaskField b
  | .kxor _ b a d => isMaskField d && isMaskField a && isMaskField b
  | .kandn _ b a d => isMaskField d && isMaskField a && isMaskField b
  | .knot _ a d => isMaskField d && isMaskField a
  | .kshl _ a d => isMaskField d && isMaskField a
  | .kshr _ a d => isMaskField d && isMaskField a
  | .kpopc _ a _ => isMaskField a
  | .kfirst _ a _ => isMaskField a
  | .kmovs _ _ d => isMaskField d
  | .vzip _ a d => isEven d && isEven a
  | .vunzip _ a d => isEven d && isEven a
  | .vpack2 _ y m t a _ => isEven a && roundingModeOk m && packSatOk y t
  | .vpack4 _ y m t a _ => isMultipleOf4 a && roundingModeOk m && packSatOk y t
  | .vgather _ _ _ _ _ => true
  | .vcompress _ _ _ _ => true
  | .vexpand _ _ _ _ => true
  | .vmv _ _ _ _ => true
  | .viota _ _ _ => true
  | .vidx _ _ _ => true
  | .vslideup _ _ _ _ _ => true
  | .vslidedn _ _ _ _ _ => true
  | .vslide1 _ _ _ _ _ => true
  | .vbcast _ _ _ _ => true
  | .vext _ _ _ _ => true
  | .vins _ _ _ _ => true
  | .vxchg _ _ _ => true
  | .vrsumO _ _ _ _ => true
  | .vrsumT _ _ _ _ => true
  | .vrmax _ _ _ _ => true
  | .vrmin _ _ _ _ => true
  | .vrlog _ _ _ _ => true
  | .vmaxidx _ _ _ _ => true
  | .vsoft _ _ b _ _ => isS4k b
  | .vrand _ _ _ => true
  | .vrope _ _ _ _ d => isEven d
  | .vsort _ _ p a d => (!p || (isEven d && isEven a))
  | .vchks _ _ _ _ => true
  | .vlds _ _ _ _ p _ a d => (!p || (isEven d && a != 31))
  | .vmergeLo _ _ _ _ => true
  | .vmergeHi _ _ _ _ => true
  | .vmergec _ _ _ _ _ => true
  | .vinter _ _ _ _ => true
  | .vuniq _ _ _ => true
  | .vsrev _ _ _ => true
  | .vcmx _ _ a d => isEven d && isEven a
  | .vrankLb _ _ _ _ => true
  | .vrankUb _ _ _ _ => true
  | .vpart _ _ _ _ => true
  | .zrcfg _ _ _ _ => true
  | .zrpush _ _ a _ => isEven a
  | .zrpushL _ _ _ a _ => isEven a
  | .zrmerge _ _ _ => true
  | .zrst _ _ _ => true
  | .zrread k a _ => isEven a && isMaskField k
  | .zrhdr a _ => isS4k a
  | .zrth _ _ => true
  | .vroute k b _ d => k != 0 && isEven d && b != 31
  | .zop _ _ _ _ _ => true
  | .zops _ _ _ _ _ => true
  | .zpop _ _ _ _ _ => true
  | .zmovv _ _ d _ m _ => tileModeOk m && isEven d
  | .zmovz _ _ d _ m _ => tileModeOk m && isEven d
  | .zcvt _ _ _ _ m _ => tileModeOk m
  | .zcvtSc _ _ _ a m _ => tileModeOk m && a != 31
  | .zrowstat _ _ _ _ m _ => tileModeOk m
  | .zclr _ _ => true
  | .zwait _ _ => true
  | .zld _ _ _ _ => true
  | .zst _ _ _ _ => true
  | .pcvt _ y x p _ _ _ _ => (!y || (!x && p != 0))
  | .gtscfg _ _ _ => true
  | .gtsnext a => isS4k a
  | .vprobe _ _ q => q != 0
  | .vprobeFf _ _ q => q != 0
  | .vunpin q => q != 0
  | .vld _ _ _ _ _ _ => true
  | .vst _ _ _ _ _ _ => true
  | .vldx _ _ _ _ _ _ => true
  | .vstx _ _ _ _ _ _ => true
  | .vamoAdd _ _ _ _ _ _ => true
  | .vamoAnd _ _ _ _ _ _ => true
  | .vamoOr _ _ _ _ _ _ => true
  | .vamoXor _ _ _ _ _ _ => true
  | .vamoMin _ _ _ _ _ _ => true
  | .vamoMax _ _ _ _ _ _ => true
  | .vamoMinu _ _ _ _ _ _ => true
  | .vamoMaxu _ _ _ _ _ _ => true
  | .lmld _ _ _ _ _ => true
  | .lmst _ _ _ _ _ => true
  | .thset _ _ _ => true
  | .thget _ _ _ => true
  | .tld _ _ _ _ _ => true
  | .tst _ _ _ _ _ => true
  | .trelayout _ _ _ _ => true
  | .twait _ => true
  | .scfg _ _ a _ => decide (a.toNat ≤ 29)
  | .srd _ _ _ => true
  | .swr _ _ _ => true
  | .savail s _ _ => decide (s.toNat ≤ 1)
  | .cpy _ _ _ _ _ => true
  | .vxlate _ _ _ b _ _ => decide (b.toNat ≤ 29)
  | .pfxlook _ b _ _ => b != 31
  | .pfxins _ b _ _ => b != 31
  | .pfxdet _ b _ _ => b != 31
  | .pfxevict _ b _ _ => b != 31
  | .pbay _ _ _ => true
  | .psend _ _ _ _ _ => true
  | .waitwWake _ _ => true
  | .gbarWake _ _ => true
  | .pauseExpiry _ _ => true
  | .watchdogExpiry _ _ => true
  | .dependenceEvaluation _ => true
  | .dependenceRetry _ => true
  | .dependencePoll _ => true
  | .gangPlacement _ _ => true
  | .keyReadRetry _ _ => true
  | .entryReserving _ => true
  | .unplaceableReport _ => true
  | .preemptionGraceExpiry _ _ => true
  | .gangPreemption _ => true
  | .contextSaveDone _ => true
  | .gangRestore _ _ => true
  | .notificationDelivery _ => true
  | .probeFaultReply _ _ => true
  | .preqPreempt _ => true
  | .preqEnd _ => true
  | .preqReserved _ => true
  | .mreqRehash _ _ _ => true
  | .mreqMoveHbm _ _ => true
  | .mreqMoveLpddr _ _ => true
  | .rowMissRehash _ => true
  | .migrationStart _ => true
  | .migrationChunk _ _ => true
  | .icmdInvalidate _ _ => true
  | .invalidationDone _ => true
  | .relayoutUnit _ => true
  | .streamFetch _ _ _ _ => true
  | .streamWriteDrain _ _ _ _ => true
  | .engineTransferComplete _ _ => true
  | .psendComplete _ _ => true
  | .l1dEviction _ _ => true
  | .remoteLineExpiry _ _ => true
  | .scrub _ _ _ => true
  | .repair _ => true
  | .repairApproval _ => true
  | .repairComplete _ => true
  | .powerMeasurement _ => true
  | .thermalHold _ => true
  | .powerTrip => true
  | .powerGood => true
  | .bootgo => true
  | .memoryTraining _ _ _ _ => true
  | .serviceReady => true
  | .drainRequest => true
  | .drainRelease => true
  | .seedWrite _ _ => true
  | .controlRegisterWrite _ _ => true
  | .getVersion => true
  | .getCapabilities => true
  | .negotiateAlgorithms => true
  | .getDigests => true
  | .getCertificate => true
  | .challenge => true
  | .getMeasurements => true
  | .read _ => true
  | .write _ => true
  | .atomic _ => true
  | .pfxlookMessage _ => true
  | .pfxinsMessage _ => true
  | .pfxdetMessage _ => true
  | .pfxevictMessage _ => true
  | .atomicWait _ => true
  | .atomicWaitReply _ => true
  | .atomicWaitTimeout _ => true
  | .spawnMessage _ => true
  | .parcel _ => true
  | .reply _ => true
  | .requestTimeout _ => true
  | .rdmaWrite _ _ _ => true
  | .rdmaRead _ _ _ => true
  | .send _ _ => true
  | .atomicFetchAdd _ _ _ => true
  | .atomicCompareSwap _ _ _ _ => true
  | .rdmaCompletion _ _ => true
  | .connectionError _ => true
  | .peerLost _ => true
  | .illegalInsn _ => true
  | .instructionFetchFault => true
  | .preemptionWindowExpiry _ _ => true

end Sys2Proof
end

