-- ==== Sys2Proof/Decode.lean ====
section
/-!
DEFINITION. The decoder and, after it, the encoder. A word is split once into the seven fields of R79; the major opcode
selects a group (R82), the function fields select the instruction (R83, R84), and the fixed zero fields and the checks
of `Instr.wellFormed` are made. `decode` is total: what is no instruction is rejected by name (R85).
`noncomputable` marks the definitions that build an `Instr`: Lean's runtime gives a constructor with fields a tag of at
most 244 and the opcode table has 378 rows, so Lean compiles no code for them. They reduce in the kernel like any other.
-/
namespace Sys2Proof

/-- The fields of an instruction word (R79). Every format is a grouping of these seven. -/
structure Fields where
  /-- [31] -/
  c : BitVec 1
  /-- [30:25] -/
  f6 : BitVec 6
  /-- [24:22] -/
  k : BitVec 3
  /-- [21:17] -/
  b : BitVec 5
  /-- [16:12] -/
  a : BitVec 5
  /-- [11:7] -/
  d : BitVec 5
  /-- [6:0] -/
  op : BitVec 7
  deriving DecidableEq, Repr

/-- R79: the fields of a word. -/
def splitWord (w : BitVec 32) : Fields :=
  { c := w.extractLsb' 31 1, f6 := w.extractLsb' 25 6, k := w.extractLsb' 22 3, b := w.extractLsb' 17 5,
    a := w.extractLsb' 12 5, d := w.extractLsb' 7 5, op := w.extractLsb' 0 7 }

/-- R79: the word that holds the fields. -/
def joinWord (f : Fields) : BitVec 32 := f.c ++ f.f6 ++ f.k ++ f.b ++ f.a ++ f.d ++ f.op

/-- Why bytes are no instruction. All of them trap ILLEGAL_INSN (R85). -/
inductive DecodeError where
  /-- The major opcode is 0x7F or not assigned (R82). -/
  | unassignedOpcode
  /-- The function value is not assigned, or a reserved or unused field is not zero (R80, R83, R84). -/
  | unassignedFunction
  /-- An operand field holds a value the encoding does not admit (`Instr.wellFormed`). -/
  | illFormedOperand
  deriving DecidableEq, Repr

/-- Major opcode 0x01 (R98, R99). -/
def decodeOp01 (f : Fields) : Option Instr :=
  if f.c = 0x0#1 ∧ f.f6 = 0x0#6 ∧ f.k = 0x0#3 then some (.add f.b f.a f.d)
  else if f.c = 0x0#1 ∧ f.f6 = 0x0#6 ∧ f.k = 0x1#3 then some (.sub f.b f.a f.d)
  else if f.c = 0x0#1 ∧ f.f6 = 0x0#6 ∧ f.k = 0x2#3 then some (.and f.b f.a f.d)
  else if f.c = 0x0#1 ∧ f.f6 = 0x0#6 ∧ f.k = 0x3#3 then some (.or f.b f.a f.d)
  else if f.c = 0x0#1 ∧ f.f6 = 0x0#6 ∧ f.k = 0x4#3 then some (.xor f.b f.a f.d)
  else if f.c = 0x0#1 ∧ f.f6 = 0x0#6 ∧ f.k = 0x5#3 then some (.andn f.b f.a f.d)
  else if f.c = 0x0#1 ∧ f.f6 = 0x0#6 ∧ f.k = 0x6#3 then some (.sll f.b f.a f.d)
  else if f.c = 0x0#1 ∧ f.f6 = 0x0#6 ∧ f.k = 0x7#3 then some (.srl f.b f.a f.d)
  else if f.c = 0x0#1 ∧ f.f6 = 0x1#6 ∧ f.k = 0x0#3 then some (.sra f.b f.a f.d)
  else if f.c = 0x0#1 ∧ f.f6 = 0x1#6 ∧ f.k = 0x1#3 then some (.mul f.b f.a f.d)
  else if f.c = 0x0#1 ∧ f.f6 = 0x1#6 ∧ f.k = 0x2#3 then some (.mulh f.b f.a f.d)
  else if f.c = 0x0#1 ∧ f.f6 = 0x1#6 ∧ f.k = 0x3#3 then some (.mulhu f.b f.a f.d)
  else if f.c = 0x0#1 ∧ f.f6 = 0x1#6 ∧ f.k = 0x4#3 then some (.div f.b f.a f.d)
  else if f.c = 0x0#1 ∧ f.f6 = 0x1#6 ∧ f.k = 0x5#3 then some (.divu f.b f.a f.d)
  else if f.c = 0x0#1 ∧ f.f6 = 0x1#6 ∧ f.k = 0x6#3 then some (.rem f.b f.a f.d)
  else if f.c = 0x0#1 ∧ f.f6 = 0x1#6 ∧ f.k = 0x7#3 then some (.remu f.b f.a f.d)
  else if f.c = 0x0#1 ∧ f.f6 = 0x2#6 ∧ f.k = 0x0#3 then some (.min f.b f.a f.d)
  else if f.c = 0x0#1 ∧ f.f6 = 0x2#6 ∧ f.k = 0x1#3 then some (.max f.b f.a f.d)
  else if f.c = 0x0#1 ∧ f.f6 = 0x2#6 ∧ f.k = 0x2#3 then some (.minu f.b f.a f.d)
  else if f.c = 0x0#1 ∧ f.f6 = 0x2#6 ∧ f.k = 0x3#3 then some (.maxu f.b f.a f.d)
  else if f.c = 0x0#1 ∧ f.f6 = 0x2#6 ∧ f.k = 0x4#3 then some (.slt f.b f.a f.d)
  else if f.c = 0x0#1 ∧ f.f6 = 0x2#6 ∧ f.k = 0x5#3 then some (.sltu f.b f.a f.d)
  else if f.c = 0x0#1 ∧ f.f6 = 0x2#6 ∧ f.k = 0x6#3 ∧ f.b = 0x0#5 then some (.clz f.a f.d)
  else if f.c = 0x0#1 ∧ f.f6 = 0x2#6 ∧ f.k = 0x7#3 ∧ f.b = 0x0#5 then some (.ctz f.a f.d)
  else if f.c = 0x0#1 ∧ f.f6 = 0x3#6 ∧ f.k = 0x0#3 ∧ f.b = 0x0#5 then some (.popc f.a f.d)
  else none

/-- Major opcode 0x02 (R100). -/
def decodeOp02 (f : Fields) : Option Instr :=
  some (.addi (f.c ++ f.f6 ++ f.k ++ f.b) f.a f.d)

/-- Major opcode 0x03 (R100). -/
def decodeOp03 (f : Fields) : Option Instr :=
  some (.andi (f.c ++ f.f6 ++ f.k ++ f.b) f.a f.d)

/-- Major opcode 0x04 (R100). -/
def decodeOp04 (f : Fields) : Option Instr :=
  some (.ori (f.c ++ f.f6 ++ f.k ++ f.b) f.a f.d)

/-- Major opcode 0x05 (R100). -/
def decodeOp05 (f : Fields) : Option Instr :=
  some (.xori (f.c ++ f.f6 ++ f.k ++ f.b) f.a f.d)

/-- Major opcode 0x06 (R100). -/
def decodeOp06 (f : Fields) : Option Instr :=
  some (.slti (f.c ++ f.f6 ++ f.k ++ f.b) f.a f.d)

/-- Major opcode 0x07 (R101). -/
def decodeOp07 (f : Fields) : Option Instr :=
  if f.c = 0x0#1 ∧ f.f6 = 0x0#6 ∧ f.k.extractLsb' 1 2 = 0x0#2 then some (.slli ((f.k.extractLsb' 0 1) ++ f.b) f.a f.d)
  else if f.c = 0x0#1 ∧ f.f6 = 0x20#6 ∧ f.k.extractLsb' 1 2 = 0x0#2 then some (.srli ((f.k.extractLsb' 0 1) ++ f.b) f.a f.d)
  else if f.c = 0x1#1 ∧ f.f6 = 0x0#6 ∧ f.k.extractLsb' 1 2 = 0x0#2 then some (.srai ((f.k.extractLsb' 0 1) ++ f.b) f.a f.d)
  else none

/-- Major opcode 0x08 (R102). -/
def decodeOp08 (f : Fields) : Option Instr :=
  some (.lih (f.c ++ f.f6 ++ f.k ++ f.b ++ f.a) f.d)

/-- Major opcode 0x09 (R102). -/
def decodeOp09 (f : Fields) : Option Instr :=
  some (.addpc (f.c ++ f.f6 ++ f.k ++ f.b ++ f.a) f.d)

/-- Major opcode 0x0A (R103, R104, R105). -/
def decodeOp0A (f : Fields) : Option Instr :=
  if f.c = 0x0#1 ∧ f.f6.extractLsb' 1 5 = 0x0#5 then some (.fadd (f.f6.getLsbD 0) f.k f.b f.a f.d)
  else if f.c = 0x0#1 ∧ f.f6.extractLsb' 1 5 = 0x1#5 then some (.fsub (f.f6.getLsbD 0) f.k f.b f.a f.d)
  else if f.c = 0x0#1 ∧ f.f6.extractLsb' 1 5 = 0x2#5 then some (.fmul (f.f6.getLsbD 0) f.k f.b f.a f.d)
  else if f.c = 0x0#1 ∧ f.f6.extractLsb' 1 5 = 0x3#5 then some (.ffma (f.f6.getLsbD 0) f.k f.b f.a f.d)
  else if f.c = 0x0#1 ∧ f.f6.extractLsb' 1 5 = 0x4#5 then some (.fdiv (f.f6.getLsbD 0) f.k f.b f.a f.d)
  else if f.c = 0x0#1 ∧ f.f6.extractLsb' 1 5 = 0x5#5 ∧ f.b = 0x0#5 then some (.fsqrt (f.f6.getLsbD 0) f.k f.a f.d)
  else if f.c = 0x0#1 ∧ f.f6.extractLsb' 1 5 = 0x6#5 ∧ f.k = 0x0#3 then some (.fmin (f.f6.getLsbD 0) f.b f.a f.d)
  else if f.c = 0x0#1 ∧ f.f6.extractLsb' 1 5 = 0x7#5 ∧ f.k = 0x0#3 then some (.fmax (f.f6.getLsbD 0) f.b f.a f.d)
  else if f.c = 0x0#1 ∧ f.f6.extractLsb' 1 5 = 0x8#5 ∧ f.k = 0x0#3 then some (.fcmpEq (f.f6.getLsbD 0) f.b f.a f.d)
  else if f.c = 0x0#1 ∧ f.f6.extractLsb' 1 5 = 0x8#5 ∧ f.k = 0x1#3 then some (.fcmpLt (f.f6.getLsbD 0) f.b f.a f.d)
  else if f.c = 0x0#1 ∧ f.f6.extractLsb' 1 5 = 0x8#5 ∧ f.k = 0x2#3 then some (.fcmpLe (f.f6.getLsbD 0) f.b f.a f.d)
  else if f.c = 0x0#1 ∧ f.f6.extractLsb' 1 5 = 0x8#5 ∧ f.k = 0x3#3 then some (.fcmpUnord (f.f6.getLsbD 0) f.b f.a f.d)
  else if f.c = 0x0#1 ∧ f.f6.extractLsb' 1 5 = 0x9#5 ∧ f.b = 0x0#5 then some (.fcvtToInt32 (f.f6.getLsbD 0) f.k f.a f.d)
  else if f.c = 0x0#1 ∧ f.f6.extractLsb' 1 5 = 0x9#5 ∧ f.b = 0x1#5 then some (.fcvtToUint32 (f.f6.getLsbD 0) f.k f.a f.d)
  else if f.c = 0x0#1 ∧ f.f6.extractLsb' 1 5 = 0x9#5 ∧ f.b = 0x2#5 then some (.fcvtToInt64 (f.f6.getLsbD 0) f.k f.a f.d)
  else if f.c = 0x0#1 ∧ f.f6.extractLsb' 1 5 = 0x9#5 ∧ f.b = 0x3#5 then some (.fcvtToUint64 (f.f6.getLsbD 0) f.k f.a f.d)
  else if f.c = 0x0#1 ∧ f.f6.extractLsb' 1 5 = 0x9#5 ∧ f.b = 0x8#5 then some (.fcvtFromInt32 (f.f6.getLsbD 0) f.k f.a f.d)
  else if f.c = 0x0#1 ∧ f.f6.extractLsb' 1 5 = 0x9#5 ∧ f.b = 0x9#5 then some (.fcvtFromUint32 (f.f6.getLsbD 0) f.k f.a f.d)
  else if f.c = 0x0#1 ∧ f.f6.extractLsb' 1 5 = 0x9#5 ∧ f.b = 0xa#5 then some (.fcvtFromInt64 (f.f6.getLsbD 0) f.k f.a f.d)
  else if f.c = 0x0#1 ∧ f.f6.extractLsb' 1 5 = 0x9#5 ∧ f.b = 0xb#5 then some (.fcvtFromUint64 (f.f6.getLsbD 0) f.k f.a f.d)
  else if f.c = 0x0#1 ∧ f.f6.extractLsb' 1 5 = 0x9#5 ∧ f.b = 0x10#5 then some (.fcvtFp (f.f6.getLsbD 0) f.k f.a f.d)
  else none

/-- Major opcode 0x0B (R107). -/
def decodeOp0B (f : Fields) : Option Instr :=
  some (.ldB (f.c ++ f.f6 ++ f.k ++ f.b) f.a f.d)

/-- Major opcode 0x0C (R107). -/
def decodeOp0C (f : Fields) : Option Instr :=
  some (.ldH (f.c ++ f.f6 ++ f.k ++ f.b) f.a f.d)

/-- Major opcode 0x0D (R107). -/
def decodeOp0D (f : Fields) : Option Instr :=
  some (.ldW (f.c ++ f.f6 ++ f.k ++ f.b) f.a f.d)

/-- Major opcode 0x0E (R107). -/
def decodeOp0E (f : Fields) : Option Instr :=
  some (.ldD (f.c ++ f.f6 ++ f.k ++ f.b) f.a f.d)

/-- Major opcode 0x0F (R107). -/
def decodeOp0F (f : Fields) : Option Instr :=
  some (.ldBu (f.c ++ f.f6 ++ f.k ++ f.b) f.a f.d)

/-- Major opcode 0x10 (R107). -/
def decodeOp10 (f : Fields) : Option Instr :=
  some (.ldHu (f.c ++ f.f6 ++ f.k ++ f.b) f.a f.d)

/-- Major opcode 0x11 (R107). -/
def decodeOp11 (f : Fields) : Option Instr :=
  some (.ldWu (f.c ++ f.f6 ++ f.k ++ f.b) f.a f.d)

/-- Major opcode 0x12 (R108). -/
def decodeOp12 (f : Fields) : Option Instr :=
  if f.b.extractLsb' 0 3 = 0x0#3 then some (.stB (f.c ++ f.f6 ++ f.k ++ (f.b.extractLsb' 3 2)) f.a f.d)
  else if f.b.extractLsb' 0 3 = 0x1#3 then some (.stH (f.c ++ f.f6 ++ f.k ++ (f.b.extractLsb' 3 2)) f.a f.d)
  else if f.b.extractLsb' 0 3 = 0x2#3 then some (.stW (f.c ++ f.f6 ++ f.k ++ (f.b.extractLsb' 3 2)) f.a f.d)
  else if f.b.extractLsb' 0 3 = 0x3#3 then some (.stD (f.c ++ f.f6 ++ f.k ++ (f.b.extractLsb' 3 2)) f.a f.d)
  else none

/-- Major opcode 0x13 (R109). -/
def decodeOp13 (f : Fields) : Option Instr :=
  if f.c = 0x0#1 ∧ f.f6.extractLsb' 3 3 = 0x0#3 then some (.amoAdd (f.f6.extractLsb' 1 2) ((f.f6.extractLsb' 0 1) ++ f.k) f.b f.a f.d)
  else if f.c = 0x0#1 ∧ f.f6.extractLsb' 3 3 = 0x1#3 then some (.amoAnd (f.f6.extractLsb' 1 2) ((f.f6.extractLsb' 0 1) ++ f.k) f.b f.a f.d)
  else if f.c = 0x0#1 ∧ f.f6.extractLsb' 3 3 = 0x2#3 then some (.amoOr (f.f6.extractLsb' 1 2) ((f.f6.extractLsb' 0 1) ++ f.k) f.b f.a f.d)
  else if f.c = 0x0#1 ∧ f.f6.extractLsb' 3 3 = 0x3#3 then some (.amoXor (f.f6.extractLsb' 1 2) ((f.f6.extractLsb' 0 1) ++ f.k) f.b f.a f.d)
  else if f.c = 0x0#1 ∧ f.f6.extractLsb' 3 3 = 0x4#3 then some (.amoMin (f.f6.extractLsb' 1 2) ((f.f6.extractLsb' 0 1) ++ f.k) f.b f.a f.d)
  else if f.c = 0x0#1 ∧ f.f6.extractLsb' 3 3 = 0x5#3 then some (.amoMax (f.f6.extractLsb' 1 2) ((f.f6.extractLsb' 0 1) ++ f.k) f.b f.a f.d)
  else if f.c = 0x0#1 ∧ f.f6.extractLsb' 3 3 = 0x6#3 then some (.amoMinu (f.f6.extractLsb' 1 2) ((f.f6.extractLsb' 0 1) ++ f.k) f.b f.a f.d)
  else if f.c = 0x0#1 ∧ f.f6.extractLsb' 3 3 = 0x7#3 then some (.amoMaxu (f.f6.extractLsb' 1 2) ((f.f6.extractLsb' 0 1) ++ f.k) f.b f.a f.d)
  else none

/-- Major opcode 0x14 (R110, R109). -/
def decodeOp14 (f : Fields) : Option Instr :=
  if f.c = 0x0#1 ∧ f.f6.extractLsb' 3 3 = 0x0#3 then some (.cas (f.f6.extractLsb' 1 2) ((f.f6.extractLsb' 0 1) ++ f.k) f.b f.a f.d)
  else if f.c = 0x0#1 ∧ f.f6.extractLsb' 3 3 = 0x1#3 then some (.amoSwap (f.f6.extractLsb' 1 2) ((f.f6.extractLsb' 0 1) ++ f.k) f.b f.a f.d)
  else none

/-- Major opcode 0x15 (R112). -/
def decodeOp15 (f : Fields) : Option Instr :=
  if f.b.extractLsb' 0 3 = 0x0#3 then some (.beq (f.c ++ f.f6 ++ f.k ++ (f.b.extractLsb' 3 2)) f.a f.d)
  else if f.b.extractLsb' 0 3 = 0x1#3 then some (.bne (f.c ++ f.f6 ++ f.k ++ (f.b.extractLsb' 3 2)) f.a f.d)
  else if f.b.extractLsb' 0 3 = 0x2#3 then some (.blt (f.c ++ f.f6 ++ f.k ++ (f.b.extractLsb' 3 2)) f.a f.d)
  else if f.b.extractLsb' 0 3 = 0x3#3 then some (.bge (f.c ++ f.f6 ++ f.k ++ (f.b.extractLsb' 3 2)) f.a f.d)
  else if f.b.extractLsb' 0 3 = 0x4#3 then some (.bltu (f.c ++ f.f6 ++ f.k ++ (f.b.extractLsb' 3 2)) f.a f.d)
  else if f.b.extractLsb' 0 3 = 0x5#3 then some (.bgeu (f.c ++ f.f6 ++ f.k ++ (f.b.extractLsb' 3 2)) f.a f.d)
  else none

/-- Major opcode 0x16 (R113). -/
def decodeOp16 (f : Fields) : Option Instr :=
  some (.jal (f.c ++ f.f6 ++ f.k ++ f.b ++ f.a) f.d)

/-- Major opcode 0x17 (R113). -/
def decodeOp17 (f : Fields) : Option Instr :=
  some (.jalr (f.c ++ f.f6 ++ f.k ++ f.b) f.a f.d)

/-- Major opcode 0x18 (R114). -/
def decodeOp18 (f : Fields) : Option Instr :=
  if f.b = 0x0#5 ∧ f.a = 0x0#5 then some (.csrr (f.c ++ f.f6 ++ f.k) f.d)
  else if f.b = 0x1#5 ∧ f.d = 0x0#5 then some (.csrw (f.c ++ f.f6 ++ f.k) f.a)
  else if f.b = 0x2#5 then some (.csrx (f.c ++ f.f6 ++ f.k) f.a f.d)
  else none

/-- Major opcode 0x19 (R118, R117, R121, R129, R127). -/
def decodeOp19 (f : Fields) : Option Instr :=
  if f.c = 0x0#1 ∧ f.f6 = 0x0#6 ∧ f.k = 0x0#3 ∧ f.b = 0x0#5 ∧ f.a = 0x0#5 ∧ f.d = 0x0#5 then some (.ecall)
  else if f.c = 0x0#1 ∧ f.f6 = 0x0#6 ∧ f.k = 0x1#3 ∧ f.b = 0x0#5 ∧ f.a = 0x0#5 ∧ f.d = 0x0#5 then some (.ebreak)
  else if f.c = 0x0#1 ∧ f.f6 = 0x0#6 ∧ f.k = 0x2#3 ∧ f.b = 0x0#5 ∧ f.a = 0x0#5 ∧ f.d = 0x0#5 then some (.tret)
  else if f.c = 0x0#1 ∧ f.f6 = 0x0#6 ∧ f.k = 0x3#3 ∧ f.b = 0x0#5 ∧ f.a = 0x0#5 ∧ f.d = 0x0#5 then some (.pause)
  else if f.c = 0x0#1 ∧ f.f6 = 0x0#6 ∧ f.k = 0x4#3 ∧ f.b = 0x0#5 ∧ f.a = 0x0#5 ∧ f.d = 0x0#5 then some (.yield)
  else if f.c = 0x0#1 ∧ f.f6 = 0x0#6 ∧ f.k = 0x5#3 ∧ f.b = 0x0#5 ∧ f.a = 0x0#5 ∧ f.d = 0x0#5 then some (.hexit)
  else if f.c = 0x0#1 ∧ f.f6 = 0x0#6 ∧ f.k = 0x6#3 ∧ f.b = 0x0#5 ∧ f.a = 0x0#5 ∧ f.d = 0x0#5 then some (.gbar)
  else none

/-- Major opcode 0x1A (R120). -/
def decodeOp1A (f : Fields) : Option Instr :=
  if f.c = 0x0#1 ∧ f.f6.extractLsb' 1 5 = 0x0#5 ∧ f.b = 0x0#5 ∧ f.a = 0x0#5 ∧ f.d = 0x0#5 then some (.fenceSv ((f.f6.extractLsb' 0 1) ++ f.k))
  else if f.c = 0x0#1 ∧ f.f6.extractLsb' 1 5 = 0x1#5 ∧ f.b = 0x0#5 ∧ f.a = 0x0#5 ∧ f.d = 0x0#5 then some (.fenceVS ((f.f6.extractLsb' 0 1) ++ f.k))
  else if f.c = 0x0#1 ∧ f.f6.extractLsb' 1 5 = 0x2#5 ∧ f.b = 0x0#5 ∧ f.a = 0x0#5 ∧ f.d = 0x0#5 then some (.fenceVV ((f.f6.extractLsb' 0 1) ++ f.k))
  else if f.c = 0x0#1 ∧ f.f6.extractLsb' 1 5 = 0x3#5 ∧ f.b = 0x0#5 ∧ f.a = 0x0#5 ∧ f.d = 0x0#5 then some (.fenceAll ((f.f6.extractLsb' 0 1) ++ f.k))
  else none

/-- Major opcode 0x1B (R122). -/
def decodeOp1B (f : Fields) : Option Instr :=
  if f.c = 0x0#1 ∧ f.f6.extractLsb' 4 2 = 0x0#2 ∧ f.k = 0x0#3 then some (.waitwEq (f.f6.extractLsb' 0 4) f.b f.a f.d)
  else if f.c = 0x0#1 ∧ f.f6.extractLsb' 4 2 = 0x0#2 ∧ f.k = 0x1#3 then some (.waitwNe (f.f6.extractLsb' 0 4) f.b f.a f.d)
  else if f.c = 0x0#1 ∧ f.f6.extractLsb' 4 2 = 0x0#2 ∧ f.k = 0x2#3 then some (.waitwGeu (f.f6.extractLsb' 0 4) f.b f.a f.d)
  else if f.c = 0x0#1 ∧ f.f6.extractLsb' 4 2 = 0x0#2 ∧ f.k = 0x3#3 then some (.waitwLtu (f.f6.extractLsb' 0 4) f.b f.a f.d)
  else if f.c = 0x0#1 ∧ f.f6.extractLsb' 4 2 = 0x0#2 ∧ f.k = 0x4#3 then some (.waitwGe (f.f6.extractLsb' 0 4) f.b f.a f.d)
  else if f.c = 0x0#1 ∧ f.f6.extractLsb' 4 2 = 0x0#2 ∧ f.k = 0x5#3 then some (.waitwLt (f.f6.extractLsb' 0 4) f.b f.a f.d)
  else none

/-- Major opcode 0x1C (R125). -/
def decodeOp1C (f : Fields) : Option Instr :=
  if f.c = 0x0#1 ∧ f.f6 = 0x0#6 ∧ f.k = 0x0#3 ∧ f.b = 0x0#5 then some (.spawn f.a f.d)
  else none

/-- Major opcode 0x20 (R137, R138). -/
def decodeOp20 (f : Fields) : Option Instr :=
  if f.c = 0x0#1 ∧ f.f6.extractLsb' 3 3 = 0x0#3 ∧ f.k = 0x0#3 ∧ f.b = 0x0#5 then some (.vsetvl (f.f6.extractLsb' 0 3) f.a f.d)
  else if f.c = 0x0#1 ∧ f.f6.extractLsb' 3 3 = 0x2#3 ∧ f.k = 0x0#3 ∧ f.b = 0x0#5 then some (.vsetvlX (f.f6.extractLsb' 0 3) f.a f.d)
  else if f.c = 0x0#1 ∧ f.f6 = 0x20#6 ∧ f.k = 0x0#3 ∧ f.a = 0x0#5 then some (.vcfg f.b f.d)
  else none

/-- Major opcode 0x21 (R139, R142, R145, R146). -/
def decodeOp21 (f : Fields) : Option Instr :=
  if f.f6 = 0x0#6 then some (.vaddVV (f.c.getLsbD 0) f.k f.b f.a f.d)
  else if f.f6 = 0x1#6 then some (.vsubVV (f.c.getLsbD 0) f.k f.b f.a f.d)
  else if f.f6 = 0x2#6 then some (.vmulVV (f.c.getLsbD 0) f.k f.b f.a f.d)
  else if f.f6 = 0x3#6 then some (.vmulhVV (f.c.getLsbD 0) f.k f.b f.a f.d)
  else if f.f6 = 0x4#6 then some (.vfmaVV (f.c.getLsbD 0) f.k f.b f.a f.d)
  else if f.f6 = 0x5#6 then some (.vdivVV (f.c.getLsbD 0) f.k f.b f.a f.d)
  else if f.f6 = 0x6#6 then some (.vminVV (f.c.getLsbD 0) f.k f.b f.a f.d)
  else if f.f6 = 0x7#6 then some (.vmaxVV (f.c.getLsbD 0) f.k f.b f.a f.d)
  else if f.f6 = 0x8#6 then some (.vandVV (f.c.getLsbD 0) f.k f.b f.a f.d)
  else if f.f6 = 0x9#6 then some (.vorVV (f.c.getLsbD 0) f.k f.b f.a f.d)
  else if f.f6 = 0xa#6 then some (.vxorVV (f.c.getLsbD 0) f.k f.b f.a f.d)
  else if f.f6 = 0xb#6 then some (.vshlVV (f.c.getLsbD 0) f.k f.b f.a f.d)
  else if f.f6 = 0xc#6 then some (.vshrVV (f.c.getLsbD 0) f.k f.b f.a f.d)
  else if f.f6 = 0xd#6 then some (.vldexpVV (f.c.getLsbD 0) f.k f.b f.a f.d)
  else if f.f6 = 0xe#6 then some (.vselVV (f.c.getLsbD 0) f.k f.b f.a f.d)
  else if f.f6 = 0xf#6 then some (.vadcVV (f.c.getLsbD 0) f.k f.b f.a f.d)
  else if f.f6 = 0x10#6 then some (.vsbcVV (f.c.getLsbD 0) f.k f.b f.a f.d)
  else if f.f6 = 0x11#6 then some (.vwaddVV (f.c.getLsbD 0) f.k f.b f.a f.d)
  else if f.f6 = 0x12#6 then some (.vwmulVV (f.c.getLsbD 0) f.k f.b f.a f.d)
  else if f.f6 = 0x13#6 then some (.vwfmaVV (f.c.getLsbD 0) f.k f.b f.a f.d)
  else if f.f6 = 0x14#6 then some (.vsgnVV (f.c.getLsbD 0) f.k f.b f.a f.d)
  else none

/-- Major opcode 0x22 (R139, R142, R145, R146). -/
def decodeOp22 (f : Fields) : Option Instr :=
  if f.f6 = 0x0#6 then some (.vaddVS (f.c.getLsbD 0) f.k f.b f.a f.d)
  else if f.f6 = 0x1#6 then some (.vsubVS (f.c.getLsbD 0) f.k f.b f.a f.d)
  else if f.f6 = 0x2#6 then some (.vmulVS (f.c.getLsbD 0) f.k f.b f.a f.d)
  else if f.f6 = 0x3#6 then some (.vmulhVS (f.c.getLsbD 0) f.k f.b f.a f.d)
  else if f.f6 = 0x4#6 then some (.vfmaVS (f.c.getLsbD 0) f.k f.b f.a f.d)
  else if f.f6 = 0x5#6 then some (.vdivVS (f.c.getLsbD 0) f.k f.b f.a f.d)
  else if f.f6 = 0x6#6 then some (.vminVS (f.c.getLsbD 0) f.k f.b f.a f.d)
  else if f.f6 = 0x7#6 then some (.vmaxVS (f.c.getLsbD 0) f.k f.b f.a f.d)
  else if f.f6 = 0x8#6 then some (.vandVS (f.c.getLsbD 0) f.k f.b f.a f.d)
  else if f.f6 = 0x9#6 then some (.vorVS (f.c.getLsbD 0) f.k f.b f.a f.d)
  else if f.f6 = 0xa#6 then some (.vxorVS (f.c.getLsbD 0) f.k f.b f.a f.d)
  else if f.f6 = 0xb#6 then some (.vshlVS (f.c.getLsbD 0) f.k f.b f.a f.d)
  else if f.f6 = 0xc#6 then some (.vshrVS (f.c.getLsbD 0) f.k f.b f.a f.d)
  else if f.f6 = 0xd#6 then some (.vldexpVS (f.c.getLsbD 0) f.k f.b f.a f.d)
  else if f.f6 = 0xe#6 then some (.vselVS (f.c.getLsbD 0) f.k f.b f.a f.d)
  else if f.f6 = 0xf#6 then some (.vadcVS (f.c.getLsbD 0) f.k f.b f.a f.d)
  else if f.f6 = 0x10#6 then some (.vsbcVS (f.c.getLsbD 0) f.k f.b f.a f.d)
  else if f.f6 = 0x11#6 then some (.vwaddVS (f.c.getLsbD 0) f.k f.b f.a f.d)
  else if f.f6 = 0x12#6 then some (.vwmulVS (f.c.getLsbD 0) f.k f.b f.a f.d)
  else if f.f6 = 0x13#6 then some (.vwfmaVS (f.c.getLsbD 0) f.k f.b f.a f.d)
  else if f.f6 = 0x14#6 then some (.vsgnVS (f.c.getLsbD 0) f.k f.b f.a f.d)
  else none

/-- Major opcode 0x23 (R139, R142). -/
def decodeOp23 (f : Fields) : Option Instr :=
  if f.f6 = 0x0#6 then some (.vaddVI (f.c.getLsbD 0) f.k f.b f.a f.d)
  else if f.f6 = 0x1#6 then some (.vsubVI (f.c.getLsbD 0) f.k f.b f.a f.d)
  else if f.f6 = 0x8#6 then some (.vandVI (f.c.getLsbD 0) f.k f.b f.a f.d)
  else if f.f6 = 0x9#6 then some (.vorVI (f.c.getLsbD 0) f.k f.b f.a f.d)
  else if f.f6 = 0xa#6 then some (.vxorVI (f.c.getLsbD 0) f.k f.b f.a f.d)
  else if f.f6 = 0xb#6 then some (.vshlVI (f.c.getLsbD 0) f.k f.b f.a f.d)
  else if f.f6 = 0xc#6 then some (.vshrVI (f.c.getLsbD 0) f.k f.b f.a f.d)
  else if f.f6 = 0xd#6 then some (.vldexpVI (f.c.getLsbD 0) f.k f.b f.a f.d)
  else if f.f6 = 0xe#6 then some (.vselVI (f.c.getLsbD 0) f.k f.b f.a f.d)
  else none

/-- Major opcode 0x24 (R140, R148, R149, R141). -/
def decodeOp24 (f : Fields) : Option Instr :=
  if f.f6 = 0x0#6 ∧ f.b = 0x0#5 then some (.vabs (f.c.getLsbD 0) f.k f.a f.d)
  else if f.f6 = 0x1#6 ∧ f.b.extractLsb' 3 2 = 0x0#2 then some (.vrnd (f.c.getLsbD 0) f.k (f.b.extractLsb' 0 3) f.a f.d)
  else if f.f6 = 0x2#6 then some (.vcvt (f.c.getLsbD 0) f.k f.b f.a f.d)
  else if f.f6 = 0x3#6 then some (.vunpack (f.c.getLsbD 0) f.k f.b f.a f.d)
  else if f.f6 = 0x4#6 ∧ f.b = 0x0#5 then some (.vsfuRcp (f.c.getLsbD 0) f.k f.a f.d)
  else if f.f6 = 0x4#6 ∧ f.b = 0x1#5 then some (.vsfuRsqrt (f.c.getLsbD 0) f.k f.a f.d)
  else if f.f6 = 0x4#6 ∧ f.b = 0x2#5 then some (.vsfuSqrt (f.c.getLsbD 0) f.k f.a f.d)
  else if f.f6 = 0x4#6 ∧ f.b = 0x3#5 then some (.vsfuExp2 (f.c.getLsbD 0) f.k f.a f.d)
  else if f.f6 = 0x4#6 ∧ f.b = 0x4#5 then some (.vsfuLog2 (f.c.getLsbD 0) f.k f.a f.d)
  else if f.f6 = 0x4#6 ∧ f.b = 0x5#5 then some (.vsfuSin (f.c.getLsbD 0) f.k f.a f.d)
  else if f.f6 = 0x4#6 ∧ f.b = 0x6#5 then some (.vsfuCos (f.c.getLsbD 0) f.k f.a f.d)
  else none

/-- Major opcode 0x25 (R143). -/
def decodeOp25 (f : Fields) : Option Instr :=
  if f.f6 = 0x0#6 then some (.vcmpEqVV (f.c.getLsbD 0) f.k f.b f.a f.d)
  else if f.f6 = 0x1#6 then some (.vcmpNeVV (f.c.getLsbD 0) f.k f.b f.a f.d)
  else if f.f6 = 0x2#6 then some (.vcmpLtVV (f.c.getLsbD 0) f.k f.b f.a f.d)
  else if f.f6 = 0x3#6 then some (.vcmpLeVV (f.c.getLsbD 0) f.k f.b f.a f.d)
  else if f.f6 = 0x4#6 then some (.vcmpGtVV (f.c.getLsbD 0) f.k f.b f.a f.d)
  else if f.f6 = 0x5#6 then some (.vcmpGeVV (f.c.getLsbD 0) f.k f.b f.a f.d)
  else if f.f6 = 0x6#6 then some (.vcmpOrdVV (f.c.getLsbD 0) f.k f.b f.a f.d)
  else if f.f6 = 0x7#6 then some (.vcmpUnordVV (f.c.getLsbD 0) f.k f.b f.a f.d)
  else none

/-- Major opcode 0x26 (R143). -/
def decodeOp26 (f : Fields) : Option Instr :=
  if f.f6 = 0x0#6 then some (.vcmpEqVS (f.c.getLsbD 0) f.k f.b f.a f.d)
  else if f.f6 = 0x1#6 then some (.vcmpNeVS (f.c.getLsbD 0) f.k f.b f.a f.d)
  else if f.f6 = 0x2#6 then some (.vcmpLtVS (f.c.getLsbD 0) f.k f.b f.a f.d)
  else if f.f6 = 0x3#6 then some (.vcmpLeVS (f.c.getLsbD 0) f.k f.b f.a f.d)
  else if f.f6 = 0x4#6 then some (.vcmpGtVS (f.c.getLsbD 0) f.k f.b f.a f.d)
  else if f.f6 = 0x5#6 then some (.vcmpGeVS (f.c.getLsbD 0) f.k f.b f.a f.d)
  else if f.f6 = 0x6#6 then some (.vcmpOrdVS (f.c.getLsbD 0) f.k f.b f.a f.d)
  else if f.f6 = 0x7#6 then some (.vcmpUnordVS (f.c.getLsbD 0) f.k f.b f.a f.d)
  else none

/-- Major opcode 0x27 (R144). -/
def decodeOp27 (f : Fields) : Option Instr :=
  if f.f6 = 0x0#6 ∧ f.k = 0x0#3 then some (.kand (f.c.getLsbD 0) f.b f.a f.d)
  else if f.f6 = 0x1#6 ∧ f.k = 0x0#3 then some (.kor (f.c.getLsbD 0) f.b f.a f.d)
  else if f.f6 = 0x2#6 ∧ f.k = 0x0#3 then some (.kxor (f.c.getLsbD 0) f.b f.a f.d)
  else if f.f6 = 0x3#6 ∧ f.k = 0x0#3 then some (.kandn (f.c.getLsbD 0) f.b f.a f.d)
  else if f.f6 = 0x4#6 ∧ f.k = 0x0#3 ∧ f.b = 0x0#5 then some (.knot (f.c.getLsbD 0) f.a f.d)
  else if f.f6 = 0x5#6 ∧ f.k = 0x0#3 ∧ f.b = 0x0#5 then some (.kshl (f.c.getLsbD 0) f.a f.d)
  else if f.f6 = 0x6#6 ∧ f.k = 0x0#3 ∧ f.b = 0x0#5 then some (.kshr (f.c.getLsbD 0) f.a f.d)
  else if f.f6 = 0x7#6 ∧ f.k = 0x0#3 ∧ f.b = 0x0#5 then some (.kpopc (f.c.getLsbD 0) f.a f.d)
  else if f.f6 = 0x8#6 ∧ f.k = 0x0#3 ∧ f.b = 0x0#5 then some (.kfirst (f.c.getLsbD 0) f.a f.d)
  else if f.f6 = 0x9#6 ∧ f.k = 0x0#3 ∧ f.b = 0x0#5 then some (.kmovs (f.c.getLsbD 0) f.a f.d)
  else none

/-- Major opcode 0x28 (R147, R150). -/
def decodeOp28 (f : Fields) : Option Instr :=
  if f.f6 = 0x0#6 ∧ f.k = 0x0#3 ∧ f.b = 0x0#5 then some (.vzip (f.c.getLsbD 0) f.a f.d)
  else if f.f6 = 0x1#6 ∧ f.k = 0x0#3 ∧ f.b = 0x0#5 then some (.vunzip (f.c.getLsbD 0) f.a f.d)
  else if f.f6.extractLsb' 0 5 = 0x2#5 then some (.vpack2 (f.c.getLsbD 0) (f.f6.getLsbD 5) f.k f.b f.a f.d)
  else if f.f6.extractLsb' 0 5 = 0x3#5 then some (.vpack4 (f.c.getLsbD 0) (f.f6.getLsbD 5) f.k f.b f.a f.d)
  else none

/-- Major opcode 0x29 (R154, R155, R151). -/
def decodeOp29 (f : Fields) : Option Instr :=
  if f.f6 = 0x0#6 then some (.vgather (f.c.getLsbD 0) f.k f.b f.a f.d)
  else if f.f6 = 0x1#6 ∧ f.b = 0x0#5 then some (.vcompress (f.c.getLsbD 0) f.k f.a f.d)
  else if f.f6 = 0x2#6 ∧ f.b = 0x0#5 then some (.vexpand (f.c.getLsbD 0) f.k f.a f.d)
  else if f.f6 = 0x3#6 ∧ f.b = 0x0#5 then some (.vmv (f.c.getLsbD 0) f.k f.a f.d)
  else if f.f6 = 0x4#6 ∧ f.b = 0x0#5 ∧ f.a = 0x0#5 then some (.viota (f.c.getLsbD 0) f.k f.d)
  else if f.f6 = 0x5#6 ∧ f.b = 0x0#5 ∧ f.a = 0x0#5 then some (.vidx (f.c.getLsbD 0) f.k f.d)
  else none

/-- Major opcode 0x2A (R153, R151, R152, R156). -/
def decodeOp2A (f : Fields) : Option Instr :=
  if f.f6 = 0x0#6 then some (.vslideup (f.c.getLsbD 0) f.k f.b f.a f.d)
  else if f.f6 = 0x1#6 then some (.vslidedn (f.c.getLsbD 0) f.k f.b f.a f.d)
  else if f.f6 = 0x2#6 then some (.vslide1 (f.c.getLsbD 0) f.k f.b f.a f.d)
  else if f.f6 = 0x3#6 ∧ f.a = 0x0#5 then some (.vbcast (f.c.getLsbD 0) f.k f.b f.d)
  else if f.f6 = 0x4#6 ∧ f.k = 0x0#3 then some (.vext (f.c.getLsbD 0) f.b f.a f.d)
  else if f.f6 = 0x5#6 ∧ f.k = 0x0#3 then some (.vins (f.c.getLsbD 0) f.b f.a f.d)
  else if f.c = 0x0#1 ∧ f.f6 = 0x6#6 ∧ f.k = 0x0#3 then some (.vxchg f.b f.a f.d)
  else none

/-- Major opcode 0x2B (R157, R158, R159). -/
def decodeOp2B (f : Fields) : Option Instr :=
  if f.f6 = 0x0#6 ∧ f.b = 0x0#5 then some (.vrsumO (f.c.getLsbD 0) f.k f.a f.d)
  else if f.f6 = 0x1#6 ∧ f.b = 0x0#5 then some (.vrsumT (f.c.getLsbD 0) f.k f.a f.d)
  else if f.f6 = 0x2#6 ∧ f.b = 0x0#5 then some (.vrmax (f.c.getLsbD 0) f.k f.a f.d)
  else if f.f6 = 0x3#6 ∧ f.b = 0x0#5 then some (.vrmin (f.c.getLsbD 0) f.k f.a f.d)
  else if f.f6 = 0x4#6 ∧ f.b = 0x0#5 then some (.vrlog (f.c.getLsbD 0) f.k f.a f.d)
  else if f.f6 = 0x5#6 ∧ f.b = 0x0#5 then some (.vmaxidx (f.c.getLsbD 0) f.k f.a f.d)
  else none

/-- Major opcode 0x2C (R160, R161, R162). -/
def decodeOp2C (f : Fields) : Option Instr :=
  if f.f6 = 0x0#6 then some (.vsoft (f.c.getLsbD 0) f.k f.b f.a f.d)
  else if f.f6 = 0x1#6 ∧ f.b = 0x0#5 ∧ f.a = 0x0#5 then some (.vrand (f.c.getLsbD 0) f.k f.d)
  else if f.f6 = 0x2#6 then some (.vrope (f.c.getLsbD 0) f.k f.b f.a f.d)
  else none

/-- Major opcode 0x40 (R169). -/
def decodeOp40 (f : Fields) : Option Instr :=
  if f.f6.extractLsb' 2 4 = 0x0#4 ∧ f.k = 0x0#3 ∧ f.b = 0x0#5 then some (.vsort (f.c.getLsbD 0) (f.f6.getLsbD 1) (f.f6.getLsbD 0) f.a f.d)
  else none

/-- Major opcode 0x41 (R170). -/
def decodeOp41 (f : Fields) : Option Instr :=
  if f.f6.extractLsb' 0 1 = 0x0#1 ∧ f.f6.extractLsb' 2 4 = 0x0#4 ∧ f.k = 0x0#3 ∧ f.b = 0x0#5 then some (.vchks (f.c.getLsbD 0) (f.f6.getLsbD 1) f.a f.d)
  else none

/-- Major opcode 0x42 (R171). -/
def decodeOp42 (f : Fields) : Option Instr :=
  if f.k = 0x0#3 then some (.vlds (f.c.getLsbD 0) (f.f6.extractLsb' 3 3) (f.f6.getLsbD 2) (f.f6.getLsbD 1) (f.f6.getLsbD 0) f.b f.a f.d)
  else none

/-- Major opcode 0x43 (R172). -/
def decodeOp43 (f : Fields) : Option Instr :=
  if f.f6 = 0x0#6 ∧ f.k = 0x0#3 then some (.vmergeLo (f.c.getLsbD 0) f.b f.a f.d)
  else if f.f6 = 0x1#6 ∧ f.k = 0x0#3 then some (.vmergeHi (f.c.getLsbD 0) f.b f.a f.d)
  else if f.f6.extractLsb' 5 1 = 0x1#1 ∧ f.k = 0x0#3 then some (.vmergec (f.c.getLsbD 0) (f.f6.extractLsb' 0 5) f.b f.a f.d)
  else none

/-- Major opcode 0x44 (R173, R175, R174). -/
def decodeOp44 (f : Fields) : Option Instr :=
  if f.f6 = 0x0#6 ∧ f.k = 0x0#3 then some (.vinter (f.c.getLsbD 0) f.b f.a f.d)
  else if f.f6 = 0x1#6 ∧ f.k = 0x0#3 ∧ f.b = 0x0#5 then some (.vuniq (f.c.getLsbD 0) f.a f.d)
  else if f.f6 = 0x2#6 ∧ f.k = 0x0#3 ∧ f.b = 0x0#5 then some (.vsrev (f.c.getLsbD 0) f.a f.d)
  else if f.f6 = 0x3#6 ∧ f.b = 0x0#5 then some (.vcmx (f.c.getLsbD 0) f.k f.a f.d)
  else if f.f6 = 0x4#6 ∧ f.k = 0x0#3 then some (.vrankLb (f.c.getLsbD 0) f.b f.a f.d)
  else if f.f6 = 0x5#6 ∧ f.k = 0x0#3 then some (.vrankUb (f.c.getLsbD 0) f.b f.a f.d)
  else if f.f6 = 0x6#6 ∧ f.k = 0x0#3 then some (.vpart (f.c.getLsbD 0) f.b f.a f.d)
  else none

/-- Major opcode 0x45 (R179, R180, R185, R184, R186, R187, R188). -/
noncomputable def decodeOp45 (f : Fields) : Option Instr :=
  if f.c = 0x0#1 ∧ f.f6 = 0x0#6 ∧ f.d.extractLsb' 3 2 = 0x0#2 then some (.zrcfg f.k f.b f.a (f.d.extractLsb' 0 3))
  else if f.f6 = 0x1#6 ∧ f.b = 0x0#5 ∧ f.d.extractLsb' 3 2 = 0x0#2 then some (.zrpush (f.c.getLsbD 0) f.k f.a (f.d.extractLsb' 0 3))
  else if f.f6 = 0x2#6 ∧ f.d.extractLsb' 3 2 = 0x0#2 then some (.zrpushL (f.c.getLsbD 0) f.k f.b f.a (f.d.extractLsb' 0 3))
  else if f.c = 0x0#1 ∧ f.f6 = 0x3#6 ∧ f.b = 0x0#5 ∧ f.d.extractLsb' 3 2 = 0x0#2 then some (.zrmerge f.k f.a (f.d.extractLsb' 0 3))
  else if f.c = 0x0#1 ∧ f.f6 = 0x4#6 ∧ f.b = 0x0#5 ∧ f.d.extractLsb' 3 2 = 0x0#2 then some (.zrst f.k f.a (f.d.extractLsb' 0 3))
  else if f.c = 0x0#1 ∧ f.f6 = 0x5#6 ∧ f.k = 0x0#3 ∧ f.d.extractLsb' 3 2 = 0x0#2 then some (.zrread f.b f.a (f.d.extractLsb' 0 3))
  else if f.c = 0x0#1 ∧ f.f6 = 0x6#6 ∧ f.k = 0x0#3 ∧ f.b = 0x0#5 ∧ f.d.extractLsb' 3 2 = 0x0#2 then some (.zrhdr f.a (f.d.extractLsb' 0 3))
  else if f.c = 0x0#1 ∧ f.f6 = 0x7#6 ∧ f.k = 0x0#3 ∧ f.b = 0x0#5 ∧ f.d.extractLsb' 3 2 = 0x0#2 then some (.zrth f.a (f.d.extractLsb' 0 3))
  else none

/-- Major opcode 0x46 (R189). -/
noncomputable def decodeOp46 (f : Fields) : Option Instr :=
  if f.c = 0x0#1 ∧ f.f6 = 0x0#6 then some (.vroute f.k f.b f.a f.d)
  else none

/-- Major opcode 0x50 (R198, R199, R202). -/
noncomputable def decodeOp50 (f : Fields) : Option Instr :=
  if f.f6 = 0x0#6 ∧ f.d.extractLsb' 3 2 = 0x0#2 then some (.zop (f.c.getLsbD 0) f.k f.b f.a (f.d.extractLsb' 0 3))
  else if f.f6 = 0x1#6 ∧ f.d.extractLsb' 3 2 = 0x0#2 then some (.zops (f.c.getLsbD 0) f.k f.b f.a (f.d.extractLsb' 0 3))
  else if f.f6 = 0x2#6 ∧ f.d.extractLsb' 3 2 = 0x0#2 then some (.zpop (f.c.getLsbD 0) f.k f.b f.a (f.d.extractLsb' 0 3))
  else none

/-- Major opcode 0x51 (R204, R205, R206). -/
noncomputable def decodeOp51 (f : Fields) : Option Instr :=
  if f.f6 = 0x0#6 then some (.zmovv (f.c.getLsbD 0) f.k f.b f.a (f.d.extractLsb' 3 2) (f.d.extractLsb' 0 3))
  else if f.f6 = 0x1#6 then some (.zmovz (f.c.getLsbD 0) f.k f.b f.a (f.d.extractLsb' 3 2) (f.d.extractLsb' 0 3))
  else if f.f6 = 0x2#6 then some (.zcvt (f.c.getLsbD 0) f.k f.b f.a (f.d.extractLsb' 3 2) (f.d.extractLsb' 0 3))
  else if f.f6 = 0x3#6 then some (.zcvtSc (f.c.getLsbD 0) f.k f.b f.a (f.d.extractLsb' 3 2) (f.d.extractLsb' 0 3))
  else if f.f6 = 0x4#6 then some (.zrowstat (f.c.getLsbD 0) f.k f.b f.a (f.d.extractLsb' 3 2) (f.d.extractLsb' 0 3))
  else none

/-- Major opcode 0x52 (R195, R196). -/
noncomputable def decodeOp52 (f : Fields) : Option Instr :=
  if f.c = 0x0#1 ∧ f.f6 = 0x0#6 ∧ f.k = 0x0#3 ∧ f.b = 0x0#5 ∧ f.a = 0x0#5 ∧ f.d.extractLsb' 4 1 = 0x0#1 then some (.zclr (f.d.getLsbD 3) (f.d.extractLsb' 0 3))
  else if f.c = 0x0#1 ∧ f.f6 = 0x1#6 ∧ f.k = 0x0#3 ∧ f.b = 0x0#5 ∧ f.d.extractLsb' 3 2 = 0x0#2 then some (.zwait f.a (f.d.extractLsb' 0 3))
  else none

/-- Major opcode 0x53 (R207). -/
noncomputable def decodeOp53 (f : Fields) : Option Instr :=
  if f.c = 0x0#1 ∧ f.f6 = 0x0#6 ∧ f.k = 0x0#3 ∧ f.a.extractLsb' 4 1 = 0x0#1 ∧ f.d.extractLsb' 4 1 = 0x0#1 then some (.zld f.b (f.a.extractLsb' 0 4) (f.d.getLsbD 3) (f.d.extractLsb' 0 3))
  else if f.c = 0x0#1 ∧ f.f6 = 0x1#6 ∧ f.k = 0x0#3 ∧ f.a.extractLsb' 4 1 = 0x0#1 ∧ f.d.extractLsb' 4 1 = 0x0#1 then some (.zst f.b (f.a.extractLsb' 0 4) (f.d.getLsbD 3) (f.d.extractLsb' 0 3))
  else none

/-- Major opcode 0x54 (R201). -/
noncomputable def decodeOp54 (f : Fields) : Option Instr :=
  some (.pcvt (f.c.getLsbD 0) (f.f6.getLsbD 5) (f.f6.getLsbD 4) (f.f6.extractLsb' 0 4) f.k f.b f.a f.d)

/-- Major opcode 0x55 (R209, R211). -/
noncomputable def decodeOp55 (f : Fields) : Option Instr :=
  if f.c = 0x0#1 ∧ f.f6 = 0x0#6 ∧ f.d = 0x0#5 then some (.gtscfg f.k f.b f.a)
  else if f.c = 0x0#1 ∧ f.f6 = 0x1#6 ∧ f.k = 0x0#3 ∧ f.b = 0x0#5 ∧ f.d = 0x0#5 then some (.gtsnext f.a)
  else none

/-- Major opcode 0x60 (R214, R215). -/
noncomputable def decodeOp60 (f : Fields) : Option Instr :=
  if f.c = 0x0#1 ∧ f.f6 = 0x0#6 ∧ f.k = 0x0#3 ∧ f.d.extractLsb' 3 2 = 0x0#2 then some (.vprobe f.b f.a (f.d.extractLsb' 0 3))
  else if f.c = 0x0#1 ∧ f.f6 = 0x1#6 ∧ f.k = 0x0#3 ∧ f.d.extractLsb' 3 2 = 0x0#2 then some (.vprobeFf f.b f.a (f.d.extractLsb' 0 3))
  else if f.c = 0x0#1 ∧ f.f6 = 0x2#6 ∧ f.k = 0x0#3 ∧ f.b = 0x0#5 ∧ f.a = 0x0#5 ∧ f.d.extractLsb' 3 2 = 0x0#2 then some (.vunpin (f.d.extractLsb' 0 3))
  else none

/-- Major opcode 0x61 (R218). -/
noncomputable def decodeOp61 (f : Fields) : Option Instr :=
  if f.f6.extractLsb' 0 3 = 0x0#3 then some (.vld (f.c.getLsbD 0) (f.f6.extractLsb' 3 3) f.k f.b f.a f.d)
  else if f.f6.extractLsb' 0 3 = 0x1#3 then some (.vst (f.c.getLsbD 0) (f.f6.extractLsb' 3 3) f.k f.b f.a f.d)
  else none

/-- Major opcode 0x62 (R219). -/
noncomputable def decodeOp62 (f : Fields) : Option Instr :=
  if f.f6.extractLsb' 0 3 = 0x0#3 then some (.vldx (f.c.getLsbD 0) (f.f6.extractLsb' 3 3) f.k f.b f.a f.d)
  else if f.f6.extractLsb' 0 3 = 0x1#3 then some (.vstx (f.c.getLsbD 0) (f.f6.extractLsb' 3 3) f.k f.b f.a f.d)
  else none

/-- Major opcode 0x63 (R220). -/
noncomputable def decodeOp63 (f : Fields) : Option Instr :=
  if f.f6.extractLsb' 0 3 = 0x0#3 then some (.vamoAdd (f.c.getLsbD 0) (f.f6.extractLsb' 3 3) f.k f.b f.a f.d)
  else if f.f6.extractLsb' 0 3 = 0x1#3 then some (.vamoAnd (f.c.getLsbD 0) (f.f6.extractLsb' 3 3) f.k f.b f.a f.d)
  else if f.f6.extractLsb' 0 3 = 0x2#3 then some (.vamoOr (f.c.getLsbD 0) (f.f6.extractLsb' 3 3) f.k f.b f.a f.d)
  else if f.f6.extractLsb' 0 3 = 0x3#3 then some (.vamoXor (f.c.getLsbD 0) (f.f6.extractLsb' 3 3) f.k f.b f.a f.d)
  else if f.f6.extractLsb' 0 3 = 0x4#3 then some (.vamoMin (f.c.getLsbD 0) (f.f6.extractLsb' 3 3) f.k f.b f.a f.d)
  else if f.f6.extractLsb' 0 3 = 0x5#3 then some (.vamoMax (f.c.getLsbD 0) (f.f6.extractLsb' 3 3) f.k f.b f.a f.d)
  else if f.f6.extractLsb' 0 3 = 0x6#3 then some (.vamoMinu (f.c.getLsbD 0) (f.f6.extractLsb' 3 3) f.k f.b f.a f.d)
  else if f.f6.extractLsb' 0 3 = 0x7#3 then some (.vamoMaxu (f.c.getLsbD 0) (f.f6.extractLsb' 3 3) f.k f.b f.a f.d)
  else none

/-- Major opcode 0x64 (R221). -/
noncomputable def decodeOp64 (f : Fields) : Option Instr :=
  if f.f6 = 0x0#6 then some (.lmld (f.c.getLsbD 0) f.k f.b f.a f.d)
  else if f.f6 = 0x1#6 then some (.lmst (f.c.getLsbD 0) f.k f.b f.a f.d)
  else none

/-- Major opcode 0x65 (R224, R225, R226, R228). -/
noncomputable def decodeOp65 (f : Fields) : Option Instr :=
  if f.c = 0x0#1 ∧ f.f6.extractLsb' 0 3 = 0x0#3 ∧ f.k = 0x0#3 ∧ f.b = 0x0#5 ∧ f.d.extractLsb' 4 1 = 0x0#1 then some (.thset (f.f6.extractLsb' 3 3) f.a (f.d.extractLsb' 0 4))
  else if f.c = 0x0#1 ∧ f.f6.extractLsb' 0 3 = 0x1#3 ∧ f.k = 0x0#3 ∧ f.b = 0x0#5 ∧ f.d.extractLsb' 4 1 = 0x0#1 then some (.thget (f.f6.extractLsb' 3 3) f.a (f.d.extractLsb' 0 4))
  else if f.f6 = 0x2#6 ∧ f.a.extractLsb' 4 1 = 0x0#1 then some (.tld (f.c.getLsbD 0) f.k f.b (f.a.extractLsb' 0 4) f.d)
  else if f.f6 = 0x3#6 ∧ f.a.extractLsb' 4 1 = 0x0#1 then some (.tst (f.c.getLsbD 0) f.k f.b (f.a.extractLsb' 0 4) f.d)
  else if f.c = 0x0#1 ∧ f.f6.extractLsb' 0 3 = 0x4#3 ∧ f.k = 0x0#3 ∧ f.d.extractLsb' 4 1 = 0x0#1 then some (.trelayout (f.f6.extractLsb' 3 3) f.b f.a (f.d.extractLsb' 0 4))
  else if f.c = 0x0#1 ∧ f.f6 = 0x5#6 ∧ f.k = 0x0#3 ∧ f.b = 0x0#5 ∧ f.a = 0x0#5 ∧ f.d.extractLsb' 4 1 = 0x0#1 then some (.twait (f.d.extractLsb' 0 4))
  else none

/-- Major opcode 0x66 (R230, R231). -/
noncomputable def decodeOp66 (f : Fields) : Option Instr :=
  if f.c = 0x0#1 ∧ f.f6.extractLsb' 0 3 = 0x0#3 ∧ f.k = 0x0#3 ∧ f.d.extractLsb' 3 2 = 0x0#2 then some (.scfg (f.f6.extractLsb' 3 3) f.b f.a (f.d.extractLsb' 0 3))
  else if f.f6 = 0x1#6 ∧ f.k = 0x0#3 ∧ f.b = 0x0#5 ∧ f.a.extractLsb' 3 2 = 0x0#2 then some (.srd (f.c.getLsbD 0) (f.a.extractLsb' 0 3) f.d)
  else if f.f6 = 0x2#6 ∧ f.k = 0x0#3 ∧ f.b = 0x0#5 ∧ f.a.extractLsb' 3 2 = 0x0#2 then some (.swr (f.c.getLsbD 0) (f.a.extractLsb' 0 3) f.d)
  else if f.c = 0x0#1 ∧ f.f6 = 0x3#6 ∧ f.k = 0x0#3 ∧ f.a.extractLsb' 3 2 = 0x0#2 then some (.savail f.b (f.a.extractLsb' 0 3) f.d)
  else none

/-- Major opcode 0x67 (R232). -/
noncomputable def decodeOp67 (f : Fields) : Option Instr :=
  if f.c = 0x0#1 ∧ f.f6.extractLsb' 0 3 = 0x0#3 then some (.cpy (f.f6.extractLsb' 3 3) f.k f.b f.a f.d)
  else none

/-- Major opcode 0x68 (R234). -/
noncomputable def decodeOp68 (f : Fields) : Option Instr :=
  if f.c = 0x0#1 ∧ f.f6.extractLsb' 1 2 = 0x0#2 then some (.vxlate (f.f6.extractLsb' 3 3) (f.f6.getLsbD 0) f.k f.b f.a f.d)
  else none

/-- Major opcode 0x69 (R236). -/
noncomputable def decodeOp69 (f : Fields) : Option Instr :=
  if f.c = 0x0#1 ∧ f.f6.extractLsb' 0 3 = 0x0#3 ∧ f.k = 0x0#3 then some (.pfxlook (f.f6.extractLsb' 3 3) f.b f.a f.d)
  else if f.c = 0x0#1 ∧ f.f6.extractLsb' 0 3 = 0x1#3 ∧ f.k = 0x0#3 then some (.pfxins (f.f6.extractLsb' 3 3) f.b f.a f.d)
  else if f.c = 0x0#1 ∧ f.f6.extractLsb' 0 3 = 0x2#3 ∧ f.k = 0x0#3 then some (.pfxdet (f.f6.extractLsb' 3 3) f.b f.a f.d)
  else if f.c = 0x0#1 ∧ f.f6.extractLsb' 0 3 = 0x3#3 ∧ f.k = 0x0#3 then some (.pfxevict (f.f6.extractLsb' 3 3) f.b f.a f.d)
  else none

/-- Major opcode 0x6A (R237, R238). -/
noncomputable def decodeOp6A (f : Fields) : Option Instr :=
  if f.c = 0x0#1 ∧ f.f6.extractLsb' 0 3 = 0x0#3 ∧ f.k = 0x0#3 ∧ f.d = 0x0#5 then some (.pbay (f.f6.extractLsb' 3 3) f.b f.a)
  else if f.c = 0x0#1 ∧ f.f6.extractLsb' 0 3 = 0x1#3 then some (.psend (f.f6.extractLsb' 3 3) f.k f.b f.a f.d)
  else none

/-- Major opcode 0x7E (R102). -/
def decodeOp7E (f : Fields) (w1 : BitVec 32) : Option Instr :=
  if f.c = 0 ∧ f.f6 = 0 ∧ f.k.extractLsb' 2 1 = 0 ∧ f.k.extractLsb' 0 2 = 0 ∧ f.b = 1 ∧ f.a = 0 then some (.liw f.d w1) else none

/-- R82: the instruction of a word's fields by major opcode, before the operand checks. `w1` is the word after it. -/
noncomputable def decodeFields (f : Fields) (w1 : BitVec 32) : Option Instr :=
  match f.op.toNat with
  | 0x01 => decodeOp01 f
  | 0x02 => decodeOp02 f
  | 0x03 => decodeOp03 f
  | 0x04 => decodeOp04 f
  | 0x05 => decodeOp05 f
  | 0x06 => decodeOp06 f
  | 0x07 => decodeOp07 f
  | 0x08 => decodeOp08 f
  | 0x09 => decodeOp09 f
  | 0x0A => decodeOp0A f
  | 0x0B => decodeOp0B f
  | 0x0C => decodeOp0C f
  | 0x0D => decodeOp0D f
  | 0x0E => decodeOp0E f
  | 0x0F => decodeOp0F f
  | 0x10 => decodeOp10 f
  | 0x11 => decodeOp11 f
  | 0x12 => decodeOp12 f
  | 0x13 => decodeOp13 f
  | 0x14 => decodeOp14 f
  | 0x15 => decodeOp15 f
  | 0x16 => decodeOp16 f
  | 0x17 => decodeOp17 f
  | 0x18 => decodeOp18 f
  | 0x19 => decodeOp19 f
  | 0x1A => decodeOp1A f
  | 0x1B => decodeOp1B f
  | 0x1C => decodeOp1C f
  | 0x20 => decodeOp20 f
  | 0x21 => decodeOp21 f
  | 0x22 => decodeOp22 f
  | 0x23 => decodeOp23 f
  | 0x24 => decodeOp24 f
  | 0x25 => decodeOp25 f
  | 0x26 => decodeOp26 f
  | 0x27 => decodeOp27 f
  | 0x28 => decodeOp28 f
  | 0x29 => decodeOp29 f
  | 0x2A => decodeOp2A f
  | 0x2B => decodeOp2B f
  | 0x2C => decodeOp2C f
  | 0x40 => decodeOp40 f
  | 0x41 => decodeOp41 f
  | 0x42 => decodeOp42 f
  | 0x43 => decodeOp43 f
  | 0x44 => decodeOp44 f
  | 0x45 => decodeOp45 f
  | 0x46 => decodeOp46 f
  | 0x50 => decodeOp50 f
  | 0x51 => decodeOp51 f
  | 0x52 => decodeOp52 f
  | 0x53 => decodeOp53 f
  | 0x54 => decodeOp54 f
  | 0x55 => decodeOp55 f
  | 0x60 => decodeOp60 f
  | 0x61 => decodeOp61 f
  | 0x62 => decodeOp62 f
  | 0x63 => decodeOp63 f
  | 0x64 => decodeOp64 f
  | 0x65 => decodeOp65 f
  | 0x66 => decodeOp66 f
  | 0x67 => decodeOp67 f
  | 0x68 => decodeOp68 f
  | 0x69 => decodeOp69 f
  | 0x6A => decodeOp6A f
  | 0x7E => decodeOp7E f w1
  | _ => none

/-- R82: the assigned major opcodes. -/
def opcodeAssigned (op : BitVec 7) : Bool :=
  [0x01, 0x02, 0x03, 0x04, 0x05, 0x06, 0x07, 0x08, 0x09, 0x0A, 0x0B, 0x0C, 0x0D, 0x0E, 0x0F, 0x10, 0x11, 0x12, 0x13, 0x14, 0x15, 0x16, 0x17, 0x18, 0x19, 0x1A, 0x1B, 0x1C, 0x20, 0x21, 0x22, 0x23, 0x24, 0x25, 0x26, 0x27, 0x28, 0x29, 0x2A, 0x2B, 0x2C, 0x40, 0x41, 0x42, 0x43, 0x44, 0x45, 0x46, 0x50, 0x51, 0x52, 0x53, 0x54, 0x55, 0x60, 0x61, 0x62, 0x63, 0x64, 0x65, 0x66, 0x67, 0x68, 0x69, 0x6A, 0x7E].contains op.toNat

/-- The instruction whose first word is `w0`; `w1` is the word that follows, read by the long form only (R78). -/
noncomputable def decode (w0 w1 : BitVec 32) : Except DecodeError Instr :=
  let f := splitWord w0
  if opcodeAssigned f.op then
    match decodeFields f w1 with
    | some i => if i.wellFormed then .ok i else .error .illFormedOperand
    | none => .error .unassignedFunction
  else .error .unassignedOpcode

/-- R78: an instruction is one word, or two when the major opcode of the first is 0x7E. -/
def isLongForm (w0 : BitVec 32) : Bool := w0.extractLsb' 0 7 == 0x7E#7

/-- R78: the bytes the program counter advances past an instruction. -/
def Instr.size : Instr → BitVec 64
  | .liw _ _ => 8
  | _ => 4

/-- R85: what TVAL holds for a word that is no instruction: the word zero-extended, or both words of a long form. -/
def illegalTval (w0 w1 : BitVec 32) : BitVec 64 := if isLongForm w0 then w1 ++ w0 else w0.zeroExtend 64

/-- The instruction the decoder reads from the bits `w`, the first word in [31:0] and the second in [63:32]. -/
noncomputable def decodeTableWord (_nbits w : Nat) : Option Instr :=
  match decode (BitVec.ofNat 32 w) (BitVec.ofNat 32 (w / 2 ^ 32)) with
  | .ok i => some i
  | .error _ => none

/-- R79, R82-R84: the fields of an instruction's first word. Steps of the device and of the outside world have no
encoding: they take the all-zero word, which is no instruction (R85). -/
def Instr.fields : Instr → Fields
  | .add b a d => ⟨0, 0, 0, b, a, d, 0x1#7⟩
  | .sub b a d => ⟨0, 0, 0x1#3, b, a, d, 0x1#7⟩
  | .and b a d => ⟨0, 0, 0x2#3, b, a, d, 0x1#7⟩
  | .or b a d => ⟨0, 0, 0x3#3, b, a, d, 0x1#7⟩
  | .xor b a d => ⟨0, 0, 0x4#3, b, a, d, 0x1#7⟩
  | .andn b a d => ⟨0, 0, 0x5#3, b, a, d, 0x1#7⟩
  | .sll b a d => ⟨0, 0, 0x6#3, b, a, d, 0x1#7⟩
  | .srl b a d => ⟨0, 0, 0x7#3, b, a, d, 0x1#7⟩
  | .sra b a d => ⟨0, 0x1#6, 0, b, a, d, 0x1#7⟩
  | .mul b a d => ⟨0, 0x1#6, 0x1#3, b, a, d, 0x1#7⟩
  | .mulh b a d => ⟨0, 0x1#6, 0x2#3, b, a, d, 0x1#7⟩
  | .mulhu b a d => ⟨0, 0x1#6, 0x3#3, b, a, d, 0x1#7⟩
  | .div b a d => ⟨0, 0x1#6, 0x4#3, b, a, d, 0x1#7⟩
  | .divu b a d => ⟨0, 0x1#6, 0x5#3, b, a, d, 0x1#7⟩
  | .rem b a d => ⟨0, 0x1#6, 0x6#3, b, a, d, 0x1#7⟩
  | .remu b a d => ⟨0, 0x1#6, 0x7#3, b, a, d, 0x1#7⟩
  | .min b a d => ⟨0, 0x2#6, 0, b, a, d, 0x1#7⟩
  | .max b a d => ⟨0, 0x2#6, 0x1#3, b, a, d, 0x1#7⟩
  | .minu b a d => ⟨0, 0x2#6, 0x2#3, b, a, d, 0x1#7⟩
  | .maxu b a d => ⟨0, 0x2#6, 0x3#3, b, a, d, 0x1#7⟩
  | .slt b a d => ⟨0, 0x2#6, 0x4#3, b, a, d, 0x1#7⟩
  | .sltu b a d => ⟨0, 0x2#6, 0x5#3, b, a, d, 0x1#7⟩
  | .clz a d => ⟨0, 0x2#6, 0x6#3, 0, a, d, 0x1#7⟩
  | .ctz a d => ⟨0, 0x2#6, 0x7#3, 0, a, d, 0x1#7⟩
  | .popc a d => ⟨0, 0x3#6, 0, 0, a, d, 0x1#7⟩
  | .addi i a d => ⟨(i.extractLsb' 14 1), (i.extractLsb' 8 6), (i.extractLsb' 5 3), (i.extractLsb' 0 5), a, d, 0x2#7⟩
  | .andi i a d => ⟨(i.extractLsb' 14 1), (i.extractLsb' 8 6), (i.extractLsb' 5 3), (i.extractLsb' 0 5), a, d, 0x3#7⟩
  | .ori i a d => ⟨(i.extractLsb' 14 1), (i.extractLsb' 8 6), (i.extractLsb' 5 3), (i.extractLsb' 0 5), a, d, 0x4#7⟩
  | .xori i a d => ⟨(i.extractLsb' 14 1), (i.extractLsb' 8 6), (i.extractLsb' 5 3), (i.extractLsb' 0 5), a, d, 0x5#7⟩
  | .slti i a d => ⟨(i.extractLsb' 14 1), (i.extractLsb' 8 6), (i.extractLsb' 5 3), (i.extractLsb' 0 5), a, d, 0x6#7⟩
  | .slli h a d => ⟨0, 0, (0x0#2 ++ (h.extractLsb' 5 1)), (h.extractLsb' 0 5), a, d, 0x7#7⟩
  | .srli h a d => ⟨0, 0x20#6, (0x0#2 ++ (h.extractLsb' 5 1)), (h.extractLsb' 0 5), a, d, 0x7#7⟩
  | .srai h a d => ⟨0x1#1, 0, (0x0#2 ++ (h.extractLsb' 5 1)), (h.extractLsb' 0 5), a, d, 0x7#7⟩
  | .lih i d => ⟨(i.extractLsb' 19 1), (i.extractLsb' 13 6), (i.extractLsb' 10 3), (i.extractLsb' 5 5), (i.extractLsb' 0 5), d, 0x8#7⟩
  | .addpc i d => ⟨(i.extractLsb' 19 1), (i.extractLsb' 13 6), (i.extractLsb' 10 3), (i.extractLsb' 5 5), (i.extractLsb' 0 5), d, 0x9#7⟩
  | .liw d _ => ⟨0, 0, 0, 1, 0, d, 0x7E⟩
  | .fadd f m b a d => ⟨0, (0x0#5 ++ (BitVec.ofBool f)), m, b, a, d, 0xa#7⟩
  | .fsub f m b a d => ⟨0, (0x1#5 ++ (BitVec.ofBool f)), m, b, a, d, 0xa#7⟩
  | .fmul f m b a d => ⟨0, (0x2#5 ++ (BitVec.ofBool f)), m, b, a, d, 0xa#7⟩
  | .ffma f m b a d => ⟨0, (0x3#5 ++ (BitVec.ofBool f)), m, b, a, d, 0xa#7⟩
  | .fdiv f m b a d => ⟨0, (0x4#5 ++ (BitVec.ofBool f)), m, b, a, d, 0xa#7⟩
  | .fsqrt f m a d => ⟨0, (0x5#5 ++ (BitVec.ofBool f)), m, 0, a, d, 0xa#7⟩
  | .fmin f b a d => ⟨0, (0x6#5 ++ (BitVec.ofBool f)), 0, b, a, d, 0xa#7⟩
  | .fmax f b a d => ⟨0, (0x7#5 ++ (BitVec.ofBool f)), 0, b, a, d, 0xa#7⟩
  | .fcmpEq f b a d => ⟨0, (0x8#5 ++ (BitVec.ofBool f)), 0, b, a, d, 0xa#7⟩
  | .fcmpLt f b a d => ⟨0, (0x8#5 ++ (BitVec.ofBool f)), 0x1#3, b, a, d, 0xa#7⟩
  | .fcmpLe f b a d => ⟨0, (0x8#5 ++ (BitVec.ofBool f)), 0x2#3, b, a, d, 0xa#7⟩
  | .fcmpUnord f b a d => ⟨0, (0x8#5 ++ (BitVec.ofBool f)), 0x3#3, b, a, d, 0xa#7⟩
  | .fcvtToInt32 f m a d => ⟨0, (0x9#5 ++ (BitVec.ofBool f)), m, 0, a, d, 0xa#7⟩
  | .fcvtToUint32 f m a d => ⟨0, (0x9#5 ++ (BitVec.ofBool f)), m, 0x1#5, a, d, 0xa#7⟩
  | .fcvtToInt64 f m a d => ⟨0, (0x9#5 ++ (BitVec.ofBool f)), m, 0x2#5, a, d, 0xa#7⟩
  | .fcvtToUint64 f m a d => ⟨0, (0x9#5 ++ (BitVec.ofBool f)), m, 0x3#5, a, d, 0xa#7⟩
  | .fcvtFromInt32 f m a d => ⟨0, (0x9#5 ++ (BitVec.ofBool f)), m, 0x8#5, a, d, 0xa#7⟩
  | .fcvtFromUint32 f m a d => ⟨0, (0x9#5 ++ (BitVec.ofBool f)), m, 0x9#5, a, d, 0xa#7⟩
  | .fcvtFromInt64 f m a d => ⟨0, (0x9#5 ++ (BitVec.ofBool f)), m, 0xa#5, a, d, 0xa#7⟩
  | .fcvtFromUint64 f m a d => ⟨0, (0x9#5 ++ (BitVec.ofBool f)), m, 0xb#5, a, d, 0xa#7⟩
  | .fcvtFp f m a d => ⟨0, (0x9#5 ++ (BitVec.ofBool f)), m, 0x10#5, a, d, 0xa#7⟩
  | .ldB i a d => ⟨(i.extractLsb' 14 1), (i.extractLsb' 8 6), (i.extractLsb' 5 3), (i.extractLsb' 0 5), a, d, 0xb#7⟩
  | .ldH i a d => ⟨(i.extractLsb' 14 1), (i.extractLsb' 8 6), (i.extractLsb' 5 3), (i.extractLsb' 0 5), a, d, 0xc#7⟩
  | .ldW i a d => ⟨(i.extractLsb' 14 1), (i.extractLsb' 8 6), (i.extractLsb' 5 3), (i.extractLsb' 0 5), a, d, 0xd#7⟩
  | .ldD i a d => ⟨(i.extractLsb' 14 1), (i.extractLsb' 8 6), (i.extractLsb' 5 3), (i.extractLsb' 0 5), a, d, 0xe#7⟩
  | .ldBu i a d => ⟨(i.extractLsb' 14 1), (i.extractLsb' 8 6), (i.extractLsb' 5 3), (i.extractLsb' 0 5), a, d, 0xf#7⟩
  | .ldHu i a d => ⟨(i.extractLsb' 14 1), (i.extractLsb' 8 6), (i.extractLsb' 5 3), (i.extractLsb' 0 5), a, d, 0x10#7⟩
  | .ldWu i a d => ⟨(i.extractLsb' 14 1), (i.extractLsb' 8 6), (i.extractLsb' 5 3), (i.extractLsb' 0 5), a, d, 0x11#7⟩
  | .stB o b a => ⟨(o.extractLsb' 11 1), (o.extractLsb' 5 6), (o.extractLsb' 2 3), ((o.extractLsb' 0 2) ++ 0x0#3), b, a, 0x12#7⟩
  | .stH o b a => ⟨(o.extractLsb' 11 1), (o.extractLsb' 5 6), (o.extractLsb' 2 3), ((o.extractLsb' 0 2) ++ 0x1#3), b, a, 0x12#7⟩
  | .stW o b a => ⟨(o.extractLsb' 11 1), (o.extractLsb' 5 6), (o.extractLsb' 2 3), ((o.extractLsb' 0 2) ++ 0x2#3), b, a, 0x12#7⟩
  | .stD o b a => ⟨(o.extractLsb' 11 1), (o.extractLsb' 5 6), (o.extractLsb' 2 3), ((o.extractLsb' 0 2) ++ 0x3#3), b, a, 0x12#7⟩
  | .amoAdd o s b a d => ⟨0, (0x0#3 ++ o ++ (s.extractLsb' 3 1)), (s.extractLsb' 0 3), b, a, d, 0x13#7⟩
  | .amoAnd o s b a d => ⟨0, (0x1#3 ++ o ++ (s.extractLsb' 3 1)), (s.extractLsb' 0 3), b, a, d, 0x13#7⟩
  | .amoOr o s b a d => ⟨0, (0x2#3 ++ o ++ (s.extractLsb' 3 1)), (s.extractLsb' 0 3), b, a, d, 0x13#7⟩
  | .amoXor o s b a d => ⟨0, (0x3#3 ++ o ++ (s.extractLsb' 3 1)), (s.extractLsb' 0 3), b, a, d, 0x13#7⟩
  | .amoMin o s b a d => ⟨0, (0x4#3 ++ o ++ (s.extractLsb' 3 1)), (s.extractLsb' 0 3), b, a, d, 0x13#7⟩
  | .amoMax o s b a d => ⟨0, (0x5#3 ++ o ++ (s.extractLsb' 3 1)), (s.extractLsb' 0 3), b, a, d, 0x13#7⟩
  | .amoMinu o s b a d => ⟨0, (0x6#3 ++ o ++ (s.extractLsb' 3 1)), (s.extractLsb' 0 3), b, a, d, 0x13#7⟩
  | .amoMaxu o s b a d => ⟨0, (0x7#3 ++ o ++ (s.extractLsb' 3 1)), (s.extractLsb' 0 3), b, a, d, 0x13#7⟩
  | .cas o s b a d => ⟨0, (0x0#3 ++ o ++ (s.extractLsb' 3 1)), (s.extractLsb' 0 3), b, a, d, 0x14#7⟩
  | .amoSwap o s b a d => ⟨0, (0x1#3 ++ o ++ (s.extractLsb' 3 1)), (s.extractLsb' 0 3), b, a, d, 0x14#7⟩
  | .beq o b a => ⟨(o.extractLsb' 11 1), (o.extractLsb' 5 6), (o.extractLsb' 2 3), ((o.extractLsb' 0 2) ++ 0x0#3), b, a, 0x15#7⟩
  | .bne o b a => ⟨(o.extractLsb' 11 1), (o.extractLsb' 5 6), (o.extractLsb' 2 3), ((o.extractLsb' 0 2) ++ 0x1#3), b, a, 0x15#7⟩
  | .blt o b a => ⟨(o.extractLsb' 11 1), (o.extractLsb' 5 6), (o.extractLsb' 2 3), ((o.extractLsb' 0 2) ++ 0x2#3), b, a, 0x15#7⟩
  | .bge o b a => ⟨(o.extractLsb' 11 1), (o.extractLsb' 5 6), (o.extractLsb' 2 3), ((o.extractLsb' 0 2) ++ 0x3#3), b, a, 0x15#7⟩
  | .bltu o b a => ⟨(o.extractLsb' 11 1), (o.extractLsb' 5 6), (o.extractLsb' 2 3), ((o.extractLsb' 0 2) ++ 0x4#3), b, a, 0x15#7⟩
  | .bgeu o b a => ⟨(o.extractLsb' 11 1), (o.extractLsb' 5 6), (o.extractLsb' 2 3), ((o.extractLsb' 0 2) ++ 0x5#3), b, a, 0x15#7⟩
  | .jal o d => ⟨(o.extractLsb' 19 1), (o.extractLsb' 13 6), (o.extractLsb' 10 3), (o.extractLsb' 5 5), (o.extractLsb' 0 5), d, 0x16#7⟩
  | .jalr i a d => ⟨(i.extractLsb' 14 1), (i.extractLsb' 8 6), (i.extractLsb' 5 3), (i.extractLsb' 0 5), a, d, 0x17#7⟩
  | .csrr c d => ⟨(c.extractLsb' 9 1), (c.extractLsb' 3 6), (c.extractLsb' 0 3), 0, 0, d, 0x18#7⟩
  | .csrw c a => ⟨(c.extractLsb' 9 1), (c.extractLsb' 3 6), (c.extractLsb' 0 3), 0x1#5, a, 0, 0x18#7⟩
  | .csrx c a d => ⟨(c.extractLsb' 9 1), (c.extractLsb' 3 6), (c.extractLsb' 0 3), 0x2#5, a, d, 0x18#7⟩
  | .ecall => ⟨0, 0, 0, 0, 0, 0, 0x19#7⟩
  | .ebreak => ⟨0, 0, 0x1#3, 0, 0, 0, 0x19#7⟩
  | .tret => ⟨0, 0, 0x2#3, 0, 0, 0, 0x19#7⟩
  | .pause => ⟨0, 0, 0x3#3, 0, 0, 0, 0x19#7⟩
  | .yield => ⟨0, 0, 0x4#3, 0, 0, 0, 0x19#7⟩
  | .hexit => ⟨0, 0, 0x5#3, 0, 0, 0, 0x19#7⟩
  | .gbar => ⟨0, 0, 0x6#3, 0, 0, 0, 0x19#7⟩
  | .fenceSv s => ⟨0, (0x0#5 ++ (s.extractLsb' 3 1)), (s.extractLsb' 0 3), 0, 0, 0, 0x1a#7⟩
  | .fenceVS s => ⟨0, (0x1#5 ++ (s.extractLsb' 3 1)), (s.extractLsb' 0 3), 0, 0, 0, 0x1a#7⟩
  | .fenceVV s => ⟨0, (0x2#5 ++ (s.extractLsb' 3 1)), (s.extractLsb' 0 3), 0, 0, 0, 0x1a#7⟩
  | .fenceAll s => ⟨0, (0x3#5 ++ (s.extractLsb' 3 1)), (s.extractLsb' 0 3), 0, 0, 0, 0x1a#7⟩
  | .waitwEq s b a d => ⟨0, (0x0#2 ++ s), 0, b, a, d, 0x1b#7⟩
  | .waitwNe s b a d => ⟨0, (0x0#2 ++ s), 0x1#3, b, a, d, 0x1b#7⟩
  | .waitwGeu s b a d => ⟨0, (0x0#2 ++ s), 0x2#3, b, a, d, 0x1b#7⟩
  | .waitwLtu s b a d => ⟨0, (0x0#2 ++ s), 0x3#3, b, a, d, 0x1b#7⟩
  | .waitwGe s b a d => ⟨0, (0x0#2 ++ s), 0x4#3, b, a, d, 0x1b#7⟩
  | .waitwLt s b a d => ⟨0, (0x0#2 ++ s), 0x5#3, b, a, d, 0x1b#7⟩
  | .spawn a d => ⟨0, 0, 0, 0, a, d, 0x1c#7⟩
  | .vsetvl w a d => ⟨0, (0x0#3 ++ w), 0, 0, a, d, 0x20#7⟩
  | .vsetvlX w a d => ⟨0, (0x2#3 ++ w), 0, 0, a, d, 0x20#7⟩
  | .vcfg b d => ⟨0, 0x20#6, 0, b, 0, d, 0x20#7⟩
  | .vaddVV c k b a d => ⟨(BitVec.ofBool c), 0, k, b, a, d, 0x21#7⟩
  | .vaddVS c k b a d => ⟨(BitVec.ofBool c), 0, k, b, a, d, 0x22#7⟩
  | .vaddVI c k i a d => ⟨(BitVec.ofBool c), 0, k, i, a, d, 0x23#7⟩
  | .vsubVV c k b a d => ⟨(BitVec.ofBool c), 0x1#6, k, b, a, d, 0x21#7⟩
  | .vsubVS c k b a d => ⟨(BitVec.ofBool c), 0x1#6, k, b, a, d, 0x22#7⟩
  | .vsubVI c k i a d => ⟨(BitVec.ofBool c), 0x1#6, k, i, a, d, 0x23#7⟩
  | .vmulVV c k b a d => ⟨(BitVec.ofBool c), 0x2#6, k, b, a, d, 0x21#7⟩
  | .vmulVS c k b a d => ⟨(BitVec.ofBool c), 0x2#6, k, b, a, d, 0x22#7⟩
  | .vmulhVV c k b a d => ⟨(BitVec.ofBool c), 0x3#6, k, b, a, d, 0x21#7⟩
  | .vmulhVS c k b a d => ⟨(BitVec.ofBool c), 0x3#6, k, b, a, d, 0x22#7⟩
  | .vfmaVV c k b a d => ⟨(BitVec.ofBool c), 0x4#6, k, b, a, d, 0x21#7⟩
  | .vfmaVS c k b a d => ⟨(BitVec.ofBool c), 0x4#6, k, b, a, d, 0x22#7⟩
  | .vdivVV c k b a d => ⟨(BitVec.ofBool c), 0x5#6, k, b, a, d, 0x21#7⟩
  | .vdivVS c k b a d => ⟨(BitVec.ofBool c), 0x5#6, k, b, a, d, 0x22#7⟩
  | .vminVV c k b a d => ⟨(BitVec.ofBool c), 0x6#6, k, b, a, d, 0x21#7⟩
  | .vminVS c k b a d => ⟨(BitVec.ofBool c), 0x6#6, k, b, a, d, 0x22#7⟩
  | .vmaxVV c k b a d => ⟨(BitVec.ofBool c), 0x7#6, k, b, a, d, 0x21#7⟩
  | .vmaxVS c k b a d => ⟨(BitVec.ofBool c), 0x7#6, k, b, a, d, 0x22#7⟩
  | .vandVV c k b a d => ⟨(BitVec.ofBool c), 0x8#6, k, b, a, d, 0x21#7⟩
  | .vandVS c k b a d => ⟨(BitVec.ofBool c), 0x8#6, k, b, a, d, 0x22#7⟩
  | .vandVI c k i a d => ⟨(BitVec.ofBool c), 0x8#6, k, i, a, d, 0x23#7⟩
  | .vorVV c k b a d => ⟨(BitVec.ofBool c), 0x9#6, k, b, a, d, 0x21#7⟩
  | .vorVS c k b a d => ⟨(BitVec.ofBool c), 0x9#6, k, b, a, d, 0x22#7⟩
  | .vorVI c k i a d => ⟨(BitVec.ofBool c), 0x9#6, k, i, a, d, 0x23#7⟩
  | .vxorVV c k b a d => ⟨(BitVec.ofBool c), 0xa#6, k, b, a, d, 0x21#7⟩
  | .vxorVS c k b a d => ⟨(BitVec.ofBool c), 0xa#6, k, b, a, d, 0x22#7⟩
  | .vxorVI c k i a d => ⟨(BitVec.ofBool c), 0xa#6, k, i, a, d, 0x23#7⟩
  | .vshlVV c k b a d => ⟨(BitVec.ofBool c), 0xb#6, k, b, a, d, 0x21#7⟩
  | .vshlVS c k b a d => ⟨(BitVec.ofBool c), 0xb#6, k, b, a, d, 0x22#7⟩
  | .vshlVI c k i a d => ⟨(BitVec.ofBool c), 0xb#6, k, i, a, d, 0x23#7⟩
  | .vshrVV c k b a d => ⟨(BitVec.ofBool c), 0xc#6, k, b, a, d, 0x21#7⟩
  | .vshrVS c k b a d => ⟨(BitVec.ofBool c), 0xc#6, k, b, a, d, 0x22#7⟩
  | .vshrVI c k i a d => ⟨(BitVec.ofBool c), 0xc#6, k, i, a, d, 0x23#7⟩
  | .vldexpVV c k b a d => ⟨(BitVec.ofBool c), 0xd#6, k, b, a, d, 0x21#7⟩
  | .vldexpVS c k b a d => ⟨(BitVec.ofBool c), 0xd#6, k, b, a, d, 0x22#7⟩
  | .vldexpVI c k i a d => ⟨(BitVec.ofBool c), 0xd#6, k, i, a, d, 0x23#7⟩
  | .vselVV c k b a d => ⟨(BitVec.ofBool c), 0xe#6, k, b, a, d, 0x21#7⟩
  | .vselVS c k b a d => ⟨(BitVec.ofBool c), 0xe#6, k, b, a, d, 0x22#7⟩
  | .vselVI c k i a d => ⟨(BitVec.ofBool c), 0xe#6, k, i, a, d, 0x23#7⟩
  | .vadcVV c k b a d => ⟨(BitVec.ofBool c), 0xf#6, k, b, a, d, 0x21#7⟩
  | .vadcVS c k b a d => ⟨(BitVec.ofBool c), 0xf#6, k, b, a, d, 0x22#7⟩
  | .vsbcVV c k b a d => ⟨(BitVec.ofBool c), 0x10#6, k, b, a, d, 0x21#7⟩
  | .vsbcVS c k b a d => ⟨(BitVec.ofBool c), 0x10#6, k, b, a, d, 0x22#7⟩
  | .vwaddVV c k b a d => ⟨(BitVec.ofBool c), 0x11#6, k, b, a, d, 0x21#7⟩
  | .vwaddVS c k b a d => ⟨(BitVec.ofBool c), 0x11#6, k, b, a, d, 0x22#7⟩
  | .vwmulVV c k b a d => ⟨(BitVec.ofBool c), 0x12#6, k, b, a, d, 0x21#7⟩
  | .vwmulVS c k b a d => ⟨(BitVec.ofBool c), 0x12#6, k, b, a, d, 0x22#7⟩
  | .vwfmaVV c k b a d => ⟨(BitVec.ofBool c), 0x13#6, k, b, a, d, 0x21#7⟩
  | .vwfmaVS c k b a d => ⟨(BitVec.ofBool c), 0x13#6, k, b, a, d, 0x22#7⟩
  | .vsgnVV c k b a d => ⟨(BitVec.ofBool c), 0x14#6, k, b, a, d, 0x21#7⟩
  | .vsgnVS c k b a d => ⟨(BitVec.ofBool c), 0x14#6, k, b, a, d, 0x22#7⟩
  | .vabs c k a d => ⟨(BitVec.ofBool c), 0, k, 0, a, d, 0x24#7⟩
  | .vrnd c k m a d => ⟨(BitVec.ofBool c), 0x1#6, k, (0x0#2 ++ m), a, d, 0x24#7⟩
  | .vcvt c k t a d => ⟨(BitVec.ofBool c), 0x2#6, k, t, a, d, 0x24#7⟩
  | .vunpack c k t a d => ⟨(BitVec.ofBool c), 0x3#6, k, t, a, d, 0x24#7⟩
  | .vsfuRcp c k a d => ⟨(BitVec.ofBool c), 0x4#6, k, 0, a, d, 0x24#7⟩
  | .vsfuRsqrt c k a d => ⟨(BitVec.ofBool c), 0x4#6, k, 0x1#5, a, d, 0x24#7⟩
  | .vsfuSqrt c k a d => ⟨(BitVec.ofBool c), 0x4#6, k, 0x2#5, a, d, 0x24#7⟩
  | .vsfuExp2 c k a d => ⟨(BitVec.ofBool c), 0x4#6, k, 0x3#5, a, d, 0x24#7⟩
  | .vsfuLog2 c k a d => ⟨(BitVec.ofBool c), 0x4#6, k, 0x4#5, a, d, 0x24#7⟩
  | .vsfuSin c k a d => ⟨(BitVec.ofBool c), 0x4#6, k, 0x5#5, a, d, 0x24#7⟩
  | .vsfuCos c k a d => ⟨(BitVec.ofBool c), 0x4#6, k, 0x6#5, a, d, 0x24#7⟩
  | .vcmpEqVV c k b a d => ⟨(BitVec.ofBool c), 0, k, b, a, d, 0x25#7⟩
  | .vcmpNeVV c k b a d => ⟨(BitVec.ofBool c), 0x1#6, k, b, a, d, 0x25#7⟩
  | .vcmpLtVV c k b a d => ⟨(BitVec.ofBool c), 0x2#6, k, b, a, d, 0x25#7⟩
  | .vcmpLeVV c k b a d => ⟨(BitVec.ofBool c), 0x3#6, k, b, a, d, 0x25#7⟩
  | .vcmpGtVV c k b a d => ⟨(BitVec.ofBool c), 0x4#6, k, b, a, d, 0x25#7⟩
  | .vcmpGeVV c k b a d => ⟨(BitVec.ofBool c), 0x5#6, k, b, a, d, 0x25#7⟩
  | .vcmpOrdVV c k b a d => ⟨(BitVec.ofBool c), 0x6#6, k, b, a, d, 0x25#7⟩
  | .vcmpUnordVV c k b a d => ⟨(BitVec.ofBool c), 0x7#6, k, b, a, d, 0x25#7⟩
  | .vcmpEqVS c k b a d => ⟨(BitVec.ofBool c), 0, k, b, a, d, 0x26#7⟩
  | .vcmpNeVS c k b a d => ⟨(BitVec.ofBool c), 0x1#6, k, b, a, d, 0x26#7⟩
  | .vcmpLtVS c k b a d => ⟨(BitVec.ofBool c), 0x2#6, k, b, a, d, 0x26#7⟩
  | .vcmpLeVS c k b a d => ⟨(BitVec.ofBool c), 0x3#6, k, b, a, d, 0x26#7⟩
  | .vcmpGtVS c k b a d => ⟨(BitVec.ofBool c), 0x4#6, k, b, a, d, 0x26#7⟩
  | .vcmpGeVS c k b a d => ⟨(BitVec.ofBool c), 0x5#6, k, b, a, d, 0x26#7⟩
  | .vcmpOrdVS c k b a d => ⟨(BitVec.ofBool c), 0x6#6, k, b, a, d, 0x26#7⟩
  | .vcmpUnordVS c k b a d => ⟨(BitVec.ofBool c), 0x7#6, k, b, a, d, 0x26#7⟩
  | .kand c b a d => ⟨(BitVec.ofBool c), 0, 0, b, a, d, 0x27#7⟩
  | .kor c b a d => ⟨(BitVec.ofBool c), 0x1#6, 0, b, a, d, 0x27#7⟩
  | .kxor c b a d => ⟨(BitVec.ofBool c), 0x2#6, 0, b, a, d, 0x27#7⟩
  | .kandn c b a d => ⟨(BitVec.ofBool c), 0x3#6, 0, b, a, d, 0x27#7⟩
  | .knot c a d => ⟨(BitVec.ofBool c), 0x4#6, 0, 0, a, d, 0x27#7⟩
  | .kshl c a d => ⟨(BitVec.ofBool c), 0x5#6, 0, 0, a, d, 0x27#7⟩
  | .kshr c a d => ⟨(BitVec.ofBool c), 0x6#6, 0, 0, a, d, 0x27#7⟩
  | .kpopc c a d => ⟨(BitVec.ofBool c), 0x7#6, 0, 0, a, d, 0x27#7⟩
  | .kfirst c a d => ⟨(BitVec.ofBool c), 0x8#6, 0, 0, a, d, 0x27#7⟩
  | .kmovs c a d => ⟨(BitVec.ofBool c), 0x9#6, 0, 0, a, d, 0x27#7⟩
  | .vzip c a d => ⟨(BitVec.ofBool c), 0, 0, 0, a, d, 0x28#7⟩
  | .vunzip c a d => ⟨(BitVec.ofBool c), 0x1#6, 0, 0, a, d, 0x28#7⟩
  | .vpack2 c y m t a d => ⟨(BitVec.ofBool c), ((BitVec.ofBool y) ++ 0x2#5), m, t, a, d, 0x28#7⟩
  | .vpack4 c y m t a d => ⟨(BitVec.ofBool c), ((BitVec.ofBool y) ++ 0x3#5), m, t, a, d, 0x28#7⟩
  | .vgather c k b a d => ⟨(BitVec.ofBool c), 0, k, b, a, d, 0x29#7⟩
  | .vcompress c k a d => ⟨(BitVec.ofBool c), 0x1#6, k, 0, a, d, 0x29#7⟩
  | .vexpand c k a d => ⟨(BitVec.ofBool c), 0x2#6, k, 0, a, d, 0x29#7⟩
  | .vmv c k a d => ⟨(BitVec.ofBool c), 0x3#6, k, 0, a, d, 0x29#7⟩
  | .viota c k d => ⟨(BitVec.ofBool c), 0x4#6, k, 0, 0, d, 0x29#7⟩
  | .vidx c k d => ⟨(BitVec.ofBool c), 0x5#6, k, 0, 0, d, 0x29#7⟩
  | .vslideup c k b a d => ⟨(BitVec.ofBool c), 0, k, b, a, d, 0x2a#7⟩
  | .vslidedn c k b a d => ⟨(BitVec.ofBool c), 0x1#6, k, b, a, d, 0x2a#7⟩
  | .vslide1 c k b a d => ⟨(BitVec.ofBool c), 0x2#6, k, b, a, d, 0x2a#7⟩
  | .vbcast c k b d => ⟨(BitVec.ofBool c), 0x3#6, k, b, 0, d, 0x2a#7⟩
  | .vext c b a d => ⟨(BitVec.ofBool c), 0x4#6, 0, b, a, d, 0x2a#7⟩
  | .vins c b a d => ⟨(BitVec.ofBool c), 0x5#6, 0, b, a, d, 0x2a#7⟩
  | .vxchg b a d => ⟨0, 0x6#6, 0, b, a, d, 0x2a#7⟩
  | .vrsumO c k a d => ⟨(BitVec.ofBool c), 0, k, 0, a, d, 0x2b#7⟩
  | .vrsumT c k a d => ⟨(BitVec.ofBool c), 0x1#6, k, 0, a, d, 0x2b#7⟩
  | .vrmax c k a d => ⟨(BitVec.ofBool c), 0x2#6, k, 0, a, d, 0x2b#7⟩
  | .vrmin c k a d => ⟨(BitVec.ofBool c), 0x3#6, k, 0, a, d, 0x2b#7⟩
  | .vrlog c k a d => ⟨(BitVec.ofBool c), 0x4#6, k, 0, a, d, 0x2b#7⟩
  | .vmaxidx c k a d => ⟨(BitVec.ofBool c), 0x5#6, k, 0, a, d, 0x2b#7⟩
  | .vsoft c k b a d => ⟨(BitVec.ofBool c), 0, k, b, a, d, 0x2c#7⟩
  | .vrand c k d => ⟨(BitVec.ofBool c), 0x1#6, k, 0, 0, d, 0x2c#7⟩
  | .vrope c k b a d => ⟨(BitVec.ofBool c), 0x2#6, k, b, a, d, 0x2c#7⟩
  | .vsort c x p a d => ⟨(BitVec.ofBool c), (0x0#4 ++ (BitVec.ofBool x) ++ (BitVec.ofBool p)), 0, 0, a, d, 0x40#7⟩
  | .vchks c x a d => ⟨(BitVec.ofBool c), (0x0#4 ++ (BitVec.ofBool x) ++ 0x0#1), 0, 0, a, d, 0x41#7⟩
  | .vlds c q y x p s a d => ⟨(BitVec.ofBool c), (q ++ (BitVec.ofBool y) ++ (BitVec.ofBool x) ++ (BitVec.ofBool p)), 0, s, a, d, 0x42#7⟩
  | .vmergeLo c b a d => ⟨(BitVec.ofBool c), 0, 0, b, a, d, 0x43#7⟩
  | .vmergeHi c b a d => ⟨(BitVec.ofBool c), 0x1#6, 0, b, a, d, 0x43#7⟩
  | .vmergec c s b a d => ⟨(BitVec.ofBool c), (0x1#1 ++ s), 0, b, a, d, 0x43#7⟩
  | .vinter c b a d => ⟨(BitVec.ofBool c), 0, 0, b, a, d, 0x44#7⟩
  | .vuniq c a d => ⟨(BitVec.ofBool c), 0x1#6, 0, 0, a, d, 0x44#7⟩
  | .vsrev c a d => ⟨(BitVec.ofBool c), 0x2#6, 0, 0, a, d, 0x44#7⟩
  | .vcmx c k a d => ⟨(BitVec.ofBool c), 0x3#6, k, 0, a, d, 0x44#7⟩
  | .vrankLb c b a d => ⟨(BitVec.ofBool c), 0x4#6, 0, b, a, d, 0x44#7⟩
  | .vrankUb c b a d => ⟨(BitVec.ofBool c), 0x5#6, 0, b, a, d, 0x44#7⟩
  | .vpart c b a d => ⟨(BitVec.ofBool c), 0x6#6, 0, b, a, d, 0x44#7⟩
  | .zrcfg q b a z => ⟨0, 0, q, b, a, (0x0#2 ++ z), 0x45#7⟩
  | .zrpush c k a z => ⟨(BitVec.ofBool c), 0x1#6, k, 0, a, (0x0#2 ++ z), 0x45#7⟩
  | .zrpushL c k b a z => ⟨(BitVec.ofBool c), 0x2#6, k, b, a, (0x0#2 ++ z), 0x45#7⟩
  | .zrmerge q a z => ⟨0, 0x3#6, q, 0, a, (0x0#2 ++ z), 0x45#7⟩
  | .zrst q a z => ⟨0, 0x4#6, q, 0, a, (0x0#2 ++ z), 0x45#7⟩
  | .zrread k a z => ⟨0, 0x5#6, 0, k, a, (0x0#2 ++ z), 0x45#7⟩
  | .zrhdr a z => ⟨0, 0x6#6, 0, 0, a, (0x0#2 ++ z), 0x45#7⟩
  | .zrth a z => ⟨0, 0x7#6, 0, 0, a, (0x0#2 ++ z), 0x45#7⟩
  | .vroute k b a d => ⟨0, 0, k, b, a, d, 0x46#7⟩
  | .zop c k b a z => ⟨(BitVec.ofBool c), 0, k, b, a, (0x0#2 ++ z), 0x50#7⟩
  | .zops c k b a z => ⟨(BitVec.ofBool c), 0x1#6, k, b, a, (0x0#2 ++ z), 0x50#7⟩
  | .zpop c k b a z => ⟨(BitVec.ofBool c), 0x2#6, k, b, a, (0x0#2 ++ z), 0x50#7⟩
  | .zmovv c k d a m z => ⟨(BitVec.ofBool c), 0, k, d, a, (m ++ z), 0x51#7⟩
  | .zmovz c k d a m z => ⟨(BitVec.ofBool c), 0x1#6, k, d, a, (m ++ z), 0x51#7⟩
  | .zcvt c k d a m z => ⟨(BitVec.ofBool c), 0x2#6, k, d, a, (m ++ z), 0x51#7⟩
  | .zcvtSc c k d a m z => ⟨(BitVec.ofBool c), 0x3#6, k, d, a, (m ++ z), 0x51#7⟩
  | .zrowstat c k d a m z => ⟨(BitVec.ofBool c), 0x4#6, k, d, a, (m ++ z), 0x51#7⟩
  | .zclr m z => ⟨0, 0, 0, 0, 0, (0x0#1 ++ (BitVec.ofBool m) ++ z), 0x52#7⟩
  | .zwait a z => ⟨0, 0x1#6, 0, 0, a, (0x0#2 ++ z), 0x52#7⟩
  | .zld b h t z => ⟨0, 0, 0, b, (0x0#1 ++ h), (0x0#1 ++ (BitVec.ofBool t) ++ z), 0x53#7⟩
  | .zst b h t z => ⟨0, 0x1#6, 0, b, (0x0#1 ++ h), (0x0#1 ++ (BitVec.ofBool t) ++ z), 0x53#7⟩
  | .pcvt c y x p k b a d => ⟨(BitVec.ofBool c), ((BitVec.ofBool y) ++ (BitVec.ofBool x) ++ p), k, b, a, d, 0x54#7⟩
  | .gtscfg q b a => ⟨0, 0, q, b, a, 0, 0x55#7⟩
  | .gtsnext a => ⟨0, 0x1#6, 0, 0, a, 0, 0x55#7⟩
  | .vprobe b a q => ⟨0, 0, 0, b, a, (0x0#2 ++ q), 0x60#7⟩
  | .vprobeFf b a q => ⟨0, 0x1#6, 0, b, a, (0x0#2 ++ q), 0x60#7⟩
  | .vunpin q => ⟨0, 0x2#6, 0, 0, 0, (0x0#2 ++ q), 0x60#7⟩
  | .vld c q k b a d => ⟨(BitVec.ofBool c), (q ++ 0x0#3), k, b, a, d, 0x61#7⟩
  | .vst c q k b a d => ⟨(BitVec.ofBool c), (q ++ 0x1#3), k, b, a, d, 0x61#7⟩
  | .vldx c q k b a d => ⟨(BitVec.ofBool c), (q ++ 0x0#3), k, b, a, d, 0x62#7⟩
  | .vstx c q k b a d => ⟨(BitVec.ofBool c), (q ++ 0x1#3), k, b, a, d, 0x62#7⟩
  | .vamoAdd c q k b a d => ⟨(BitVec.ofBool c), (q ++ 0x0#3), k, b, a, d, 0x63#7⟩
  | .vamoAnd c q k b a d => ⟨(BitVec.ofBool c), (q ++ 0x1#3), k, b, a, d, 0x63#7⟩
  | .vamoOr c q k b a d => ⟨(BitVec.ofBool c), (q ++ 0x2#3), k, b, a, d, 0x63#7⟩
  | .vamoXor c q k b a d => ⟨(BitVec.ofBool c), (q ++ 0x3#3), k, b, a, d, 0x63#7⟩
  | .vamoMin c q k b a d => ⟨(BitVec.ofBool c), (q ++ 0x4#3), k, b, a, d, 0x63#7⟩
  | .vamoMax c q k b a d => ⟨(BitVec.ofBool c), (q ++ 0x5#3), k, b, a, d, 0x63#7⟩
  | .vamoMinu c q k b a d => ⟨(BitVec.ofBool c), (q ++ 0x6#3), k, b, a, d, 0x63#7⟩
  | .vamoMaxu c q k b a d => ⟨(BitVec.ofBool c), (q ++ 0x7#3), k, b, a, d, 0x63#7⟩
  | .lmld c k b a d => ⟨(BitVec.ofBool c), 0, k, b, a, d, 0x64#7⟩
  | .lmst c k b a d => ⟨(BitVec.ofBool c), 0x1#6, k, b, a, d, 0x64#7⟩
  | .thset q a h => ⟨0, (q ++ 0x0#3), 0, 0, a, (0x0#1 ++ h), 0x65#7⟩
  | .thget q a h => ⟨0, (q ++ 0x1#3), 0, 0, a, (0x0#1 ++ h), 0x65#7⟩
  | .tld c k b h d => ⟨(BitVec.ofBool c), 0x2#6, k, b, (0x0#1 ++ h), d, 0x65#7⟩
  | .tst c k b h d => ⟨(BitVec.ofBool c), 0x3#6, k, b, (0x0#1 ++ h), d, 0x65#7⟩
  | .trelayout q b a h => ⟨0, (q ++ 0x4#3), 0, b, a, (0x0#1 ++ h), 0x65#7⟩
  | .twait h => ⟨0, 0x5#6, 0, 0, 0, (0x0#1 ++ h), 0x65#7⟩
  | .scfg q b a f => ⟨0, (q ++ 0x0#3), 0, b, a, (0x0#2 ++ f), 0x66#7⟩
  | .srd c f d => ⟨(BitVec.ofBool c), 0x1#6, 0, 0, (0x0#2 ++ f), d, 0x66#7⟩
  | .swr c f d => ⟨(BitVec.ofBool c), 0x2#6, 0, 0, (0x0#2 ++ f), d, 0x66#7⟩
  | .savail s f d => ⟨0, 0x3#6, 0, s, (0x0#2 ++ f), d, 0x66#7⟩
  | .cpy q r b a d => ⟨0, (q ++ 0x0#3), r, b, a, d, 0x67#7⟩
  | .vxlate q x k b a d => ⟨0, (q ++ 0x0#2 ++ (BitVec.ofBool x)), k, b, a, d, 0x68#7⟩
  | .pfxlook q b a d => ⟨0, (q ++ 0x0#3), 0, b, a, d, 0x69#7⟩
  | .pfxins q b a d => ⟨0, (q ++ 0x1#3), 0, b, a, d, 0x69#7⟩
  | .pfxdet q b a d => ⟨0, (q ++ 0x2#3), 0, b, a, d, 0x69#7⟩
  | .pfxevict q b a d => ⟨0, (q ++ 0x3#3), 0, b, a, d, 0x69#7⟩
  | .pbay q b a => ⟨0, (q ++ 0x0#3), 0, b, a, 0, 0x6a#7⟩
  | .psend q k b a d => ⟨0, (q ++ 0x1#3), k, b, a, d, 0x6a#7⟩
  | .waitwWake _ _ => ⟨0, 0, 0, 0, 0, 0, 0⟩
  | .gbarWake _ _ => ⟨0, 0, 0, 0, 0, 0, 0⟩
  | .pauseExpiry _ _ => ⟨0, 0, 0, 0, 0, 0, 0⟩
  | .watchdogExpiry _ _ => ⟨0, 0, 0, 0, 0, 0, 0⟩
  | .dependenceEvaluation _ => ⟨0, 0, 0, 0, 0, 0, 0⟩
  | .dependenceRetry _ => ⟨0, 0, 0, 0, 0, 0, 0⟩
  | .dependencePoll _ => ⟨0, 0, 0, 0, 0, 0, 0⟩
  | .gangPlacement _ _ => ⟨0, 0, 0, 0, 0, 0, 0⟩
  | .keyReadRetry _ _ => ⟨0, 0, 0, 0, 0, 0, 0⟩
  | .entryReserving _ => ⟨0, 0, 0, 0, 0, 0, 0⟩
  | .unplaceableReport _ => ⟨0, 0, 0, 0, 0, 0, 0⟩
  | .preemptionGraceExpiry _ _ => ⟨0, 0, 0, 0, 0, 0, 0⟩
  | .gangPreemption _ => ⟨0, 0, 0, 0, 0, 0, 0⟩
  | .contextSaveDone _ => ⟨0, 0, 0, 0, 0, 0, 0⟩
  | .gangRestore _ _ => ⟨0, 0, 0, 0, 0, 0, 0⟩
  | .notificationDelivery _ => ⟨0, 0, 0, 0, 0, 0, 0⟩
  | .probeFaultReply _ _ => ⟨0, 0, 0, 0, 0, 0, 0⟩
  | .preqPreempt _ => ⟨0, 0, 0, 0, 0, 0, 0⟩
  | .preqEnd _ => ⟨0, 0, 0, 0, 0, 0, 0⟩
  | .preqReserved _ => ⟨0, 0, 0, 0, 0, 0, 0⟩
  | .mreqRehash _ _ _ => ⟨0, 0, 0, 0, 0, 0, 0⟩
  | .mreqMoveHbm _ _ => ⟨0, 0, 0, 0, 0, 0, 0⟩
  | .mreqMoveLpddr _ _ => ⟨0, 0, 0, 0, 0, 0, 0⟩
  | .rowMissRehash _ => ⟨0, 0, 0, 0, 0, 0, 0⟩
  | .migrationStart _ => ⟨0, 0, 0, 0, 0, 0, 0⟩
  | .migrationChunk _ _ => ⟨0, 0, 0, 0, 0, 0, 0⟩
  | .icmdInvalidate _ _ => ⟨0, 0, 0, 0, 0, 0, 0⟩
  | .invalidationDone _ => ⟨0, 0, 0, 0, 0, 0, 0⟩
  | .relayoutUnit _ => ⟨0, 0, 0, 0, 0, 0, 0⟩
  | .streamFetch _ _ _ _ => ⟨0, 0, 0, 0, 0, 0, 0⟩
  | .streamWriteDrain _ _ _ _ => ⟨0, 0, 0, 0, 0, 0, 0⟩
  | .engineTransferComplete _ _ => ⟨0, 0, 0, 0, 0, 0, 0⟩
  | .psendComplete _ _ => ⟨0, 0, 0, 0, 0, 0, 0⟩
  | .l1dEviction _ _ => ⟨0, 0, 0, 0, 0, 0, 0⟩
  | .remoteLineExpiry _ _ => ⟨0, 0, 0, 0, 0, 0, 0⟩
  | .scrub _ _ _ => ⟨0, 0, 0, 0, 0, 0, 0⟩
  | .repair _ => ⟨0, 0, 0, 0, 0, 0, 0⟩
  | .repairApproval _ => ⟨0, 0, 0, 0, 0, 0, 0⟩
  | .repairComplete _ => ⟨0, 0, 0, 0, 0, 0, 0⟩
  | .powerMeasurement _ => ⟨0, 0, 0, 0, 0, 0, 0⟩
  | .thermalHold _ => ⟨0, 0, 0, 0, 0, 0, 0⟩
  | .powerTrip => ⟨0, 0, 0, 0, 0, 0, 0⟩
  | .powerGood => ⟨0, 0, 0, 0, 0, 0, 0⟩
  | .bootgo => ⟨0, 0, 0, 0, 0, 0, 0⟩
  | .memoryTraining _ _ _ _ => ⟨0, 0, 0, 0, 0, 0, 0⟩
  | .serviceReady => ⟨0, 0, 0, 0, 0, 0, 0⟩
  | .drainRequest => ⟨0, 0, 0, 0, 0, 0, 0⟩
  | .drainRelease => ⟨0, 0, 0, 0, 0, 0, 0⟩
  | .seedWrite _ _ => ⟨0, 0, 0, 0, 0, 0, 0⟩
  | .controlRegisterWrite _ _ => ⟨0, 0, 0, 0, 0, 0, 0⟩
  | .getVersion => ⟨0, 0, 0, 0, 0, 0, 0⟩
  | .getCapabilities => ⟨0, 0, 0, 0, 0, 0, 0⟩
  | .negotiateAlgorithms => ⟨0, 0, 0, 0, 0, 0, 0⟩
  | .getDigests => ⟨0, 0, 0, 0, 0, 0, 0⟩
  | .getCertificate => ⟨0, 0, 0, 0, 0, 0, 0⟩
  | .challenge => ⟨0, 0, 0, 0, 0, 0, 0⟩
  | .getMeasurements => ⟨0, 0, 0, 0, 0, 0, 0⟩
  | .read _ => ⟨0, 0, 0, 0, 0, 0, 0⟩
  | .write _ => ⟨0, 0, 0, 0, 0, 0, 0⟩
  | .atomic _ => ⟨0, 0, 0, 0, 0, 0, 0⟩
  | .pfxlookMessage _ => ⟨0, 0, 0, 0, 0, 0, 0⟩
  | .pfxinsMessage _ => ⟨0, 0, 0, 0, 0, 0, 0⟩
  | .pfxdetMessage _ => ⟨0, 0, 0, 0, 0, 0, 0⟩
  | .pfxevictMessage _ => ⟨0, 0, 0, 0, 0, 0, 0⟩
  | .atomicWait _ => ⟨0, 0, 0, 0, 0, 0, 0⟩
  | .atomicWaitReply _ => ⟨0, 0, 0, 0, 0, 0, 0⟩
  | .atomicWaitTimeout _ => ⟨0, 0, 0, 0, 0, 0, 0⟩
  | .spawnMessage _ => ⟨0, 0, 0, 0, 0, 0, 0⟩
  | .parcel _ => ⟨0, 0, 0, 0, 0, 0, 0⟩
  | .reply _ => ⟨0, 0, 0, 0, 0, 0, 0⟩
  | .requestTimeout _ => ⟨0, 0, 0, 0, 0, 0, 0⟩
  | .rdmaWrite _ _ _ => ⟨0, 0, 0, 0, 0, 0, 0⟩
  | .rdmaRead _ _ _ => ⟨0, 0, 0, 0, 0, 0, 0⟩
  | .send _ _ => ⟨0, 0, 0, 0, 0, 0, 0⟩
  | .atomicFetchAdd _ _ _ => ⟨0, 0, 0, 0, 0, 0, 0⟩
  | .atomicCompareSwap _ _ _ _ => ⟨0, 0, 0, 0, 0, 0, 0⟩
  | .rdmaCompletion _ _ => ⟨0, 0, 0, 0, 0, 0, 0⟩
  | .connectionError _ => ⟨0, 0, 0, 0, 0, 0, 0⟩
  | .peerLost _ => ⟨0, 0, 0, 0, 0, 0, 0⟩
  | .illegalInsn _ => ⟨0, 0, 0, 0, 0, 0, 0⟩
  | .instructionFetchFault => ⟨0, 0, 0, 0, 0, 0, 0⟩
  | .preemptionWindowExpiry _ _ => ⟨0, 0, 0, 0, 0, 0, 0⟩

/-- R78, R95: the second word of a long form; 0 for every other instruction. -/
def Instr.secondWord : Instr → BitVec 32
  | .liw _ i => i
  | _ => 0

/-- The words of an instruction (R79): one, or two for the long form. -/
def encode (i : Instr) : List (BitVec 32) :=
  match i with
  | .liw _ imm => [joinWord i.fields, imm]
  | _ => [joinWord i.fields]

/-- Has the row an encoding? The steps of the device and of the outside world have none. -/
def Instr.encoded : Instr → Bool
  | .waitwWake _ _ => false
  | .gbarWake _ _ => false
  | .pauseExpiry _ _ => false
  | .watchdogExpiry _ _ => false
  | .dependenceEvaluation _ => false
  | .dependenceRetry _ => false
  | .dependencePoll _ => false
  | .gangPlacement _ _ => false
  | .keyReadRetry _ _ => false
  | .entryReserving _ => false
  | .unplaceableReport _ => false
  | .preemptionGraceExpiry _ _ => false
  | .gangPreemption _ => false
  | .contextSaveDone _ => false
  | .gangRestore _ _ => false
  | .notificationDelivery _ => false
  | .probeFaultReply _ _ => false
  | .preqPreempt _ => false
  | .preqEnd _ => false
  | .preqReserved _ => false
  | .mreqRehash _ _ _ => false
  | .mreqMoveHbm _ _ => false
  | .mreqMoveLpddr _ _ => false
  | .rowMissRehash _ => false
  | .migrationStart _ => false
  | .migrationChunk _ _ => false
  | .icmdInvalidate _ _ => false
  | .invalidationDone _ => false
  | .relayoutUnit _ => false
  | .streamFetch _ _ _ _ => false
  | .streamWriteDrain _ _ _ _ => false
  | .engineTransferComplete _ _ => false
  | .psendComplete _ _ => false
  | .l1dEviction _ _ => false
  | .remoteLineExpiry _ _ => false
  | .scrub _ _ _ => false
  | .repair _ => false
  | .repairApproval _ => false
  | .repairComplete _ => false
  | .powerMeasurement _ => false
  | .thermalHold _ => false
  | .powerTrip => false
  | .powerGood => false
  | .bootgo => false
  | .memoryTraining _ _ _ _ => false
  | .serviceReady => false
  | .drainRequest => false
  | .drainRelease => false
  | .seedWrite _ _ => false
  | .controlRegisterWrite _ _ => false
  | .getVersion => false
  | .getCapabilities => false
  | .negotiateAlgorithms => false
  | .getDigests => false
  | .getCertificate => false
  | .challenge => false
  | .getMeasurements => false
  | .read _ => false
  | .write _ => false
  | .atomic _ => false
  | .pfxlookMessage _ => false
  | .pfxinsMessage _ => false
  | .pfxdetMessage _ => false
  | .pfxevictMessage _ => false
  | .atomicWait _ => false
  | .atomicWaitReply _ => false
  | .atomicWaitTimeout _ => false
  | .spawnMessage _ => false
  | .parcel _ => false
  | .reply _ => false
  | .requestTimeout _ => false
  | .rdmaWrite _ _ _ => false
  | .rdmaRead _ _ _ => false
  | .send _ _ => false
  | .atomicFetchAdd _ _ _ => false
  | .atomicCompareSwap _ _ _ _ => false
  | .rdmaCompletion _ _ => false
  | .connectionError _ => false
  | .peerLost _ => false
  | .illegalInsn _ => false
  | .instructionFetchFault => false
  | .preemptionWindowExpiry _ _ => false
  | _ => true

end Sys2Proof
end

