-- ==== Sys2Proof/Machine/Issue.lean ====
section
/-!
DEFINITION. Which hart issues next (R309), what a clk does to the counts (R38, R317), and the fetch of an instruction's
words through the instruction cache (R113, R244).
-/
namespace Sys2Proof.Machine

/-! ### Clocks and selection -/

/-- R309, R240: the hart can be selected for issue, but for PAUSE: its gang issues, or has been stopped and an engine instruction
of the hart completes first. -/
def mayIssue (s : State) (h : Hart) : Bool :=
  !h.cores.isEmpty && (h.st == .ready || h.st == .run || h.st == .trapped) && h.waits == .nothing &&
  !h.stopped && !h.held && (gangIssues s h || completesEngine s h)

/-- R309, R121: the hart can be selected for issue. -/
def eligible (s : State) (h : Hart) : Bool := mayIssue s h && decide (h.pauseUntil ≤ s.clk)

/-- R309, R317: what `n` clk do to the counts of a hart: its age counts those in which it is eligible, its watchdog those in which
it is RUN and has not expired. -/
def Hart.aged (h : Hart) (s : State) (n : Nat) : Hart :=
  { h with
    age := if mayIssue s h then h.age + min n (s.clk + n + 1 - h.pauseUntil) else h.age
    wdcount := if h.st = .run ∧ h.expired = false then h.wdcount + n else h.wdcount }

/-- R38, R295, R309, R313, R317: `n` clk pass: CYCLE counts them, ages and watchdogs too, the queue's clocks are as the queue has
stood, and lines of remote-line buffers end after 10 µs. A hart whose RETIRED then increases has its watchdog count set to 0
(`State.countRetired`). That the clk in which another hart is selected counts too is log 75. -/
def tick (n : Nat) (s : State) : State :=
  let s := refreshQueue s
  { s with
    clk := s.clk + n
    rlb := s.rlb.filter fun l => decide (s.clk + n ≤ l.filled + 25000)
    hart := s.hart.aged s n
    parked := s.parked.map (Hart.aged · s n) }

/-- R309: the priority of a hart is its gang's; a hart of no gang has the highest (log 10). -/
def prioOf (s : State) (h : Hart) : Nat := ((findGang s h.name.1).map Gang.prio).getD 7

/-- R309: does `a` win against `b`? -/
def winsIssue (s : State) (a b : Hart) : Bool :=
  let ka := if 48 ≤ a.age then (1, a.age, 0) else (0, prioOf s a + a.age / 8, a.age)
  let kb := if 48 ≤ b.age then (1, b.age, 0) else (0, prioOf s b + b.age / 8, b.age)
  decide (kb.1 < ka.1) || (ka.1 == kb.1 && (decide (kb.2.1 < ka.2.1) || (ka.2.1 == kb.2.1 &&
    (decide (kb.2.2 < ka.2.2) || (ka.2.2 == kb.2.2 && decide (a.slot < b.slot))))))

/-- R309: the hart a core's issue stage selects. -/
def selectHart (s : State) (core : Nat) : Option Hart :=
  let e := s.harts.filter fun h => h.home == core && eligible s h
  let e := if e.any (fun h => !h.yielded) then e.filter (fun h => !h.yielded) else e
  e.foldl (fun best h => match best with
    | some b => if winsIssue s h b then some h else some b
    | none => some h) none

/-- R23, R24, R309: the hart as it issues: its age is 0, and READY becomes RUN. -/
def Hart.issuing (h : Hart) : Hart :=
  { h with
    age := 0, yielded := false, st := if h.st = .ready then .run else h.st
    wdcount := if h.st = .ready then 0 else h.wdcount }

/-- The hart as it stands, and the state in which it issues under the cursor. A hart that leaves the cursor sees from then on what
its vector agent has written (log 8). -/
def cursorOn (s : State) (h : Hart) : Option (Hart × State) :=
  (focus (if s.hart.name = h.name then s else noShadows s) h.name.1 h.name.2).map fun s =>
    (s.hart, setHart s s.hart.issuing)

/-- R309: the hart that core `core` selects as it stood, and the state in which it issues; none when no hart of the core is
eligible. -/
def selected (s : State) (core : Nat) : Option (Hart × State) := (selectHart s core).bind (cursorOn s)

/-- The core that issues when the agenda is empty: the first from core clk mod 512 on that has an eligible hart (log 1). -/
def nextCore (s : State) : Option Nat :=
  let cs := (s.harts.filter fun h => eligible s h).map fun h => (h.home + 512 - s.clk % 512) % 512
  match cs with
  | [] => none
  | c :: r => some ((r.foldl min c + s.clk) % 512)

/-! ### Fetch (R113, R244) -/

/-- R242: a word put into a core's instruction cache of 128 KiB. -/
def cacheWord (s : State) (core key : Nat) (w : BitVec 32) : State :=
  { s with icache := keepWithin 32768 (fun x => x.core == core) ⟨core, key, w⟩ s.icache }

/-- R244: the word at a storage key as the core's instruction cache gives it, from the cache or from the storage. -/
def cachedWord (s : State) (core key : Nat) (tval : Word) : Res (BitVec 32) :=
  match s.icache.find? (fun w => decide (w.core = core) && decide (w.key = key)) with
  | some w => .ok w.word s
  | none =>
    if poisoned s key 4 then .trap ⟨.poison, tval⟩ s
    else
      let w := BitVec.ofNat 32 (readLE s.mem key 4)
      .ok w (cacheWord s core key w)

/-- R113, R328: the instruction word at `a`; a word that cannot be fetched traps ADDR_RANGE with the pc in TVAL. -/
def fetchWord (s : State) (a : Word) : Res (BitVec 32) :=
  match scalarLanding s a 4 .fetch with
  | .error _ => .trap ⟨.addrRange, s.hart.pc⟩ s
  | .ok (l, s) =>
    match l with
    | .window k => cachedWord s s.hart.home k (poisonTval (.key k) a)
    | .main pa => cachedWord s s.hart.home pa (poisonTval (.key pa) a)
    | .remote pa =>
      match s.icache.find? (fun w => decide (w.core = s.hart.home) && decide (w.key = pa)) with
      | some w => .ok w.word s
      | none => (remoteLoad s pa 4).andThen fun (v, p) s =>
        if p then .trap ⟨.poison, poisonTval (.remote pa) a⟩ s
        else .ok (BitVec.ofNat 32 v) (cacheWord s s.hart.home pa (BitVec.ofNat 32 v))
    | .isleCtl _ _ => .trap ⟨.addrRange, s.hart.pc⟩ s
    | .moduleCtl _ => .trap ⟨.addrRange, s.hart.pc⟩ s

/-- R78: the words at the pc: one, or two where the first is that of a long form. -/
def fetchWords (s : State) : Res (BitVec 32 × BitVec 32) :=
  (fetchWord s s.hart.pc).andThen fun w0 s =>
    if isLongForm w0 then (fetchWord s (s.hart.pc + 4)).andThen fun w1 s => .ok (w0, w1) s
    else .ok (w0, 0) s

/-- What the hart under the cursor does next, and the state after the fetch: the instruction at its pc, the trap of a word
that is no instruction (R85), the trap of a fetch that fails (R113), or nothing while a word comes from another module. -/
noncomputable def fetchInstr (s : State) : Option Instr × State :=
  match fetchWords s with
  | .ok (w0, w1) s =>
    match decode w0 w1 with
    | .ok i => (some i, s)
    | .error _ => (some (.illegalInsn (illegalTval w0 w1)), s)
  | .trap _ _ => (some .instructionFetchFault, setHart s s.hart.stopBetween)
  | .hold s => (none, s)

/-! ### Harts that are held -/

/-- The instruction of the hart under the cursor did not complete and did not trap. -/
def isHold (before after : State) : Bool :=
  before.hart.name == after.hart.name && before.hart.pc == after.hart.pc && before.hart.st == after.hart.st &&
  before.hart.csr.retired == after.hart.csr.retired && before.hart.stopped == after.hart.stopped &&
  before.hart.csr.tpc == after.hart.csr.tpc

/-- The instruction has not even begun: nothing of it shows in the hart and its engines, and no message has left. -/
def notBegun (before after : State) : Bool :=
  let a := before.hart
  let b := after.hart
  a.csr.vstart == b.csr.vstart && a.engine == b.engine && a.progress == b.progress && a.psend == b.psend &&
  a.order == b.order && a.transfers == b.transfers && a.remote == b.remote && a.f == b.f && a.xlateFault == b.xlateFault &&
  before.nextTag == after.nextTag && before.relayouts == after.relayouts

/-- R309, R317: a hart whose instruction is held. One that has not begun has not issued: it stands as before it was selected, in
`prior`, and this clk, in which it could not issue, does not age it. -/
def markHeld (prior : Hart) (before after : State) : State :=
  if isHold before after then
    let h := { after.hart with held := true }
    setHart after (if notBegun before after then
      { h with age := prior.age - 1, yielded := prior.yielded, st := prior.st, wdcount := prior.wdcount } else h)
  else after

/-- Another agent than the hart under the cursor acts, on the memory as it stands (log 8). Ends of gangs that wait for other
modules go on (R323). -/
def othersAct (s : State) : State := finishEnds (noShadows s)

/-- Is the instruction a step of the device or of the outside world, which the agenda may name? -/
def isDeviceStep : Instr → Bool
  | .illegalInsn _ => false
  | .instructionFetchFault => false
  | i => i.fields.op == 0

/-! ### Turns other than an instruction's -/

/-- R193: the oldest matrix-queue operation of a hart completes; those on other tiles follow in their order (log 42). -/
def queueDone (s : State) (g m : Nat) : State :=
  onHart s g m fun s => setHart s { s.hart with mq := s.hart.mq.drop 1 }

/-- R244: a word leaves a core's instruction cache. -/
def dropIcacheWord (s : State) (core key : Nat) : State :=
  { s with icache := s.icache.filter fun w => !(decide (w.core = core) && decide (w.key = key)) }

/-- R256: the translation of an address leaves a core's scalar translation cache. -/
def dropStcEntry (s : State) (core va : Nat) : State :=
  { s with stc := s.stc.filter fun e => !(decide (e.core = core) && decide (va / e.size * e.size = e.va)) }

/-- R271, R275: the agents of a hart lag from now on, or do not. -/
def lagHart (s : State) (g m : Nat) (scalar vector : Bool) : State := onHart s g m fun s => setLag s scalar vector

/-- R271: an access of a hart that its agent has issued is performed. -/
def performFor (s : State) (g m : Nat) (scalar : Bool) (i : Nat) : State := onHart s g m fun s => performEntry s scalar i

/-! ### A program placed for one step -/

/-- The hart that withFetchWord places: member 0 of a gang of one, in slot 0 of core 0 of Isle 0, READY, with all registers
and tiles (log 11). Its pc is the first byte of its own scratchpad. -/
def loadedHart : Hart :=
  { Hart.none with
    pc := 0x000F800000000000, st := .ready, cores := [0], slot := 0
    csr := { Csrs.start with gangid := 1, gangsize := 1 } }

/-- The record of its gang: GSIZE 1, SPAN 1, FOOT 32, TILES 8, ISLES 1. -/
def loadedGang : Gang :=
  { gid := 1, asid := 0, record := setRecWord 0 2 0x10208101, status := .resident, posted := 0, phase := 0, expected := 1,
    arrived := 0, exits := 0, gone := [], home := some 0, groups := [], nextItem := 0, newGroups := [], key := 0, level := 8,
    firstSince := none, blockedSince := none, reserving := false, slotsHeld := [], reported := false, waitingSince := 0, placedAt := 0, windowFrom := none,
    dependNoted := false, keyRetryAt := 0, frames := [], unsaved := [] }

/-- The machine with that gang placed where no hart is under the cursor. -/
def loaded (s : State) : State :=
  if s.hart.cores.isEmpty then
    { s with hart := loadedHart, gangs := loadedGang :: s.gangs, nextGid := 2, nextPost := 1, resident := [(0, 0)] }
  else s

/-- Sixteen bytes of an instruction and zeros placed at the pc of that hart. -/
def placeWord (s : State) (w : Nat) : State :=
  let s := loaded s
  { s with
    agenda := []
    hart := { s.hart with pc := 0x000F800000000000 }
    icache := s.icache.filter fun x => x.core != s.hart.home
    mem := writeLE s.mem (coreKey s.hart.home 0) 16 w }

end Sys2Proof.Machine
end

