-- ==== Sys2Proof/Machine/Messages.lean ====
section
/-!
DEFINITION. Messages of the fabric: requests of the host and of other modules (R342-R350), replies and timeouts (R343, R345),
the RoCE responder and initiator (R351-R353), the loss of a peer (R362), and the traps of a fetch (R85, R113).
-/
namespace Sys2Proof
open Machine

/-! ### Headers (R342) -/

def Message.word (m : Message) (i : Nat) : Word := recWord m.header i
def Message.typ (m : Message) : Nat := bits (m.word 0) 60 4
def Message.src (m : Message) : Nat := bits (m.word 0) 44 12
def Message.tag (m : Message) : Nat := bits (m.word 0) 0 32
def Message.virt (m : Message) : Bool := bit (m.word 1) 63
def Message.asid (m : Message) : BitVec 12 := BitVec.ofNat 12 (bits (m.word 1) 51 12)
def Message.op (m : Message) : Nat := bits (m.word 1) 40 8
def Message.status (m : Message) : Nat := bits (m.word 1) 32 8
def Message.len (m : Message) : Nat := bits (m.word 1) 0 13
def Message.addr (m : Message) : Word := m.word 2
def Message.arg0 (m : Message) : Word := m.word 3
def Message.arg1 (m : Message) : Word := m.word 4

/-- R342: a reserved bit of a request is set, the bytes from +40 on among them. -/
def Message.reserved (m : Message) : Bool :=
  bits (m.word 0) 56 4 != 0 || bits (m.word 1) 48 3 != 0 || bits (m.word 1) 13 19 != 0 ||
    m.word 5 != 0 || m.word 6 != 0 || m.word 7 != 0

/-- R342: LEN is above its range, which a request that carries no LEN does not meet either. -/
def Message.bigLen (m : Message) : Bool := decide (4096 < m.len)
/-- R342: LEN is out of range. -/
def Message.badLen (m : Message) : Bool := m.len == 0 || m.bigLen
/-- R343: an OP of an atomic that is none of the table's. -/
def Message.badOp (m : Message) : Bool := decide (9 < m.op) && !(decide (16 ≤ m.op) && decide (m.op ≤ 19))
/-- R342: a read or write with T = 1 crosses a page boundary. -/
def Message.crosses (m : Message) : Bool := m.virt && decide (4096 < m.addr.toNat % 4096 + m.len)

end Sys2Proof
namespace Sys2Proof.Machine

/-! ### Replies (R342, R343) -/

/-- R342: the STATUS codes. -/
def stOk : Nat := 0
def stNotPresent : Nat := 1
def stDenied : Nat := 2
def stBusy : Nat := 3
def stTimeout : Nat := 4
def stRejected : Nat := 5
def stMalformed : Nat := 6

/-- R343: the reply to a request. -/
def replyTo (s : State) (m : Message) (status : Nat) (arg0 : Word) (data : List (Word × Bool)) (len : Nat) : State :=
  sendMessage s ⟨msgHeader s 7 m.src m.tag 0 status len 0 arg0 0, data⟩
/-- A reply that carries only its STATUS. -/
def replyStatus (s : State) (m : Message) (status : Nat) : State := replyTo s m status 0 [] 0

/-- R342, R343: a request of TYPE `typ` handled, or MALFORMED. A message of another TYPE up to 7 is not this event's, nor an
atomic of another of its OPs (`mine`). -/
def onRequest (s : State) (m : Message) (typ : Nat) (mine malformed : Bool) (f : State → State) : State :=
  if m.typ = typ then
    if typ = 2 ∧ m.badOp = true then replyStatus s m stMalformed
    else if !mine then s
    else if m.reserved || malformed then replyStatus s m stMalformed
    else f s
  else if 8 ≤ m.typ then replyStatus s m stMalformed
  else s

/-! ### Where a request lands (R339, R346, R355) -/

/-- The window form is the host's, which is any sender until HOST is written. -/
def fromHost (s : State) (m : Message) : Bool := bits s.ctl.host 0 12 == 0xFFF || m.src == bits s.ctl.host 0 12

/-- R339: the OFFSET of an ADDR that is not virtual: a fabric address of this module, or the OFFSET alone. -/
def messageOffset (s : State) (a : Word) : Option Nat :=
  if isFabric a.toNat then (if fabricNode a.toNat = bits s.ctl.node 0 12 ∧ bits a 56 8 = 0 then some (fabricOffset a.toNat) else none)
  else if a.toNat < 2 ^ 43 then some a.toNat else none

/-- R339, R249: the window address of an OFFSET in window form. -/
def windowForm (off : Nat) : Word :=
  BitVec.ofNat 64 (0xF * 2 ^ 48 + off / 2 ^ 38 % 16 * 2 ^ 44 + off / 2 ^ 32 % 64 * 2 ^ 38 + off % 2 ^ 32)

/-- R355: the storage of a core that a stage lets requests of the window form reach. -/
def stageServes (s : State) (core off n : Nat) (write : Bool) : Bool :=
  decide (1 ≤ stageNum s) || (write && core == 0 && decide (off + n ≤ 0xC00000))

/-- R339, R341, R355: where a request in window form for `n` bytes lands; `whole` tells a read or a write, which alone reaches the
control pages, and a write the load area in stage 0. -/
def windowTarget (s : State) (off n : Nat) (write whole : Bool) : Option Landing :=
  let a := windowForm off
  if off / 2 ^ 38 % 16 = 8 then none
  else match windowPlace s 0 a, windowPlace s 0 (a + BitVec.ofNat 64 (n - 1)) with
    | .core c o, .core _ _ => if stageServes s c o n (write && whole) then some (.window (coreKey c o)) else none
    | .isleCtl i o, _ => if whole ∧ n = 8 ∧ o % 8 = 0 ∧ 1 ≤ stageNum s then some (.isleCtl i o) else none
    | .moduleCtl o, _ => if whole ∧ n = 8 ∧ o % 8 = 0 then some (.moduleCtl o) else none
    | _, _ => none

/-- R346: translation of a request's address, with supervisor privilege, through the tables that Isle 0 finds. -/
def virtualTarget (s : State) (m : Message) (n : Nat) (kind : AccessKind) : Except Nat (Landing × State) :=
  if bits m.addr 52 12 ≠ 0 ∨ inWindow m.addr = true ∨ stageNum s < 2 then .error stNotPresent
  else match walk s 0 m.asid m.addr.toNat with
    | none => .error stNotPresent
    | some l =>
      if !pteAllows l.pte false kind then .error stDenied
      else
        let pa := l.pa + m.addr.toNat % l.size
        if pa + n ≤ mainBytes then .ok (.main pa, setAccessed s l.key (kind == .store)) else .error stNotPresent

/-- R339, R346, R355: where a request for `n` bytes lands, or the STATUS that refuses it. -/
def target (s : State) (m : Message) (n : Nat) (kind : AccessKind) (whole : Bool) : Except Nat (Landing × State) :=
  if m.virt then virtualTarget s m n kind
  else match messageOffset s m.addr with
    | none => .error stNotPresent
    | some off =>
      if off < 2 ^ 42 then
        if 2 ≤ stageNum s ∧ off + n ≤ mainBytes then .ok (.main off, s) else .error stNotPresent
      else if fromHost s m then
        match windowTarget s off n (kind == .store) whole with
        | some l => .ok (l, s)
        | none => .error stNotPresent
      else .error stNotPresent

/-- The key of storage; none for a control register. -/
def Landing.key? : Landing → Option Nat
  | .window k => some k
  | .main pa => some pa
  | _ => none

/-! ### Reads and writes (R343) -/

/-- R343: `n` bytes of storage as data words with their poison. -/
def dataWords (s : State) (k n : Nat) : List (Word × Bool) :=
  (List.range ((n + 7) / 8)).map fun i =>
    let w := min 8 (n - 8 * i)
    (BitVec.ofNat 64 (readLE s.mem (k + 8 * i) w), poisoned s (k + 8 * i) w)

/-- R343: the bytes of data words written from key `k`, with their poison; mailbox bits that are the device's stay. -/
def writeData (k : Nat) : Nat → List (Word × Bool) → State → State
  | _, [], s => s
  | n, (v, _) :: r, s =>
    let w := min 8 n
    writeData (k + 8) (n - w) r (promoteChunk (putAgent s k w v.toNat) k)
/-- R266: poisoned words arrive poisoned. -/
def poisonData (k : Nat) (data : List (Word × Bool)) (s : State) : State :=
  data.zipIdx.foldl (fun s w => if w.1.2 then poisonKey s (k + 8 * w.2) else s) s
/-- R343, R266: `n` bytes written at their storage by one request. -/
def storeData (s : State) (k n : Nat) (data : List (Word × Bool)) : State :=
  let data := data.take ((n + 7) / 8)
  poisonData k data (clearCovered (writeData k n data s) [(k, n)])

/-- R343: a read. -/
def readRequest (m : Message) (s : State) : State :=
  match target s m m.len .load true with
  | .error e => replyStatus s m e
  | .ok (.isleCtl i off, s) => replyTo s m stOk 0 [(readIsleCtl s i off, false)] 8
  | .ok (.moduleCtl off, s) => replyTo s m stOk 0 [(readModuleCtl s off, false)] 8
  | .ok (l, s) => match l.key? with
    | some k => replyTo s m stOk 0 (dataWords s k m.len) m.len
    | none => replyStatus s m stNotPresent
/-- R343: a fabric read request. -/
def execRead (msg : Message) (s : State) : Out :=
  .next (onRequest s msg 0 true (msg.badLen || msg.crosses) (readRequest msg))

/-- R343: a write; a control register takes the first data word. -/
def writeRequest (m : Message) (s : State) : State :=
  let v := ((m.data.head?).map (·.1)).getD 0
  match target s m m.len .store true with
  | .error e => replyStatus s m e
  | .ok (.isleCtl i off, s) => replyStatus (writeIsleCtl s i off v false) m stOk
  | .ok (.moduleCtl off, s) => replyStatus (writeModuleCtl s off v) m stOk
  | .ok (l, s) => match l.key? with
    | some k => replyStatus (storeData s k m.len m.data) m stOk
    | none => replyStatus s m stNotPresent
/-- R343: a fabric write request. It carries a data word for each eight bytes. -/
def execWrite (msg : Message) (s : State) : Out :=
  .next (onRequest s msg 1 true (msg.badLen || msg.crosses || msg.data.length != (msg.len + 7) / 8) (writeRequest msg))

/-! ### Atomics (R343, R350) -/

/-- R343: what OP does to a word. -/
def messageAtomic (m : Message) (old : Word) : Option Word :=
  if m.op = 9 then (if old = m.arg1 then some m.arg0 else none) else some (atomicOp m.op old m.arg0)

/-- R343: an atomic. A poisoned word stays, and the reply says so with a poisoned data word (log 22). -/
def atomicRequest (m : Message) (s : State) : State :=
  match target s m 8 .store false with
  | .error e => replyStatus s m e
  | .ok (l, s) => match l.key? with
    | some k =>
      if poisoned s k 8 then replyTo s m stOk 0 [(0, true)] 8
      else
        let (old, s) := storageAtomic s k (messageAtomic m)
        replyTo s m stOk old [] 0
    | none => replyStatus s m stNotPresent
/-- R343: a fabric atomic request of OP 0 to 9. -/
def execAtomic (msg : Message) (s : State) : Out :=
  .next (onRequest s msg 2 (decide (msg.op ≤ 9)) (msg.bigLen || msg.addr.toNat % 8 != 0) (atomicRequest msg))

/-- R350: the token ids of a prefix message, where they and the buffer lie in main memory; a poisoned id is no id. -/
def prefixIds (s : State) (m : Message) : Option (List (BitVec 32) × Nat) :=
  let n := m.len / 4
  match messageOffset s m.addr, messageOffset s m.arg1 with
  | some a, some b =>
    if 2 ≤ stageNum s ∧ fromHost s m = true ∧ a + m.len ≤ mainBytes ∧ b < mainBytes ∧ poisoned s a m.len = false then
      some ((List.range n).map fun i => BitVec.ofNat 32 (readLE s.mem (a + 4 * i) 4), b)
    else none
  | _, _ => none

/-- R350: page ids written to the buffer. -/
def putPages (k : Nat) : List (BitVec 32) → State → State
  | [], s => s
  | x :: r, s => putPages (k + 4) r (storeBytes (promoteChunk s k) k 4 x.toNat)

/-- R350: a host message for the Atoll: `op` its OP, `f` the operation on tree, ids, MAXF and the buffer. -/
def prefixRequest (s : State) (m : Message) (op : Nat) (o : PrefixOp)
    (f : State → Nat → List (BitVec 32) → Nat → Nat → Word × State) : State :=
  let bad := m.virt || m.addr.toNat % 4 != 0 || m.arg1.toNat % 4 != 0 || m.len % 4 != 0 ||
    m.bigLen || !prefixWordOk m.arg0 o (m.len / 4)
  onRequest s m 2 (m.op == op) bad fun s =>
    match prefixIds s m with
    | none => replyStatus s m stNotPresent
    | some (ids, buf) =>
      let maxf := bits m.arg0 32 16
      if mainBytes < buf + 4 * o.ids ids.length maxf then replyStatus s m stNotPresent
      else
        let (w, s) := f s (bits m.arg0 0 16) ids maxf buf
        replyTo s m stOk w [] 0

/-- R350: OP 16. -/
def execPfxlookMessage (msg : Message) (s : State) : Out :=
  .next (prefixRequest s msg 16 .look fun s tree ids _ buf =>
    let (pages, w, s) := atollLook s tree ids
    (w, putPages buf pages s))
/-- R350: OP 17; the buffer's page ids are read. -/
def execPfxinsMessage (msg : Message) (s : State) : Out :=
  .next (prefixRequest s msg 17 .insert fun s tree ids _ buf =>
    atollInsert s 0 tree ids ((List.range (ids.length / 16)).map fun i => BitVec.ofNat 32 (readLE s.mem (buf + 4 * i) 4)))
/-- R350: OP 18. -/
def execPfxdetMessage (msg : Message) (s : State) : Out :=
  .next (prefixRequest s msg 18 .detach fun s tree ids _ _ => atollDetach s tree ids)
/-- R350: OP 19. -/
def execPfxevictMessage (msg : Message) (s : State) : Out :=
  .next (prefixRequest s msg 19 .evict fun s tree ids maxf buf =>
    let (pages, w, s) := atollEvict s tree ids maxf
    (w, putPages buf pages s))

/-! ### Atomic-waits (R348) -/

/-- R348: a wait is kept, at most 4,096 of them. -/
def waitRequest (m : Message) (s : State) : State :=
  match target s m 8 .load false with
  | .error e => replyStatus s m e
  | .ok (l, s) => match l.key? with
    | some k =>
      if 4096 ≤ s.atomicWaits.length then replyStatus s m stBusy
      else { s with atomicWaits := s.atomicWaits ++ [⟨m, k, s.clk⟩] }
    | none => replyStatus s m stNotPresent
/-- R348: an atomic-wait request. -/
def execAtomicWait (msg : Message) (s : State) : Out :=
  .next (onRequest s msg 3 true (msg.bigLen || decide (5 < msg.op) || msg.addr.toNat % 8 != 0) (waitRequest msg))

/-- The wait of an index gone. -/
def dropWait (s : State) (i : Nat) : State := { s with atomicWaits := s.atomicWaits.eraseIdx i }

/-- R348: the reply to wait `i` once its condition holds. A poisoned word meets no condition (log 22). -/
def waitAnswer (s : State) (i : Nat) : State :=
  match s.atomicWaits[i]? with
  | some w =>
    let v := loadWord s w.key
    if !poisoned s w.key 8 && waitHolds w.msg.op v w.msg.arg0 then replyTo (dropWait s i) w.msg stOk v [] 0 else s
  | none => s
/-- R348: the watched word meets the condition. -/
def execAtomicWaitReply (index : Nat) (s : State) : Out := .next (waitAnswer s index)

/-- R348: BUSY at the timeout, with the word as last read. -/
def waitExpires (s : State) (i : Nat) : State :=
  match s.atomicWaits[i]? with
  | some w =>
    let t := bits w.msg.arg1 0 32
    if t ≠ 0 ∧ w.since + 2500 * t ≤ s.clk then replyTo (dropWait s i) w.msg stBusy (loadWord s w.key) [] 0 else s
  | none => s
/-- R348: an atomic-wait reaches its timeout. -/
def execAtomicWaitTimeout (index : Nat) (s : State) : Out := .next (waitExpires s index)

/-! ### Spawns and parcels (R347, R237) -/

/-- R347, R355: a spawn message validated and posted. -/
def spawnRequest (m : Message) (s : State) : State :=
  if stageNum s < 3 then replyStatus s m stBusy
  else
    let rec_ := headerOf (m.data.map (·.1))
    let code := recordCode s rec_ false
    if code = 0 then
      let (w, s) := postRecord s rec_ m.asid
      replyTo s m stOk w [] 0
    else replyTo s m stRejected (BitVec.ofNat 64 (2 ^ 63 + code)) [] 0
/-- R347: a spawn message; its data flit holds the record, unpoisoned. -/
def execSpawnMessage (msg : Message) (s : State) : Out :=
  .next (onRequest s msg 4 true (msg.bigLen || msg.data.length != 8 || msg.data.any (·.2)) (spawnRequest msg))

/-- R237, R343: a parcel delivered, OK, or dropped, REJECTED (log 22). -/
def parcelRequest (m : Message) (s : State) : State :=
  if stageNum s < 2 then replyStatus s m stNotPresent
  else
    let (ok, s) := deliverParcel s (destCore m.arg0) (destBay m.arg0) m.data
    replyStatus s m (if ok then stOk else stRejected)
/-- R237: a parcel arrives. -/
def execParcel (msg : Message) (s : State) : Out :=
  .next (onRequest s msg 5 true (msg.badLen || msg.len % 64 != 0 || msg.data.length != msg.len / 8 || !destOk msg.arg0)
    (parcelRequest msg))

/-! ### Replies (R343, R345) -/

/-- R295: a line brought in for an Isle; its buffer of 4,096 lines first gives one up when it is full. -/
def fillLine (s : State) (isle pa : Nat) (data : List (Word × Bool)) : State :=
  let mine := s.rlb.filter fun l => l.isle == isle
  let s :=
    if mine.length < 4096 then s
    else match mine[Config.victimWay s.freeCtr % mine.length]? with
      | some v => { s with rlb := s.rlb.filter (· != v), freeCtr := s.freeCtr + 1 }
      | none => s
  let poison := (List.range 8).foldl (fun p i => if (data.getD i (0, true)).2 then p + 2 ^ i else p) 0
  let rest := s.rlb.filter fun l => !(l.isle == isle && l.line == pa / 64)
  { s with rlb := ⟨isle, pa / 64, headerOf ((List.range 8).map fun i => (data.getD i (0, true)).1),
      BitVec.ofNat 8 poison, s.clk⟩ :: rest }

/-- The words of an answered line, from its address up. -/
def arrivedWords (pa : Nat) (data : List (Word × Bool)) : List (Nat × Word × Bool) :=
  (List.range 8).map fun i => (pa + 8 * i, data.getD i (0, true))

/-- What the answer to request `r` brings a hart: the word of a wait, the words of a transfer, a parcel's fate. -/
def answerHart (r : Request) (ok : Bool) (word : Word) (poison : Bool) (data : List (Word × Bool)) (h : Hart) : Hart :=
  { h with
    remote := h.remote.map fun w => if w.tag = r.tag then { w with answer := some (word, poison), lost := !ok } else w
    transfers := h.transfers.map fun t =>
      if r.tag ∈ t.tags then
        { t with tags := t.tags.filter (· != r.tag), arrived := t.arrived ++ arrivedWords r.addr data }
      else t
    psend := h.psend.map fun p =>
      if r.tag ∈ p.pending then
        { p with
          pending := p.pending.filter (· != r.tag)
          delivered := if ok then p.delivered + 1 else p.delivered
          dropped := if ok then p.dropped else p.dropped + 1 }
      else p }

/-- The word of request `r` for the relayout whose next element waits for it (R227, R295). -/
def answerRelayout (r : Request) (word : Word) (poison : Bool) (x : Relayout) : Relayout :=
  match x.asked with
  | some (tag, none) => if tag = r.tag then { x with asked := some (tag, some (word, poison)) } else x
  | _ => x
/-- Does the Landing engine wait for the request itself? -/
def engineAwaits (s : State) (tag : Nat) : Bool :=
  s.relayouts.any fun x => x.asked.any fun a => a.1 == tag

/-- Does a hart wait for the request itself? -/
def awaits (h : Hart) (tag : Nat) : Bool := h.remote.any fun w => w.tag == tag
/-- Does a transfer of the hart wait for it? -/
def transfers (h : Hart) (tag : Nat) : Bool := h.transfers.any fun t => decide (tag ∈ t.tags)

/-- R397: the record of a request that has failed is posted. -/
def reportFailure (s : State) (r : Request) (failed : Bool) : State :=
  match r.report with
  | some n => if failed then (postRecordNote s r.isle ⟨n, false, none⟩).1 else s
  | none => s

/-- R343, R345: an outstanding request completes: `ok`, the words read, and the old value of an atomic. Where it failed, what
it would have read arrives poisoned, and a record that waits for this is posted (R397). Lines of other modules are filled by
what no hart, no relayout and no transfer on a connection waits for itself, unless the line has been dropped since it was asked for (R295). -/
def completeRequest (s : State) (r : Request) (ok : Bool) (data : List (Word × Bool)) (old : Word) : State :=
  let s := reportFailure { s with requests := s.requests.filter fun x => x.tag != r.tag } r (!ok || data.any (·.2))
  let data := if ok then data else []
  let (word, poison) : Word × Bool := if r.typ = 0 then data.getD 0 (0, true) else (old, !ok || data.any (·.2))
  let own := engineAwaits s r.tag || s.harts.any fun h => awaits h r.tag || (isConnection r.addr && transfers h r.tag)
  let s := { s with
    hart := answerHart r ok word poison data s.hart
    parked := s.parked.map (answerHart r ok word poison data)
    relayouts := s.relayouts.map (answerRelayout r word poison) }
  if r.typ ≠ 0 ∨ own = true then s
  else if r.hart = none ∧ r.len = 8 then
    match findGang s r.element with
    | some g => if g.status = .pending then dependRead s g word poison else s
    | none => s
  else if r.stale then s
  else fillLine s r.isle r.addr data

/-- The outstanding request of a TAG. -/
def findRequest (s : State) (tag : Nat) : Option Request := s.requests.find? fun r => r.tag == tag

/-- R343: a reply. One whose request is no longer outstanding does nothing. -/
def replyArrives (s : State) (m : Message) : State :=
  if m.typ ≠ 7 then s
  else match findRequest s m.tag with
    | some r => completeRequest s r (m.status == 0) m.data m.arg0
    | none => s
/-- R343: a fabric reply. -/
def execReply (msg : Message) (s : State) : Out := .next (replyArrives s msg)

/-- R345: 100 ms have passed. -/
def requestExpires (s : State) (tag : Nat) : State :=
  match findRequest s tag with
  | some r => if r.sentAt + 250000000 ≤ s.clk then completeRequest s r false [] 0 else s
  | none => s
/-- R345: a request completes with TIMEOUT. -/
def execRequestTimeout (tag : Nat) (s : State) : Out := .next (requestExpires s tag)

/-! ### Ethernet (R351-R353) -/

/-- R353: the connection of a number, if it is valid and memory works. -/
def peer (s : State) (conn : Nat) : Option (BitVec 512) :=
  (connection s conn).filter fun r => connectionValid r && decide (2 ≤ stageNum s)
/-- R353: the `n` bytes at `addr` are open to the peer. -/
def openTo (r : BitVec 512) (addr n : Nat) : Bool :=
  let base := bits (recWord r 6) 0 56
  decide (base ≤ addr) && decide (addr + n ≤ base + (recWord r 7).toNat) && decide (addr + n ≤ mainBytes)

/-- What goes back to a peer: an acknowledgement with data, or with STATUS DENIED the remote access error NAK. -/
def answerPeer (s : State) (conn status : Nat) (old : Word) (data : List Word) : State :=
  { s with sent := ⟨msgHeader s 7 (0xC00 + conn) 0 0 status (8 * data.length % 2 ^ 13) 0 old 0, data.map fun w => (w, false)⟩ :: s.sent }

/-- R353: an access of `n` bytes of a peer, performed as `f` says where it is admitted. -/
def peerAccess (s : State) (conn addr n : Nat) (f : State → State) : State :=
  match peer s conn with
  | some r => if openTo r addr n then f s else answerPeer s conn stDenied 0 []
  | none => s

/-- Bytes as data words. -/
def byteWords (l : List Byte) : List (Word × Bool) :=
  (List.range ((l.length + 7) / 8)).map fun i => (BitVec.ofNat 64 (packBytes ((l.drop (8 * i)).take 8)), false)

/-- R353: an incoming RDMA WRITE. -/
def execRdmaWrite (conn addr : Nat) (data : List Byte) (s : State) : Out :=
  .next (peerAccess s conn addr data.length fun s =>
    answerPeer (storeData s addr data.length (byteWords data)) conn stOk 0 [])

/-- R352: the poisoned of the words from `addr` on leave as zero, each counted as one uncorrectable event. -/
def countPoison (addr : Nat) (ws : List (Word × Bool)) (s : State) : State :=
  (ws.zipIdx.filterMap fun w => if w.1.2 then some (addr + 8 * w.2) else none).foldl (poisonLeft 0) s

/-- R353: an incoming RDMA READ. -/
def execRdmaRead (conn addr len : Nat) (s : State) : Out :=
  .next (peerAccess s conn addr len fun s =>
    let ws := dataWords s addr len
    answerPeer (countPoison addr ws s) conn stOk 0 (ws.map fun w => if w.2 then 0 else w.1))

/-- R352, R237: an incoming SEND: the destination word and the parcel. -/
def sendArrives (s : State) (conn : Nat) (data : List Word) : State :=
  match peer s conn, data with
  | some _, dest :: words =>
    answerPeer (deliverParcel s (destCore dest) (destBay dest) (words.map fun w => (w, false))).2 conn stOk 0 []
  | _, _ => s
/-- R352: an incoming SEND. -/
def execSend (conn : Nat) (data : List Word) (s : State) : Out := .next (sendArrives s conn data)

/-- R353: an incoming atomic at the storage; one that is misaligned or meets a poisoned word gets the NAK (log 22). -/
def peerAtomic (s : State) (conn addr : Nat) (f : AtomicFn) : State :=
  peerAccess s conn addr 8 fun s =>
    if addr % 8 ≠ 0 ∨ poisoned s addr 8 = true then answerPeer s conn stDenied 0 []
    else
      let (old, s) := storageAtomic s addr f
      answerPeer s conn stOk old []
/-- R353: an incoming ATOMIC FETCH_ADD. -/
def execAtomicFetchAdd (conn addr : Nat) (value : Word) (s : State) : Out :=
  .next (peerAtomic s conn addr fun old => some (old + value))
/-- R353: an incoming ATOMIC COMPARE_SWAP. -/
def execAtomicCompareSwap (conn addr : Nat) (compare value : Word) (s : State) : Out :=
  .next (peerAtomic s conn addr fun old => if old = compare then some value else none)

/-- R352: the completion of a request sent on a connection; what an RDMA READ brings is not poisoned. -/
def rdmaDone (s : State) (tag : Nat) (data : List Word) : State :=
  match findRequest s tag with
  | some r => if isConnection r.addr then completeRequest s r true (data.map fun w => (w, false)) 0 else s
  | none => s
/-- R352: a RoCE completion. -/
def execRdmaCompletion (tag : Nat) (data : List Word) (s : State) : Out := .next (rdmaDone s tag data)

/-- R362, R366: a peer is lost: kind 0x0E, sent to the host too. -/
def peerLost (s : State) (node : Nat) : State :=
  (postNote s 0 0x0E 0 0 0 0 (BitVec.ofNat 64 (node % 2 ^ 12)) true).1

/-- R352, R362: a connection in the error state: VALID is cleared, what is outstanding on it completes as for TIMEOUT, and the
connection is lost. -/
def connectionFails (s : State) (conn : Nat) : State :=
  match connection s conn with
  | some _ =>
    let k := (s.ctl.ctbase &&& 0x00FFFFFFFFFFFFC0).toNat + 64 * conn
    let s := storeBytes s (k + 7) 1 ((memRead s.mem (k + 7)).toNat % 128)
    peerLost ((s.requests.filter fun r => isConnection r.addr && fabricNode r.addr == 0xC00 + conn).foldl
      (fun s r => completeRequest s r false [] 0) s) (0xC00 + conn)
  | none => s
/-- R352: a connection's retries are exhausted. -/
def execConnectionError (conn : Nat) (s : State) : Out := .next (connectionFails s conn)

/-- R362: a peer is lost. -/
def execPeerLost (node : Nat) (s : State) : Out := .next (peerLost s node)

/-! ### The traps of a fetch (R85, R113) -/

/-- R85: the words at the pc encode no instruction. Such a trap leaves VSTART = 0 (R116, R320). -/
def execIllegalInsn (tval : Word) (s : State) : Out := .next (trapAt s ⟨.illegalInsn, tval⟩ 0)

/-- R113, R328: the word at the pc cannot be fetched, or is poisoned. Such a trap leaves VSTART = 0 (R116). -/
def execInstructionFetchFault (s : State) : Out :=
  match fetchWords s with
  | .trap t s => .next (trapAt s t 0)
  | .ok _ s => .next s
  | .hold s => .next s

end Sys2Proof.Machine
end

