-- ==== Sys2Proof/Machine/Probe.lean ====
section
/-!
DEFINITION. Probe tokens: VPROBE, VPROBE.FF and VUNPIN (R213-R215, R256, R326).
-/
namespace Sys2Proof.Machine

/-- R214: the wait for the earlier instructions of the hart, engines included. -/
def settleProbe (s : State) : Res Unit :=
  let s := drainMatrix (performVector s s.hart.order.vector.length)
  let s := settleTransfers s.hart.transfers s
  if s.hart.transfers.isEmpty then .ok () s else .hold s

/-- R214: a migration of a region of the page is in progress. -/
def pageMigrates (s : State) (pa size : Nat) : Bool :=
  s.regions.any fun e => e.migration.isSome && decide (e.region * 2 ^ 21 < pa + size) &&
    decide (pa < (e.region + 1) * 2 ^ 21)

/-- What VPROBE has pinned: the pins, and whether each page is writable. -/
structure Probed where
  pins : List Pin
  w : Bool
  deriving DecidableEq, Repr

/-- How the walk over the pages ends: at the end of the range, or at a page that is not mapped readable. -/
inductive ProbeEnd where
  | all (p : Probed)
  | unmapped (va : Nat) (p : Probed)

/-- R214, R256: the pages from `va` up to `stop`, in ascending order; the first argument bounds their number. Each page pinned has A
set, and D where it is writable (log 71). -/
def probePages (stop : Nat) : Nat → Nat → Probed → State → Res ProbeEnd
  | 0, _, p, s => .ok (.all p) s
  | n + 1, va, p, s =>
    if stop ≤ va then .ok (.all p) s
    else
      match walk s (isleOf s.hart.home) s.hart.asid va with
      | some l =>
        if pteAllows l.pte s.hart.user .load then
          if pageMigrates s l.pa l.size then .hold s
          else
            let first := va / l.size * l.size
            probePages stop n (first + l.size)
              ⟨p.pins ++ [⟨first, l.pa, l.size⟩], p.w && pteAllows l.pte s.hart.user .store⟩
              (setAccessed s l.key (pteAllows l.pte s.hart.user .store))
        else .ok (.unmapped (va / 4096 * 4096) p) s
      | none => .ok (.unmapped (va / 4096 * 4096) p) s

/-- R213: q becomes live on the range. -/
def pinToken (s : State) (q : BitVec 3) (base len : Word) (p : Probed) : State :=
  setHart s { s.hart with q := s.hart.q.set q.toNat ⟨true, p.w, base, len, p.pins⟩ }

/-- R326: the hart waits for the service of the page at `va`; the record goes to its home Isle, and in host-assisted mode to
the host. -/
def awaitFault (s : State) (q : BitVec 3) (va : Nat) : State :=
  let (s, i) := postHartNote s 0x01 (BitVec.ofNat 64 va) (q.zeroExtend 64) (bit s.ctl.mode 0)
  setHart s { s.hart with
    st := .swapped, waits := .fault (isleOf s.hart.home) i (BitVec.ofNat 64 va), convoy := .closed }

/-- R214: the range VPROBE refuses. -/
def probeRangeBad (a n : Word) : Bool :=
  bits a 52 12 != 0 || decide (2 ^ 40 < n.toNat) || decide (2 ^ 52 < a.toNat + n.toNat) ||
    decide (0xF * 2 ^ 48 < a.toNat + n.toNat)

/-- R214: VPROBE and VPROBE.FF. After any trap, that of a poisoned operand too, q is dead. -/
def vprobe (ff : Bool) (b a : BitVec 5) (q : BitVec 3) (s : State) : Out :=
  let base := s.rs a
  let len := s.rs b
  let next (s : State) : Out := .next (retireTo s (s.hart.pc + 4))
  match (settleProbe s).andThen fun _ s => releaseToken s q with
  | .trap t s => .next (trapAt s t 0)
  | .hold s => .next s
  | .ok _ s =>
    match poisonedScalar s [a, b] with
    | some t => .next (trapAt s t 0)
    | none =>
      if len = 0 then next s
      else if probeRangeBad base len then .next (trapAt s ⟨.addrRange, base⟩ 0)
      else
        match probePages (base.toNat + len.toNat) (len.toNat / 4096 + 2) base.toNat ⟨[], true⟩ s with
        | .trap t s => .next (trapAt s t 0)
        | .hold s => .next s
        | .ok (.all p) s => next ((pinToken s q base len p).setRs (if ff then b else 0) len)
        | .ok (.unmapped va p) s =>
          if ff then
            let n := BitVec.ofNat 64 (va - base.toNat)
            next ((if n = 0 then s else pinToken s q base n p).setRs b n)
          else .next (awaitFault s q va)

/-- R214: VPROBE. -/
def execVprobe (b a : BitVec 5) (q : BitVec 3) (s : State) : Out := vprobe false b a q s
/-- R214: VPROBE.FF. -/
def execVprobeFf (b a : BitVec 5) (q : BitVec 3) (s : State) : Out := vprobe true b a q s

/-- R215: VUNPIN. -/
def execVunpin (q : BitVec 3) (s : State) : Out :=
  scalarRun s [] fun s =>
    (settleProbe s).andThen fun _ s => (releaseToken s q).andThen fun _ s => .ok (s.hart.pc + 4) s

end Sys2Proof.Machine
end

