-- ==== Sys2Proof/Machine/ScalarFp.lean ====
section
/-!
DEFINITION. Scalar floating point (R97, R103-R105): `f` false selects FP32 (.S), true FP64 (.D).
-/
namespace Sys2Proof.Machine

/-- R103: the format of an instruction's fmt bit. -/
def scalarFmt (f : Bool) : Fmt := if f then fp64 else fp32
/-- R97: a floating-point source: all 64 bits, or bits [31:0]. -/
def fpSource (f : Bool) (w : Word) : Nat := if f then w.toNat else w.toNat % 2 ^ 32

/-- A floating-point instruction: the sources read, the result written with bits [63:32] zero for FP32, the flags merged into
VFLAGS (R69), VSTAT.SAT where the conversion clamped (R97, R105). -/
def fpRun (s : State) (rs : List (BitVec 5)) (d : BitVec 5) (r : State → FRes) : Out :=
  scalarRun s rs fun s =>
    let x := r s
    .ok (s.hart.pc + 4) (((s.raise x.flags).saturate x.sat).setRs d (BitVec.ofNat 64 x.code))

/-- The rounding mode of the instruction: its field, or VRM.RM for 7. -/
def State.modeOf (s : State) (m : BitVec 3) : Nat := effMode m s.hart.csr.vrm

/-! ### Arithmetic (R103) -/

/-- R103: sd := round(sa + sb). -/
def execFadd (f : Bool) (m : BitVec 3) (b a d : BitVec 5) (s : State) : Out :=
  fpRun s [a, b] d fun s => fpAdd (scalarFmt f) (s.modeOf m) (fpSource f (s.rs a)) (fpSource f (s.rs b))
/-- R103: sd := round(sa − sb). -/
def execFsub (f : Bool) (m : BitVec 3) (b a d : BitVec 5) (s : State) : Out :=
  fpRun s [a, b] d fun s => fpSub (scalarFmt f) (s.modeOf m) (fpSource f (s.rs a)) (fpSource f (s.rs b))
/-- R103: sd := round(sa × sb). -/
def execFmul (f : Bool) (m : BitVec 3) (b a d : BitVec 5) (s : State) : Out :=
  fpRun s [a, b] d fun s => fpMul (scalarFmt f) (s.modeOf m) (fpSource f (s.rs a)) (fpSource f (s.rs b))
/-- R103: sd := round(sa / sb). -/
def execFdiv (f : Bool) (m : BitVec 3) (b a d : BitVec 5) (s : State) : Out :=
  fpRun s [a, b] d fun s => fpDiv (scalarFmt f) (s.modeOf m) (fpSource f (s.rs a)) (fpSource f (s.rs b))
/-- R103: sd := round(sa × sb + sd), formed exactly and rounded once. -/
def execFfma (f : Bool) (m : BitVec 3) (b a d : BitVec 5) (s : State) : Out :=
  fpRun s [a, b, d] d fun s =>
    fpFma (scalarFmt f) (s.modeOf m) (fpSource f (s.rs a)) (fpSource f (s.rs b)) (fpSource f (s.rs d))
/-- R103: sd := round(√sa). -/
def execFsqrt (f : Bool) (m : BitVec 3) (a d : BitVec 5) (s : State) : Out :=
  fpRun s [a] d fun s => fpSqrt (scalarFmt f) (s.modeOf m) (fpSource f (s.rs a))
/-- R103, R75: the minimum. -/
def execFmin (f : Bool) (b a d : BitVec 5) (s : State) : Out :=
  fpRun s [a, b] d fun s => fpMinMax (scalarFmt f) false (fpSource f (s.rs a)) (fpSource f (s.rs b))
/-- R103, R75: the maximum. -/
def execFmax (f : Bool) (b a d : BitVec 5) (s : State) : Out :=
  fpRun s [a, b] d fun s => fpMinMax (scalarFmt f) true (fpSource f (s.rs a)) (fpSource f (s.rs b))

/-! ### Comparison (R104) -/

/-- R104: 1 when the relation holds of the IEEE comparison, else 0; NV for a signalling NaN. -/
def fpRelation (s : State) (f : Bool) (b a d : BitVec 5) (rel : Option Ordering → Bool) : Out :=
  fpRun s [a, b] d fun s =>
    let x := fpSource f (s.rs a)
    let y := fpSource f (s.rs b)
    ⟨if rel (fpCompare (scalarFmt f) x y) then 1 else 0, snanFlag (scalarFmt f) x y, false⟩

/-- R104: eq. -/
def execFcmpEq (f : Bool) (b a d : BitVec 5) (s : State) : Out := fpRelation s f b a d fun o => o == some .eq
/-- R104: lt. -/
def execFcmpLt (f : Bool) (b a d : BitVec 5) (s : State) : Out := fpRelation s f b a d fun o => o == some .lt
/-- R104: le. -/
def execFcmpLe (f : Bool) (b a d : BitVec 5) (s : State) : Out := fpRelation s f b a d fun o => o == some .lt || o == some .eq
/-- R104: unord. -/
def execFcmpUnord (f : Bool) (b a d : BitVec 5) (s : State) : Out := fpRelation s f b a d fun o => o == none

/-! ### Conversion (R105, R71) -/

/-- A value converted to an integer in [lo, hi], written sign- or zero-extended to 64 bits. -/
def fpToInt (s : State) (f : Bool) (m : BitVec 3) (a d : BitVec 5) (lo hi : Int) : Out :=
  fpRun s [a] d fun s =>
    let (z, fl, sat) := valToRange (s.modeOf m) lo hi ((scalarFmt f).val (fpSource f (s.rs a)))
    ⟨(BitVec.ofInt 64 z).toNat, fl, sat⟩
/-- An integer converted to the format. -/
def intToFp (s : State) (f : Bool) (m : BitVec 3) (a d : BitVec 5) (z : Word → Int) : Out :=
  fpRun s [a] d fun s => valToFp (scalarFmt f) (s.modeOf m) false (intVal (z (s.rs a)))

/-- R105: to INT32. -/
def execFcvtToInt32 (f : Bool) (m : BitVec 3) (a d : BitVec 5) (s : State) : Out := fpToInt s f m a d (-(2 ^ 31)) (2 ^ 31 - 1)
/-- R105: to UINT32. -/
def execFcvtToUint32 (f : Bool) (m : BitVec 3) (a d : BitVec 5) (s : State) : Out := fpToInt s f m a d (0) (2 ^ 32 - 1)
/-- R105: to INT64. -/
def execFcvtToInt64 (f : Bool) (m : BitVec 3) (a d : BitVec 5) (s : State) : Out := fpToInt s f m a d (-(2 ^ 63)) (2 ^ 63 - 1)
/-- R105: to UINT64. -/
def execFcvtToUint64 (f : Bool) (m : BitVec 3) (a d : BitVec 5) (s : State) : Out := fpToInt s f m a d (0) (2 ^ 64 - 1)
/-- R105: from INT32. -/
def execFcvtFromInt32 (f : Bool) (m : BitVec 3) (a d : BitVec 5) (s : State) : Out := intToFp s f m a d fun w => (w.extractLsb' 0 32).toInt
/-- R105: from UINT32. -/
def execFcvtFromUint32 (f : Bool) (m : BitVec 3) (a d : BitVec 5) (s : State) : Out := intToFp s f m a d fun w => (w.extractLsb' 0 32).toNat
/-- R105: from INT64. -/
def execFcvtFromInt64 (f : Bool) (m : BitVec 3) (a d : BitVec 5) (s : State) : Out := intToFp s f m a d fun w => w.toInt
/-- R105: from UINT64. -/
def execFcvtFromUint64 (f : Bool) (m : BitVec 3) (a d : BitVec 5) (s : State) : Out := intToFp s f m a d fun w => w.toNat
/-- R105: FP32 to FP64 (.s), or FP64 to FP32 (.d). -/
def execFcvtFp (f : Bool) (m : BitVec 3) (a d : BitVec 5) (s : State) : Out :=
  fpRun s [a] d fun s =>
    valToFp (scalarFmt !f) (s.modeOf m) false ((scalarFmt f).val (fpSource f (s.rs a)))

end Sys2Proof.Machine
end

