-- ==== Sys2Proof/Machine/ScalarInt.lean ====
section
/-!
DEFINITION. Scalar integer instructions: register operations (R98, R99), immediates and shifts (R100, R101), constants
(R102), branches and jumps (R112, R113).
-/
namespace Sys2Proof.Machine

/-! ### Arithmetic the table of R98 names -/

/-- The number of leading zero bits. -/
def countLeadingZeros (x : Word) : Word := BitVec.ofNat 64 (if x = 0 then 64 else 63 - x.toNat.log2)
/-- The number of one bits among the low `n` bits. -/
def onesBelow (x : Word) : Nat → Nat
  | 0 => 0
  | n + 1 => onesBelow x n + (if x.getLsbD n then 1 else 0)
/-- The number of trailing zero bits: the zero bits below the lowest one. -/
def countTrailingZeros (x : Word) : Word := BitVec.ofNat 64 (if x = 0 then 64 else (x &&& -x).toNat.log2)
/-- R99: the quotient toward zero; all ones for a zero divisor. -/
def divSigned (x y : Word) : Word := if y = 0 then BitVec.allOnes 64 else BitVec.ofInt 64 (x.toInt.tdiv y.toInt)
def divUnsigned (x y : Word) : Word := if y = 0 then BitVec.allOnes 64 else BitVec.ofNat 64 (x.toNat / y.toNat)
/-- R99: the remainder with the sign of the dividend; the dividend for a zero divisor. -/
def remSigned (x y : Word) : Word := if y = 0 then x else BitVec.ofInt 64 (x.toInt.tmod y.toInt)
def remUnsigned (x y : Word) : Word := if y = 0 then x else BitVec.ofNat 64 (x.toNat % y.toNat)
/-- Bits [127:64] of a product. -/
def mulHigh (x y : Int) : Word := BitVec.ofInt 64 (x * y / 2 ^ 64)
/-- 1 when the condition holds, else 0. -/
def flagWord (b : Bool) : Word := if b then 1 else 0

/-! ### Register operations (R98) -/

/-- R98: sd := sa + sb. -/
def execAdd (b a d : BitVec 5) (s : State) : Out :=
  scalarWrite s [a, b] d fun s => s.rs a + s.rs b
/-- R98: sd := sa − sb. -/
def execSub (b a d : BitVec 5) (s : State) : Out :=
  scalarWrite s [a, b] d fun s => s.rs a - s.rs b
/-- R98: sd := sa & sb. -/
def execAnd (b a d : BitVec 5) (s : State) : Out :=
  scalarWrite s [a, b] d fun s => s.rs a &&& s.rs b
/-- R98: sd := sa | sb. -/
def execOr (b a d : BitVec 5) (s : State) : Out :=
  scalarWrite s [a, b] d fun s => s.rs a ||| s.rs b
/-- R98: sd := sa ^ sb. -/
def execXor (b a d : BitVec 5) (s : State) : Out :=
  scalarWrite s [a, b] d fun s => s.rs a ^^^ s.rs b
/-- R98: sd := sa & ~sb. -/
def execAndn (b a d : BitVec 5) (s : State) : Out :=
  scalarWrite s [a, b] d fun s => s.rs a &&& ~~~(s.rs b)
/-- R98: sa shifted left by sb[5:0]. -/
def execSll (b a d : BitVec 5) (s : State) : Out :=
  scalarWrite s [a, b] d fun s => s.rs a <<< ((s.rs b).toNat % 64)
/-- R98: sa shifted right logically by sb[5:0]. -/
def execSrl (b a d : BitVec 5) (s : State) : Out :=
  scalarWrite s [a, b] d fun s => s.rs a >>> ((s.rs b).toNat % 64)
/-- R98: sa shifted right arithmetically by sb[5:0]. -/
def execSra (b a d : BitVec 5) (s : State) : Out :=
  scalarWrite s [a, b] d fun s => (s.rs a).sshiftRight ((s.rs b).toNat % 64)
/-- R98: bits [63:0] of the product. -/
def execMul (b a d : BitVec 5) (s : State) : Out :=
  scalarWrite s [a, b] d fun s => s.rs a * s.rs b
/-- R98: bits [127:64] of the signed product. -/
def execMulh (b a d : BitVec 5) (s : State) : Out :=
  scalarWrite s [a, b] d fun s => mulHigh (s.rs a).toInt (s.rs b).toInt
/-- R98: bits [127:64] of the unsigned product. -/
def execMulhu (b a d : BitVec 5) (s : State) : Out :=
  scalarWrite s [a, b] d fun s => mulHigh (s.rs a).toNat (s.rs b).toNat
/-- R98: the signed quotient (R99). -/
def execDiv (b a d : BitVec 5) (s : State) : Out :=
  scalarWrite s [a, b] d fun s => divSigned (s.rs a) (s.rs b)
/-- R98: the unsigned quotient (R99). -/
def execDivu (b a d : BitVec 5) (s : State) : Out :=
  scalarWrite s [a, b] d fun s => divUnsigned (s.rs a) (s.rs b)
/-- R98: the signed remainder (R99). -/
def execRem (b a d : BitVec 5) (s : State) : Out :=
  scalarWrite s [a, b] d fun s => remSigned (s.rs a) (s.rs b)
/-- R98: the unsigned remainder (R99). -/
def execRemu (b a d : BitVec 5) (s : State) : Out :=
  scalarWrite s [a, b] d fun s => remUnsigned (s.rs a) (s.rs b)
/-- R98: the signed minimum. -/
def execMin (b a d : BitVec 5) (s : State) : Out :=
  scalarWrite s [a, b] d fun s => if (s.rs a).slt (s.rs b) then s.rs a else s.rs b
/-- R98: the signed maximum. -/
def execMax (b a d : BitVec 5) (s : State) : Out :=
  scalarWrite s [a, b] d fun s => if (s.rs a).slt (s.rs b) then s.rs b else s.rs a
/-- R98: the unsigned minimum. -/
def execMinu (b a d : BitVec 5) (s : State) : Out :=
  scalarWrite s [a, b] d fun s => if (s.rs a).ult (s.rs b) then s.rs a else s.rs b
/-- R98: the unsigned maximum. -/
def execMaxu (b a d : BitVec 5) (s : State) : Out :=
  scalarWrite s [a, b] d fun s => if (s.rs a).ult (s.rs b) then s.rs b else s.rs a
/-- R98: 1 if sa < sb signed, else 0. -/
def execSlt (b a d : BitVec 5) (s : State) : Out :=
  scalarWrite s [a, b] d fun s => flagWord ((s.rs a).slt (s.rs b))
/-- R98: 1 if sa < sb unsigned, else 0. -/
def execSltu (b a d : BitVec 5) (s : State) : Out :=
  scalarWrite s [a, b] d fun s => flagWord ((s.rs a).ult (s.rs b))
/-- R98: the count of leading zero bits of sa; 64 for 0. -/
def execClz (a d : BitVec 5) (s : State) : Out :=
  scalarWrite s [a] d fun s => countLeadingZeros (s.rs a)
/-- R98: the count of trailing zero bits of sa; 64 for 0. -/
def execCtz (a d : BitVec 5) (s : State) : Out :=
  scalarWrite s [a] d fun s => countTrailingZeros (s.rs a)
/-- R98: the count of one bits of sa. -/
def execPopc (a d : BitVec 5) (s : State) : Out :=
  scalarWrite s [a] d fun s => BitVec.ofNat 64 (onesBelow (s.rs a) 64)

/-! ### Immediates (R100, R101, R102) -/

/-- R100: sd := sa + imm. -/
def execAddi (i : BitVec 15) (a d : BitVec 5) (s : State) : Out :=
  scalarWrite s [a] d fun s => s.rs a + sext15 i
/-- R100: sd := sa & imm. -/
def execAndi (i : BitVec 15) (a d : BitVec 5) (s : State) : Out :=
  scalarWrite s [a] d fun s => s.rs a &&& sext15 i
/-- R100: sd := sa | imm. -/
def execOri (i : BitVec 15) (a d : BitVec 5) (s : State) : Out :=
  scalarWrite s [a] d fun s => s.rs a ||| sext15 i
/-- R100: sd := sa ^ imm. -/
def execXori (i : BitVec 15) (a d : BitVec 5) (s : State) : Out :=
  scalarWrite s [a] d fun s => s.rs a ^^^ sext15 i
/-- R100: 1 if sa < imm signed, else 0. -/
def execSlti (i : BitVec 15) (a d : BitVec 5) (s : State) : Out :=
  scalarWrite s [a] d fun s => flagWord ((s.rs a).slt (sext15 i))
/-- R101: sa shifted left by sh. -/
def execSlli (h : BitVec 6) (a d : BitVec 5) (s : State) : Out :=
  scalarWrite s [a] d fun s => s.rs a <<< h.toNat
/-- R101: sa shifted right logically by sh. -/
def execSrli (h : BitVec 6) (a d : BitVec 5) (s : State) : Out :=
  scalarWrite s [a] d fun s => s.rs a >>> h.toNat
/-- R101: sa shifted right arithmetically by sh. -/
def execSrai (h : BitVec 6) (a d : BitVec 5) (s : State) : Out :=
  scalarWrite s [a] d fun s => (s.rs a).sshiftRight h.toNat
/-- R102: sd := sign_extend(IMM20) × 4,096. -/
def execLih (i : BitVec 20) (d : BitVec 5) (s : State) : Out := scalarWrite s [] d fun _ => sext20 i * 4096
/-- R102: sd := pc + sign_extend(IMM20) × 4. -/
def execAddpc (i : BitVec 20) (d : BitVec 5) (s : State) : Out := scalarWrite s [] d fun s => s.hart.pc + sext20 i * 4
/-- R102, R78: sd := sign_extend(IMM32); the instruction has two words. -/
def execLiw (d : BitVec 5) (i : BitVec 32) (s : State) : Out :=
  scalarRun s [] fun s => .ok (s.hart.pc + 8) (s.setRs d (i.signExtend 64))

/-! ### Branches and jumps (R112, R113) -/

/-- R112: pc + sign_extend(OFF12) × 4 when the condition holds, pc + 4 otherwise. -/
def branch (s : State) (o : BitVec 12) (b a : BitVec 5) (cond : Word → Word → Bool) : Out :=
  scalarRun s [a, b] fun s =>
    .ok (s.hart.pc + (if cond (s.rs a) (s.rs b) then sext12 o * 4 else 4)) s

/-- R112: eq. -/
def execBeq (o : BitVec 12) (b a : BitVec 5) (s : State) : Out := branch s o b a fun x y => x == y
/-- R112: ne. -/
def execBne (o : BitVec 12) (b a : BitVec 5) (s : State) : Out := branch s o b a fun x y => x != y
/-- R112: lt, signed. -/
def execBlt (o : BitVec 12) (b a : BitVec 5) (s : State) : Out := branch s o b a fun x y => x.slt y
/-- R112: ge, signed. -/
def execBge (o : BitVec 12) (b a : BitVec 5) (s : State) : Out := branch s o b a fun x y => !x.slt y
/-- R112: lt, unsigned. -/
def execBltu (o : BitVec 12) (b a : BitVec 5) (s : State) : Out := branch s o b a fun x y => x.ult y
/-- R112: ge, unsigned. -/
def execBgeu (o : BitVec 12) (b a : BitVec 5) (s : State) : Out := branch s o b a fun x y => !x.ult y

/-- R113: sd := pc + 4 and pc := pc + sign_extend(OFF20) × 4. -/
def execJal (o : BitVec 20) (d : BitVec 5) (s : State) : Out :=
  scalarRun s [] fun s => .ok (s.hart.pc + sext20 o * 4) (s.setRs d (s.hart.pc + 4))
/-- R113: t := sa + sign_extend(IMM15); a misaligned t traps ALIGN and leaves sd; otherwise sd := pc + 4 and pc := t. -/
def execJalr (i : BitVec 15) (a d : BitVec 5) (s : State) : Out :=
  scalarRun s [a] fun s =>
    let t := s.rs a + sext15 i
    if t.toNat % 4 = 0 then .ok t (s.setRs d (s.hart.pc + 4)) else .trap ⟨.align, t⟩ s

end Sys2Proof.Machine
end

