-- ==== Sys2Proof/Machine/VectorReduce.lean ====
section
/-!
DEFINITION. Reductions (R157-R159), softmax, random numbers and rotary embedding (R160-R162).
-/
namespace Sys2Proof.Machine

/-! ### The tree (R158) -/

/-- One level of the tree: neighbours combined; an absent child passes the other. -/
def pairUp {α : Type} (op : α → α → α) : List (Option α) → List (Option α)
  | x :: y :: r =>
    (match x, y with
      | some a, some b => some (op a b)
      | some a, none => some a
      | none, y => y) :: pairUp op r
  | l => l
/-- R158: levels until one node is left. Element groups and the padded list of groups are powers of two, so their trees are
the lower and the upper levels of one. The first argument bounds the levels. -/
def treeOf {α : Type} (op : α → α → α) : Nat → List (Option α) → Option α
  | 0, _ => none
  | n + 1, l =>
    match l with
    | [] => none
    | [x] => x
    | l => treeOf op n (pairUp op l)

/-! ### Reductions (R157) -/

/-- R132, R157: the active elements below `n`, with their indices, by the lowest index. -/
def activeElements (s : State) (r k : Nat) (ty : ElTy) (n : Nat) : Except WholeTrap (List (Nat × Nat)) :=
  collect (fun e =>
    match s.sourceMask k e with
    | .error t => .error t
    | .ok false => .ok none
    | .ok true => (s.source r ty e).map fun v => some (e, v)) (List.range n)
/-- The leaves of the tree over `n` positions. -/
def leaves (l : List (Nat × Nat)) : Nat → Nat → List (Option Nat)
  | 0, _ => []
  | n + 1, e =>
    match l with
    | (i, v) :: r => if i = e then some v :: leaves r n (e + 1) else none :: leaves l n (e + 1)
    | [] => []

/-- R73, R157: a sum that is a NaN is delivered canonical, with NV when it is signalling. -/
def canonical (f : Fmt) (x : FRes) : FRes :=
  match f.val x.code with
  | .nan s => ⟨f.nan, x.flags ||| (if s then flagNV else 0), x.sat⟩
  | _ => x

/-- R73: the ordered reduction. -/
def orderedReduce (g : FRes → FRes → FRes) (vs : List Nat) : Option FRes :=
  match vs with
  | [] => none
  | v :: r => some (r.foldl (fun acc x => g acc (bare x)) (bare v))
/-- R158: the tree reduction. -/
def treeReduce (g : FRes → FRes → FRes) (l : List (Nat × Nat)) (n : Nat) : Option FRes :=
  treeOf g (bitLen n + 2) ((leaves l n 0).map fun o => o.map bare)

/-- The addition of elements of TYPE `t`. -/
def addRes (t mode : Nat) : FRes → FRes → FRes :=
  if isFp t then joinRes (fpAdd (fmtOf t) mode) else fun x y => intRes t (intOf t x.code + intOf t y.code)
/-- The maximum and the minimum. -/
def extremeRes (t : Nat) (isMax : Bool) : FRes → FRes → FRes :=
  if isFp t then joinRes (fpMinMax (fmtOf t) isMax)
  else fun x y => if isMax then intRes t (max (intOf t x.code) (intOf t y.code))
    else intRes t (min (intOf t x.code) (intOf t y.code))
/-- R157: the result when no element is active. -/
def emptyExtreme (t : Nat) (isMax : Bool) : Nat :=
  if isFp t then (fmtOf t).signed isMax (fmtOf t).infCode
  else wrapTo (typeWidth t) (if isMax then intLo t else intHi t)

/-- R157: the root as delivered. -/
def rootRes (t : Nat) (o : Option FRes) (empty : Nat) : FRes :=
  match o with
  | none => bare empty
  | some x => if isFp t then canonical (fmtOf t) x else x
/-- R157: the scalar a result of TYPE `t` becomes. -/
def scalarOf (t v : Nat) : Word := if isInt t then extend t v else BitVec.ofNat 64 v

/-- R132, R157: a reduction of va's active elements to sd: `f` takes the rounding mode, T, the active elements and n. -/
def reduce (c : Bool) (k : BitVec 3) (a d : BitVec 5) (legal : Nat → Bool)
    (f : Nat → Nat → List (Nat × Nat) → Nat → Word × FpFlags) (s : State) : Out :=
  vectorRun { c := c, cls := some .b, cross := true, whole := true, vr := [a.toNat], kr := [k.toNat], sw := [d.toNat] }
    (fun s => do
      typed s [a.toNat]
      unscaled s [a.toNat]
      let t := s.vtype a.toNat
      demand (legal t) (mismatch [t])
      .ok t)
    (fun t s =>
      let n := s.nOf (typeWidth t)
      match activeElements s a.toNat k.toNat (plain t) n with
      | .error (e, t) => .trap e t s
      | .ok l =>
        let (w, fl) := f s.rm t l n
        .ok ((s.raise fl).setRs d w)) s

/-- The reduction whose result is an element. -/
def reduceTo (f : Nat → Nat → List (Nat × Nat) → Nat → FRes) (mode t : Nat) (l : List (Nat × Nat)) (n : Nat) :
    Word × FpFlags :=
  let r := f mode t l n
  (scalarOf t r.code, r.flags)

/-- R157: the sum in index order. -/
def execVrsumO (c : Bool) (k : BitVec 3) (a d : BitVec 5) (s : State) : Out :=
  reduce c k a d isArith (reduceTo fun mode t l _ => rootRes t (orderedReduce (addRes t mode) (l.map (·.2))) 0) s
/-- R157: the sum in the tree order. -/
def execVrsumT (c : Bool) (k : BitVec 3) (a d : BitVec 5) (s : State) : Out :=
  reduce c k a d isArith (reduceTo fun mode t l n => rootRes t (treeReduce (addRes t mode) l n) 0) s
/-- R157: the maximum. -/
def execVrmax (c : Bool) (k : BitVec 3) (a d : BitVec 5) (s : State) : Out :=
  reduce c k a d isArith
    (reduceTo fun _ t l n => rootRes t (treeReduce (extremeRes t true) l n) (emptyExtreme t true)) s
/-- R157: the minimum. -/
def execVrmin (c : Bool) (k : BitVec 3) (a d : BitVec 5) (s : State) : Out :=
  reduce c k a d isArith
    (reduceTo fun _ t l n => rootRes t (treeReduce (extremeRes t false) l n) (emptyExtreme t false)) s
/-- R157: the least index whose element is greatest under the key order, or all ones. -/
def execVmaxidx (c : Bool) (k : BitVec 3) (a d : BitVec 5) (s : State) : Out :=
  reduce c k a d isArith (fun _ t l _ =>
    (match l.foldl (fun (best : Option (Nat × Nat)) x => match best with
      | some b => if orderedKey t b.2 < orderedKey t x.2 then some x else some b
      | none => some x) none with
    | some b => BitVec.ofNat 64 b.1
    | none => BitVec.allOnes 64, 0)) s

/-! ### VRLOG (R159) -/

/-- exp(a - m) for finite a ≤ m, as a fixed-point number of `P` bits. -/
def fxExpDiff (P : Nat) (a m : FVal) : Nat :=
  match a with
  | .fin .. =>
    let es := [a, m].filterMap FVal.exp?
    let q := es.foldl min (es.headD 0)
    let n := (m.scaled q - a.scaled q).toNat
    if n = 0 then 2 ^ P
    else
      let x := if 0 ≤ q then approxExpNeg P (n * 2 ^ q.toNat) 0 else approxExpNeg P n (-q).toNat
      x.m / 2 ^ (-x.e - P).toNat
  | _ => 0

/-- ln of a fixed-point number of `P` bits that is at least 1. -/
def fxLog (P x : Nat) : Nat :=
  let k := bitLen x - 1 - P
  k * fxLn2 P + fxLn P (x / 2 ^ k)

/-- R159: ln Σ exp over the values, whose maximum `m` is finite: within 4 ulp of exact, as `pick` chooses. It is exact only where
one value alone is finite. -/
def logSumExp (f : Fmt) (vs : List FVal) (m : FVal) (pick : Nat) : FRes :=
  let P := (-f.qmin).toNat + 128
  let sum := vs.foldl (fun acc v => acc + fxExpDiff P v m) 0
  let x : Int := m.scaled (-(P : Int)) + fxLog P sum
  let a : Approx := ⟨x.natAbs, -(P : Int), decide (1 < vs.countP fun v => v.exp?.isSome || v.isZero)⟩
  let neg := decide (x < 0)
  let r := roundFin f 0 neg a.m a.e a.sticky
  if r.flags &&& flagOF ≠ 0 then r
  else
    let n := r.code % f.signBit
    let l := admitted f 4 a n
    let code := l.getD (pick % l.length) n
    ⟨f.signed neg code,
      if code = n then r.flags else r.flags ||| flagNX ||| (if code < 2 ^ f.fw then flagUF else 0), false⟩

/-- R159: VRLOG. -/
def execVrlog (c : Bool) (k : BitVec 3) (a d : BitVec 5) (s : State) : Out :=
  reduce c k a d isFp (reduceTo fun _ t l n =>
    let f := fmtOf t
    let m := rootRes t (treeReduce (extremeRes t true) l n) (emptyExtreme t true)
    match f.val m.code with
    | .fin .. =>
      let r := logSumExp f (l.map fun x => f.val x.2) (f.val m.code) (Config.rlogPick t l)
      ⟨r.code, r.flags ||| m.flags, false⟩
    | _ => m) s

/-! ### VSOFT (R160) -/

/-- R160: the scalar format. -/
def softFmt (t : Nat) : Fmt := if t = 9 then fp64 else fp32
/-- A value of TYPE `t` in the scalar format, exactly. -/
def toSoft (t v : Nat) : Nat := (valToFp (softFmt t) 0 false ((fmtOf t).val v)).code

/-- R160: what one step of the online softmax computes from the active elements. -/
structure Soft where
  /-- The new maximum, the correction and the new sum, in the scalar format. -/
  m : Nat
  c : Nat
  sum : Nat
  puts : List (Nat × Nat)
  flags : FpFlags
  deriving DecidableEq, Repr

/-- R160: the step. The correction enters the new sum unrounded. -/
def softStep (t mode mOld sumOld : Nat) (l : List (Nat × Nat)) (n : Nat) : Soft :=
  let f := fmtOf t
  let F := softFmt t
  let code := if t = 9 then 9 else 10
  let top := rootRes t (treeReduce (extremeRes t true) l n) (emptyExtreme t true)
  let m := fpMinMax F true mOld (toSoft t top.code)
  let mv := F.val m.code
  let (cv, c) := if mv == .inf true then (.fin false 1 0, roundFin F 0 false 1 0 false)
    else expDiffUnrounded F (F.val mOld) mv (Config.expPick code mOld m.code)
  let es := l.map fun x => (x.1, expDiff f (f.val x.2) mv (Config.expPick t x.2 m.code))
  let sum := rootRes code (treeReduce (addRes code mode) (es.map fun x => (x.1, toSoft t x.2.code)) n) 0
  let new := sumRound F 0 [(F.val sumOld).mul cv, F.val sum.code]
  ⟨m.code, c.code, new.code, es.map fun x => (x.1, x.2.code),
    es.foldl (fun fl x => fl ||| x.2.flags) (top.flags ||| m.flags ||| c.flags ||| sum.flags ||| new.flags)⟩

/-- R160: VSOFT: one step of an online softmax over va, with the running maximum and sum in s4k and s4k+1. -/
def execVsoft (c : Bool) (k : BitVec 3) (b a d : BitVec 5) (s : State) : Out :=
  vectorRun { c := c, cls := some .b, cross := true, whole := true, vr := [a.toNat], vw := [d.toNat], kr := [k.toNat],
              sr := [b.toNat, b.toNat + 1], sw := [b.toNat, b.toNat + 1, b.toNat + 2] }
    (fun s => do
      typed s [a.toNat]
      unscaled s [a.toNat]
      let t := s.vtype a.toNat
      demand (isFp t) (mismatch [t])
      .ok t)
    (fun t s =>
      let n := s.nOf (typeWidth t)
      match activeElements s a.toNat k.toNat (plain t) n with
      | .error (e, t) => .trap e t s
      | .ok l =>
        let w := (softFmt t).width
        let x := softStep t s.rm ((s.rs b).toNat % 2 ^ w) ((s.rs (b + 1)).toNat % 2 ^ w) l n
        let s := writeAll [(d.toNat, typeTag t)] (x.puts.map fun p => ⟨d.toNat, p.1, p.2⟩) s
        .ok ((((s.raise x.flags).setRs b (BitVec.ofNat 64 x.m)).setRs (b + 1) (BitVec.ofNat 64 x.sum)).setRs (b + 2)
          (BitVec.ofNat 64 x.c))) s

/-! ### VRAND (R161) -/

/-- R161: VRAND: keystream bits to the active elements of vd; the counter moves on at completion. vd keeps its scale fields (log 94). -/
def execVrand (c : Bool) (k : BitVec 3) (d : BitVec 5) (s : State) : Out :=
  vectorRun { c := c, cls := some .b, vw := [d.toNat], kr := [k.toNat] }
    (fun s => do
      typed s [d.toNat]
      demand (!isPlaneType (s.vtype d.toNat)) (mismatch [s.vtype d.toNat])
      .ok (s.vtag d.toNat))
    (fun tag s =>
      let ty := elTy tag
      let n := s.nOf ty.w
      let csr := s.hart.csr
      let block (i : Nat) := chachaBlock csr.key0 csr.key1 csr.key2 csr.key3 (csr.counter + BitVec.ofNat 64 i) csr.nonce
      match elementWise n k.toNat [⟨d.toNat, VTag.unsorted tag, ty, id⟩] (fun e s =>
        .ok () (s.setElem d.toNat ty e
          (block (ty.w * e / 512) / 2 ^ (ty.w * e % 512) % 2 ^ ty.w))) s with
      | .ok s => .ok (s.modCsr fun c => { c with counter := c.counter + BitVec.ofNat 64 ((n * ty.w + 511) / 512) })
      | r => r) s

/-! ### VROPE (R162) -/

/-- R162: the cosine (`sine` false) or the sine of a/2^48 turn: exact at a quarter turn, where 0 is +0, else within 2^-40 of
exact, as the free value chooses. -/
def ropeValue (a : Nat) (sine : Bool) : FVal :=
  let (neg, x) := if sine then sinTurn a 48 else cosTurn a 48
  if !x.sticky then .fin (neg && x.m != 0) x.m x.e
  else
    let fixed : Int := (x.m * 2 ^ (x.e + 256).toNat / 2 ^ (-x.e - 256).toNat : Nat)
    let off : Int := (Config.ropePick a sine % (2 ^ 217 - 3) : Nat) - (2 ^ 216 - 2 : Nat)
    let z := (if neg then -fixed else fixed) + off
    .fin (decide (z < 0)) z.natAbs (-256)

/-- R162: VROPE: the pair (vd, vd+1) rotated by va × F turns. -/
def execVrope (c : Bool) (k : BitVec 3) (b a d : BitVec 5) (s : State) : Out :=
  let d0 := d.toNat
  vectorRun { c := c, cls := some .b, vr := [a.toNat, d0, d0 + 1], vw := [d0, d0 + 1], kr := [k.toNat], sr := [b.toNat] }
    (fun s => do
      let rs := [a.toNat, d0, d0 + 1]
      typed s rs
      unscaled s rs
      demand (s.vtype a.toNat == 7 && s.vtype d0 == 10 && s.vtype (d0 + 1) == 10) (mismatch (rs.map s.vtype)))
    (fun _ s =>
      let mode := s.rm
      let f48 := bits (s.rs b) 0 48
      elementWise (s.nOf 32) k.toNat
        [⟨d0, typeTag 10, plain 10, id⟩, ⟨d0 + 1, typeTag 10, plain 10, id⟩] (fun e s =>
        (s.readElem a.toNat (plain 7) e).andThen fun p s =>
          (s.readElem d0 (plain 10) e).andThen fun x s =>
            (s.readElem (d0 + 1) (plain 10) e).andThen fun y s =>
              let ang := p * f48 % 2 ^ 48
              let co := ropeValue ang false
              let si := ropeValue ang true
              let xv := fp32.val x
              let yv := fp32.val y
              let s := s.put d0 (plain 10) e (sumRound fp32 mode [xv.mul co, (yv.mul si).flip])
              .ok () (s.put (d0 + 1) (plain 10) e (sumRound fp32 mode [xv.mul si, yv.mul co]))) s) s

end Sys2Proof.Machine
end

