-- ==== Sys2Proof/Machine/Dispatch.lean ====
section
/-!
DEFINITION. The dispatch: one arm per constructor of `Instr`, each one direct call of its meaning.
-/
namespace Sys2Proof.Machine

def exec (i : Instr) (s : State) : Host.Outcome State Fault Refusal :=
  match i with
  | .add b a d => Sys2Proof.Machine.execAdd b a d s
  | .sub b a d => Sys2Proof.Machine.execSub b a d s
  | .and b a d => Sys2Proof.Machine.execAnd b a d s
  | .or b a d => Sys2Proof.Machine.execOr b a d s
  | .xor b a d => Sys2Proof.Machine.execXor b a d s
  | .andn b a d => Sys2Proof.Machine.execAndn b a d s
  | .sll b a d => Sys2Proof.Machine.execSll b a d s
  | .srl b a d => Sys2Proof.Machine.execSrl b a d s
  | .sra b a d => Sys2Proof.Machine.execSra b a d s
  | .mul b a d => Sys2Proof.Machine.execMul b a d s
  | .mulh b a d => Sys2Proof.Machine.execMulh b a d s
  | .mulhu b a d => Sys2Proof.Machine.execMulhu b a d s
  | .div b a d => Sys2Proof.Machine.execDiv b a d s
  | .divu b a d => Sys2Proof.Machine.execDivu b a d s
  | .rem b a d => Sys2Proof.Machine.execRem b a d s
  | .remu b a d => Sys2Proof.Machine.execRemu b a d s
  | .min b a d => Sys2Proof.Machine.execMin b a d s
  | .max b a d => Sys2Proof.Machine.execMax b a d s
  | .minu b a d => Sys2Proof.Machine.execMinu b a d s
  | .maxu b a d => Sys2Proof.Machine.execMaxu b a d s
  | .slt b a d => Sys2Proof.Machine.execSlt b a d s
  | .sltu b a d => Sys2Proof.Machine.execSltu b a d s
  | .clz a d => Sys2Proof.Machine.execClz a d s
  | .ctz a d => Sys2Proof.Machine.execCtz a d s
  | .popc a d => Sys2Proof.Machine.execPopc a d s
  | .addi x a d => Sys2Proof.Machine.execAddi x a d s
  | .andi x a d => Sys2Proof.Machine.execAndi x a d s
  | .ori x a d => Sys2Proof.Machine.execOri x a d s
  | .xori x a d => Sys2Proof.Machine.execXori x a d s
  | .slti x a d => Sys2Proof.Machine.execSlti x a d s
  | .slli h a d => Sys2Proof.Machine.execSlli h a d s
  | .srli h a d => Sys2Proof.Machine.execSrli h a d s
  | .srai h a d => Sys2Proof.Machine.execSrai h a d s
  | .lih x d => Sys2Proof.Machine.execLih x d s
  | .addpc x d => Sys2Proof.Machine.execAddpc x d s
  | .liw d x => Sys2Proof.Machine.execLiw d x s
  | .fadd f m b a d => Sys2Proof.Machine.execFadd f m b a d s
  | .fsub f m b a d => Sys2Proof.Machine.execFsub f m b a d s
  | .fmul f m b a d => Sys2Proof.Machine.execFmul f m b a d s
  | .ffma f m b a d => Sys2Proof.Machine.execFfma f m b a d s
  | .fdiv f m b a d => Sys2Proof.Machine.execFdiv f m b a d s
  | .fsqrt f m a d => Sys2Proof.Machine.execFsqrt f m a d s
  | .fmin f b a d => Sys2Proof.Machine.execFmin f b a d s
  | .fmax f b a d => Sys2Proof.Machine.execFmax f b a d s
  | .fcmpEq f b a d => Sys2Proof.Machine.execFcmpEq f b a d s
  | .fcmpLt f b a d => Sys2Proof.Machine.execFcmpLt f b a d s
  | .fcmpLe f b a d => Sys2Proof.Machine.execFcmpLe f b a d s
  | .fcmpUnord f b a d => Sys2Proof.Machine.execFcmpUnord f b a d s
  | .fcvtToInt32 f m a d => Sys2Proof.Machine.execFcvtToInt32 f m a d s
  | .fcvtToUint32 f m a d => Sys2Proof.Machine.execFcvtToUint32 f m a d s
  | .fcvtToInt64 f m a d => Sys2Proof.Machine.execFcvtToInt64 f m a d s
  | .fcvtToUint64 f m a d => Sys2Proof.Machine.execFcvtToUint64 f m a d s
  | .fcvtFromInt32 f m a d => Sys2Proof.Machine.execFcvtFromInt32 f m a d s
  | .fcvtFromUint32 f m a d => Sys2Proof.Machine.execFcvtFromUint32 f m a d s
  | .fcvtFromInt64 f m a d => Sys2Proof.Machine.execFcvtFromInt64 f m a d s
  | .fcvtFromUint64 f m a d => Sys2Proof.Machine.execFcvtFromUint64 f m a d s
  | .fcvtFp f m a d => Sys2Proof.Machine.execFcvtFp f m a d s
  | .ldB x a d => Sys2Proof.Machine.execLdB x a d s
  | .ldH x a d => Sys2Proof.Machine.execLdH x a d s
  | .ldW x a d => Sys2Proof.Machine.execLdW x a d s
  | .ldD x a d => Sys2Proof.Machine.execLdD x a d s
  | .ldBu x a d => Sys2Proof.Machine.execLdBu x a d s
  | .ldHu x a d => Sys2Proof.Machine.execLdHu x a d s
  | .ldWu x a d => Sys2Proof.Machine.execLdWu x a d s
  | .stB o b a => Sys2Proof.Machine.execStB o b a s
  | .stH o b a => Sys2Proof.Machine.execStH o b a s
  | .stW o b a => Sys2Proof.Machine.execStW o b a s
  | .stD o b a => Sys2Proof.Machine.execStD o b a s
  | .amoAdd o sc b a d => Sys2Proof.Machine.execAmoAdd o sc b a d s
  | .amoAnd o sc b a d => Sys2Proof.Machine.execAmoAnd o sc b a d s
  | .amoOr o sc b a d => Sys2Proof.Machine.execAmoOr o sc b a d s
  | .amoXor o sc b a d => Sys2Proof.Machine.execAmoXor o sc b a d s
  | .amoMin o sc b a d => Sys2Proof.Machine.execAmoMin o sc b a d s
  | .amoMax o sc b a d => Sys2Proof.Machine.execAmoMax o sc b a d s
  | .amoMinu o sc b a d => Sys2Proof.Machine.execAmoMinu o sc b a d s
  | .amoMaxu o sc b a d => Sys2Proof.Machine.execAmoMaxu o sc b a d s
  | .cas o sc b a d => Sys2Proof.Machine.execCas o sc b a d s
  | .amoSwap o sc b a d => Sys2Proof.Machine.execAmoSwap o sc b a d s
  | .beq o b a => Sys2Proof.Machine.execBeq o b a s
  | .bne o b a => Sys2Proof.Machine.execBne o b a s
  | .blt o b a => Sys2Proof.Machine.execBlt o b a s
  | .bge o b a => Sys2Proof.Machine.execBge o b a s
  | .bltu o b a => Sys2Proof.Machine.execBltu o b a s
  | .bgeu o b a => Sys2Proof.Machine.execBgeu o b a s
  | .jal o d => Sys2Proof.Machine.execJal o d s
  | .jalr x a d => Sys2Proof.Machine.execJalr x a d s
  | .csrr c d => Sys2Proof.Machine.execCsrr c d s
  | .csrw c a => Sys2Proof.Machine.execCsrw c a s
  | .csrx c a d => Sys2Proof.Machine.execCsrx c a d s
  | .ecall => Sys2Proof.Machine.execEcall s
  | .ebreak => Sys2Proof.Machine.execEbreak s
  | .tret => Sys2Proof.Machine.execTret s
  | .pause => Sys2Proof.Machine.execPause s
  | .yield => Sys2Proof.Machine.execYield s
  | .hexit => Sys2Proof.Machine.execHexit s
  | .gbar => Sys2Proof.Machine.execGbar s
  | .fenceSv sc => Sys2Proof.Machine.execFenceSv sc s
  | .fenceVS sc => Sys2Proof.Machine.execFenceVS sc s
  | .fenceVV sc => Sys2Proof.Machine.execFenceVV sc s
  | .fenceAll sc => Sys2Proof.Machine.execFenceAll sc s
  | .waitwEq sc b a d => Sys2Proof.Machine.execWaitwEq sc b a d s
  | .waitwNe sc b a d => Sys2Proof.Machine.execWaitwNe sc b a d s
  | .waitwGeu sc b a d => Sys2Proof.Machine.execWaitwGeu sc b a d s
  | .waitwLtu sc b a d => Sys2Proof.Machine.execWaitwLtu sc b a d s
  | .waitwGe sc b a d => Sys2Proof.Machine.execWaitwGe sc b a d s
  | .waitwLt sc b a d => Sys2Proof.Machine.execWaitwLt sc b a d s
  | .spawn a d => Sys2Proof.Machine.execSpawn a d s
  | .vsetvl w a d => Sys2Proof.Machine.execVsetvl w a d s
  | .vsetvlX w a d => Sys2Proof.Machine.execVsetvlX w a d s
  | .vcfg b d => Sys2Proof.Machine.execVcfg b d s
  | .vaddVV c k b a d => Sys2Proof.Machine.execVaddVV c k b a d s
  | .vaddVS c k b a d => Sys2Proof.Machine.execVaddVS c k b a d s
  | .vaddVI c k x a d => Sys2Proof.Machine.execVaddVI c k x a d s
  | .vsubVV c k b a d => Sys2Proof.Machine.execVsubVV c k b a d s
  | .vsubVS c k b a d => Sys2Proof.Machine.execVsubVS c k b a d s
  | .vsubVI c k x a d => Sys2Proof.Machine.execVsubVI c k x a d s
  | .vmulVV c k b a d => Sys2Proof.Machine.execVmulVV c k b a d s
  | .vmulVS c k b a d => Sys2Proof.Machine.execVmulVS c k b a d s
  | .vmulhVV c k b a d => Sys2Proof.Machine.execVmulhVV c k b a d s
  | .vmulhVS c k b a d => Sys2Proof.Machine.execVmulhVS c k b a d s
  | .vfmaVV c k b a d => Sys2Proof.Machine.execVfmaVV c k b a d s
  | .vfmaVS c k b a d => Sys2Proof.Machine.execVfmaVS c k b a d s
  | .vdivVV c k b a d => Sys2Proof.Machine.execVdivVV c k b a d s
  | .vdivVS c k b a d => Sys2Proof.Machine.execVdivVS c k b a d s
  | .vminVV c k b a d => Sys2Proof.Machine.execVminVV c k b a d s
  | .vminVS c k b a d => Sys2Proof.Machine.execVminVS c k b a d s
  | .vmaxVV c k b a d => Sys2Proof.Machine.execVmaxVV c k b a d s
  | .vmaxVS c k b a d => Sys2Proof.Machine.execVmaxVS c k b a d s
  | .vandVV c k b a d => Sys2Proof.Machine.execVandVV c k b a d s
  | .vandVS c k b a d => Sys2Proof.Machine.execVandVS c k b a d s
  | .vandVI c k x a d => Sys2Proof.Machine.execVandVI c k x a d s
  | .vorVV c k b a d => Sys2Proof.Machine.execVorVV c k b a d s
  | .vorVS c k b a d => Sys2Proof.Machine.execVorVS c k b a d s
  | .vorVI c k x a d => Sys2Proof.Machine.execVorVI c k x a d s
  | .vxorVV c k b a d => Sys2Proof.Machine.execVxorVV c k b a d s
  | .vxorVS c k b a d => Sys2Proof.Machine.execVxorVS c k b a d s
  | .vxorVI c k x a d => Sys2Proof.Machine.execVxorVI c k x a d s
  | .vshlVV c k b a d => Sys2Proof.Machine.execVshlVV c k b a d s
  | .vshlVS c k b a d => Sys2Proof.Machine.execVshlVS c k b a d s
  | .vshlVI c k x a d => Sys2Proof.Machine.execVshlVI c k x a d s
  | .vshrVV c k b a d => Sys2Proof.Machine.execVshrVV c k b a d s
  | .vshrVS c k b a d => Sys2Proof.Machine.execVshrVS c k b a d s
  | .vshrVI c k x a d => Sys2Proof.Machine.execVshrVI c k x a d s
  | .vldexpVV c k b a d => Sys2Proof.Machine.execVldexpVV c k b a d s
  | .vldexpVS c k b a d => Sys2Proof.Machine.execVldexpVS c k b a d s
  | .vldexpVI c k x a d => Sys2Proof.Machine.execVldexpVI c k x a d s
  | .vselVV c k b a d => Sys2Proof.Machine.execVselVV c k b a d s
  | .vselVS c k b a d => Sys2Proof.Machine.execVselVS c k b a d s
  | .vselVI c k x a d => Sys2Proof.Machine.execVselVI c k x a d s
  | .vadcVV c k b a d => Sys2Proof.Machine.execVadcVV c k b a d s
  | .vadcVS c k b a d => Sys2Proof.Machine.execVadcVS c k b a d s
  | .vsbcVV c k b a d => Sys2Proof.Machine.execVsbcVV c k b a d s
  | .vsbcVS c k b a d => Sys2Proof.Machine.execVsbcVS c k b a d s
  | .vwaddVV c k b a d => Sys2Proof.Machine.execVwaddVV c k b a d s
  | .vwaddVS c k b a d => Sys2Proof.Machine.execVwaddVS c k b a d s
  | .vwmulVV c k b a d => Sys2Proof.Machine.execVwmulVV c k b a d s
  | .vwmulVS c k b a d => Sys2Proof.Machine.execVwmulVS c k b a d s
  | .vwfmaVV c k b a d => Sys2Proof.Machine.execVwfmaVV c k b a d s
  | .vwfmaVS c k b a d => Sys2Proof.Machine.execVwfmaVS c k b a d s
  | .vsgnVV c k b a d => Sys2Proof.Machine.execVsgnVV c k b a d s
  | .vsgnVS c k b a d => Sys2Proof.Machine.execVsgnVS c k b a d s
  | .vabs c k a d => Sys2Proof.Machine.execVabs c k a d s
  | .vrnd c k m a d => Sys2Proof.Machine.execVrnd c k m a d s
  | .vcvt c k t a d => Sys2Proof.Machine.execVcvt c k t a d s
  | .vunpack c k t a d => Sys2Proof.Machine.execVunpack c k t a d s
  | .vsfuRcp c k a d => Sys2Proof.Machine.execVsfuRcp c k a d s
  | .vsfuRsqrt c k a d => Sys2Proof.Machine.execVsfuRsqrt c k a d s
  | .vsfuSqrt c k a d => Sys2Proof.Machine.execVsfuSqrt c k a d s
  | .vsfuExp2 c k a d => Sys2Proof.Machine.execVsfuExp2 c k a d s
  | .vsfuLog2 c k a d => Sys2Proof.Machine.execVsfuLog2 c k a d s
  | .vsfuSin c k a d => Sys2Proof.Machine.execVsfuSin c k a d s
  | .vsfuCos c k a d => Sys2Proof.Machine.execVsfuCos c k a d s
  | .vcmpEqVV c k b a d => Sys2Proof.Machine.execVcmpEqVV c k b a d s
  | .vcmpNeVV c k b a d => Sys2Proof.Machine.execVcmpNeVV c k b a d s
  | .vcmpLtVV c k b a d => Sys2Proof.Machine.execVcmpLtVV c k b a d s
  | .vcmpLeVV c k b a d => Sys2Proof.Machine.execVcmpLeVV c k b a d s
  | .vcmpGtVV c k b a d => Sys2Proof.Machine.execVcmpGtVV c k b a d s
  | .vcmpGeVV c k b a d => Sys2Proof.Machine.execVcmpGeVV c k b a d s
  | .vcmpOrdVV c k b a d => Sys2Proof.Machine.execVcmpOrdVV c k b a d s
  | .vcmpUnordVV c k b a d => Sys2Proof.Machine.execVcmpUnordVV c k b a d s
  | .vcmpEqVS c k b a d => Sys2Proof.Machine.execVcmpEqVS c k b a d s
  | .vcmpNeVS c k b a d => Sys2Proof.Machine.execVcmpNeVS c k b a d s
  | .vcmpLtVS c k b a d => Sys2Proof.Machine.execVcmpLtVS c k b a d s
  | .vcmpLeVS c k b a d => Sys2Proof.Machine.execVcmpLeVS c k b a d s
  | .vcmpGtVS c k b a d => Sys2Proof.Machine.execVcmpGtVS c k b a d s
  | .vcmpGeVS c k b a d => Sys2Proof.Machine.execVcmpGeVS c k b a d s
  | .vcmpOrdVS c k b a d => Sys2Proof.Machine.execVcmpOrdVS c k b a d s
  | .vcmpUnordVS c k b a d => Sys2Proof.Machine.execVcmpUnordVS c k b a d s
  | .kand c b a d => Sys2Proof.Machine.execKand c b a d s
  | .kor c b a d => Sys2Proof.Machine.execKor c b a d s
  | .kxor c b a d => Sys2Proof.Machine.execKxor c b a d s
  | .kandn c b a d => Sys2Proof.Machine.execKandn c b a d s
  | .knot c a d => Sys2Proof.Machine.execKnot c a d s
  | .kshl c a d => Sys2Proof.Machine.execKshl c a d s
  | .kshr c a d => Sys2Proof.Machine.execKshr c a d s
  | .kpopc c a d => Sys2Proof.Machine.execKpopc c a d s
  | .kfirst c a d => Sys2Proof.Machine.execKfirst c a d s
  | .kmovs c a d => Sys2Proof.Machine.execKmovs c a d s
  | .vzip c a d => Sys2Proof.Machine.execVzip c a d s
  | .vunzip c a d => Sys2Proof.Machine.execVunzip c a d s
  | .vpack2 c y m t a d => Sys2Proof.Machine.execVpack2 c y m t a d s
  | .vpack4 c y m t a d => Sys2Proof.Machine.execVpack4 c y m t a d s
  | .vgather c k b a d => Sys2Proof.Machine.execVgather c k b a d s
  | .vcompress c k a d => Sys2Proof.Machine.execVcompress c k a d s
  | .vexpand c k a d => Sys2Proof.Machine.execVexpand c k a d s
  | .vmv c k a d => Sys2Proof.Machine.execVmv c k a d s
  | .viota c k d => Sys2Proof.Machine.execViota c k d s
  | .vidx c k d => Sys2Proof.Machine.execVidx c k d s
  | .vslideup c k b a d => Sys2Proof.Machine.execVslideup c k b a d s
  | .vslidedn c k b a d => Sys2Proof.Machine.execVslidedn c k b a d s
  | .vslide1 c k b a d => Sys2Proof.Machine.execVslide1 c k b a d s
  | .vbcast c k b d => Sys2Proof.Machine.execVbcast c k b d s
  | .vext c b a d => Sys2Proof.Machine.execVext c b a d s
  | .vins c b a d => Sys2Proof.Machine.execVins c b a d s
  | .vxchg b a d => Sys2Proof.Machine.execVxchg b a d s
  | .vrsumO c k a d => Sys2Proof.Machine.execVrsumO c k a d s
  | .vrsumT c k a d => Sys2Proof.Machine.execVrsumT c k a d s
  | .vrmax c k a d => Sys2Proof.Machine.execVrmax c k a d s
  | .vrmin c k a d => Sys2Proof.Machine.execVrmin c k a d s
  | .vrlog c k a d => Sys2Proof.Machine.execVrlog c k a d s
  | .vmaxidx c k a d => Sys2Proof.Machine.execVmaxidx c k a d s
  | .vsoft c k b a d => Sys2Proof.Machine.execVsoft c k b a d s
  | .vrand c k d => Sys2Proof.Machine.execVrand c k d s
  | .vrope c k b a d => Sys2Proof.Machine.execVrope c k b a d s
  | .vsort c x p a d => Sys2Proof.Machine.execVsort c x p a d s
  | .vchks c x a d => Sys2Proof.Machine.execVchks c x a d s
  | .vlds c q y x p sc a d => Sys2Proof.Machine.execVlds c q y x p sc a d s
  | .vmergeLo c b a d => Sys2Proof.Machine.execVmergeLo c b a d s
  | .vmergeHi c b a d => Sys2Proof.Machine.execVmergeHi c b a d s
  | .vmergec c sc b a d => Sys2Proof.Machine.execVmergec c sc b a d s
  | .vinter c b a d => Sys2Proof.Machine.execVinter c b a d s
  | .vuniq c a d => Sys2Proof.Machine.execVuniq c a d s
  | .vsrev c a d => Sys2Proof.Machine.execVsrev c a d s
  | .vcmx c k a d => Sys2Proof.Machine.execVcmx c k a d s
  | .vrankLb c b a d => Sys2Proof.Machine.execVrankLb c b a d s
  | .vrankUb c b a d => Sys2Proof.Machine.execVrankUb c b a d s
  | .vpart c b a d => Sys2Proof.Machine.execVpart c b a d s
  | .zrcfg q b a z => Sys2Proof.Machine.execZrcfg q b a z s
  | .zrpush c k a z => Sys2Proof.Machine.execZrpush c k a z s
  | .zrpushL c k b a z => Sys2Proof.Machine.execZrpushL c k b a z s
  | .zrmerge q a z => Sys2Proof.Machine.execZrmerge q a z s
  | .zrst q a z => Sys2Proof.Machine.execZrst q a z s
  | .zrread k a z => Sys2Proof.Machine.execZrread k a z s
  | .zrhdr a z => Sys2Proof.Machine.execZrhdr a z s
  | .zrth a z => Sys2Proof.Machine.execZrth a z s
  | .vroute k b a d => Sys2Proof.Machine.execVroute k b a d s
  | .zop c k b a z => Sys2Proof.Machine.execZop c k b a z s
  | .zops c k b a z => Sys2Proof.Machine.execZops c k b a z s
  | .zpop c k b a z => Sys2Proof.Machine.execZpop c k b a z s
  | .zmovv c k d a m z => Sys2Proof.Machine.execZmovv c k d a m z s
  | .zmovz c k d a m z => Sys2Proof.Machine.execZmovz c k d a m z s
  | .zcvt c k d a m z => Sys2Proof.Machine.execZcvt c k d a m z s
  | .zcvtSc c k d a m z => Sys2Proof.Machine.execZcvtSc c k d a m z s
  | .zrowstat c k d a m z => Sys2Proof.Machine.execZrowstat c k d a m z s
  | .zclr m z => Sys2Proof.Machine.execZclr m z s
  | .zwait a z => Sys2Proof.Machine.execZwait a z s
  | .zld b h t z => Sys2Proof.Machine.execZld b h t z s
  | .zst b h t z => Sys2Proof.Machine.execZst b h t z s
  | .pcvt c y x p k b a d => Sys2Proof.Machine.execPcvt c y x p k b a d s
  | .gtscfg q b a => Sys2Proof.Machine.execGtscfg q b a s
  | .gtsnext a => Sys2Proof.Machine.execGtsnext a s
  | .vprobe b a q => Sys2Proof.Machine.execVprobe b a q s
  | .vprobeFf b a q => Sys2Proof.Machine.execVprobeFf b a q s
  | .vunpin q => Sys2Proof.Machine.execVunpin q s
  | .vld c q k b a d => Sys2Proof.Machine.execVld c q k b a d s
  | .vst c q k b a d => Sys2Proof.Machine.execVst c q k b a d s
  | .vldx c q k b a d => Sys2Proof.Machine.execVldx c q k b a d s
  | .vstx c q k b a d => Sys2Proof.Machine.execVstx c q k b a d s
  | .vamoAdd c q k b a d => Sys2Proof.Machine.execVamoAdd c q k b a d s
  | .vamoAnd c q k b a d => Sys2Proof.Machine.execVamoAnd c q k b a d s
  | .vamoOr c q k b a d => Sys2Proof.Machine.execVamoOr c q k b a d s
  | .vamoXor c q k b a d => Sys2Proof.Machine.execVamoXor c q k b a d s
  | .vamoMin c q k b a d => Sys2Proof.Machine.execVamoMin c q k b a d s
  | .vamoMax c q k b a d => Sys2Proof.Machine.execVamoMax c q k b a d s
  | .vamoMinu c q k b a d => Sys2Proof.Machine.execVamoMinu c q k b a d s
  | .vamoMaxu c q k b a d => Sys2Proof.Machine.execVamoMaxu c q k b a d s
  | .lmld c k b a d => Sys2Proof.Machine.execLmld c k b a d s
  | .lmst c k b a d => Sys2Proof.Machine.execLmst c k b a d s
  | .thset q a h => Sys2Proof.Machine.execThset q a h s
  | .thget q a h => Sys2Proof.Machine.execThget q a h s
  | .tld c k b h d => Sys2Proof.Machine.execTld c k b h d s
  | .tst c k b h d => Sys2Proof.Machine.execTst c k b h d s
  | .trelayout q b a h => Sys2Proof.Machine.execTrelayout q b a h s
  | .twait h => Sys2Proof.Machine.execTwait h s
  | .scfg q b a f => Sys2Proof.Machine.execScfg q b a f s
  | .srd c f d => Sys2Proof.Machine.execSrd c f d s
  | .swr c f d => Sys2Proof.Machine.execSwr c f d s
  | .savail sc f d => Sys2Proof.Machine.execSavail sc f d s
  | .cpy q r b a d => Sys2Proof.Machine.execCpy q r b a d s
  | .vxlate q x k b a d => Sys2Proof.Machine.execVxlate q x k b a d s
  | .pfxlook q b a d => Sys2Proof.Machine.execPfxlook q b a d s
  | .pfxins q b a d => Sys2Proof.Machine.execPfxins q b a d s
  | .pfxdet q b a d => Sys2Proof.Machine.execPfxdet q b a d s
  | .pfxevict q b a d => Sys2Proof.Machine.execPfxevict q b a d s
  | .pbay q b a => Sys2Proof.Machine.execPbay q b a s
  | .psend q k b a d => Sys2Proof.Machine.execPsend q k b a d s
  | .waitwWake g m => Sys2Proof.Machine.execWaitwWake g m s
  | .gbarWake g m => Sys2Proof.Machine.execGbarWake g m s
  | .pauseExpiry g m => Sys2Proof.Machine.execPauseExpiry g m s
  | .watchdogExpiry g m => Sys2Proof.Machine.execWatchdogExpiry g m s
  | .dependenceEvaluation g => Sys2Proof.Machine.execDependenceEvaluation g s
  | .dependenceRetry g => Sys2Proof.Machine.execDependenceRetry g s
  | .dependencePoll g => Sys2Proof.Machine.execDependencePoll g s
  | .gangPlacement g places => Sys2Proof.Machine.execGangPlacement g places s
  | .keyReadRetry g places => Sys2Proof.Machine.execKeyReadRetry g places s
  | .entryReserving g => Sys2Proof.Machine.execEntryReserving g s
  | .unplaceableReport g => Sys2Proof.Machine.execUnplaceableReport g s
  | .preemptionGraceExpiry g victims => Sys2Proof.Machine.execPreemptionGraceExpiry g victims s
  | .gangPreemption g => Sys2Proof.Machine.execGangPreemption g s
  | .contextSaveDone g => Sys2Proof.Machine.execContextSaveDone g s
  | .gangRestore g places => Sys2Proof.Machine.execGangRestore g places s
  | .notificationDelivery isle => Sys2Proof.Machine.execNotificationDelivery isle s
  | .probeFaultReply g m => Sys2Proof.Machine.execProbeFaultReply g m s
  | .preqPreempt isle => Sys2Proof.Machine.execPreqPreempt isle s
  | .preqEnd isle => Sys2Proof.Machine.execPreqEnd isle s
  | .preqReserved isle => Sys2Proof.Machine.execPreqReserved isle s
  | .mreqRehash isle region version => Sys2Proof.Machine.execMreqRehash isle region version s
  | .mreqMoveHbm isle region => Sys2Proof.Machine.execMreqMoveHbm isle region s
  | .mreqMoveLpddr isle region => Sys2Proof.Machine.execMreqMoveLpddr isle region s
  | .rowMissRehash region => Sys2Proof.Machine.execRowMissRehash region s
  | .migrationStart region => Sys2Proof.Machine.execMigrationStart region s
  | .migrationChunk region chunk => Sys2Proof.Machine.execMigrationChunk region chunk s
  | .icmdInvalidate isle value => Sys2Proof.Machine.execIcmdInvalidate isle value s
  | .invalidationDone isle => Sys2Proof.Machine.execInvalidationDone isle s
  | .relayoutUnit relayout => Sys2Proof.Machine.execRelayoutUnit relayout s
  | .streamFetch g m f n => Sys2Proof.Machine.execStreamFetch g m f n s
  | .streamWriteDrain g m f n => Sys2Proof.Machine.execStreamWriteDrain g m f n s
  | .engineTransferComplete g m => Sys2Proof.Machine.execEngineTransferComplete g m s
  | .psendComplete g m => Sys2Proof.Machine.execPsendComplete g m s
  | .l1dEviction core line => Sys2Proof.Machine.execL1dEviction core line s
  | .remoteLineExpiry isle line => Sys2Proof.Machine.execRemoteLineExpiry isle line s
  | .scrub place group errors => Sys2Proof.Machine.execScrub place group errors s
  | .repair location => Sys2Proof.Machine.execRepair location s
  | .repairApproval location => Sys2Proof.Machine.execRepairApproval location s
  | .repairComplete location => Sys2Proof.Machine.execRepairComplete location s
  | .powerMeasurement watts => Sys2Proof.Machine.execPowerMeasurement watts s
  | .thermalHold degrees => Sys2Proof.Machine.execThermalHold degrees s
  | .powerTrip => Sys2Proof.Machine.execPowerTrip s
  | .powerGood => Sys2Proof.Machine.execPowerGood s
  | .bootgo => Sys2Proof.Machine.execBootgo s
  | .memoryTraining failed versions image starts => Sys2Proof.Machine.execMemoryTraining failed versions image starts s
  | .serviceReady => Sys2Proof.Machine.execServiceReady s
  | .drainRequest => Sys2Proof.Machine.execDrainRequest s
  | .drainRelease => Sys2Proof.Machine.execDrainRelease s
  | .seedWrite x value => Sys2Proof.Machine.execSeedWrite x value s
  | .controlRegisterWrite offset value => Sys2Proof.Machine.execControlRegisterWrite offset value s
  | .getVersion => Sys2Proof.Machine.execGetVersion s
  | .getCapabilities => Sys2Proof.Machine.execGetCapabilities s
  | .negotiateAlgorithms => Sys2Proof.Machine.execNegotiateAlgorithms s
  | .getDigests => Sys2Proof.Machine.execGetDigests s
  | .getCertificate => Sys2Proof.Machine.execGetCertificate s
  | .challenge => Sys2Proof.Machine.execChallenge s
  | .getMeasurements => Sys2Proof.Machine.execGetMeasurements s
  | .read msg => Sys2Proof.Machine.execRead msg s
  | .write msg => Sys2Proof.Machine.execWrite msg s
  | .atomic msg => Sys2Proof.Machine.execAtomic msg s
  | .pfxlookMessage msg => Sys2Proof.Machine.execPfxlookMessage msg s
  | .pfxinsMessage msg => Sys2Proof.Machine.execPfxinsMessage msg s
  | .pfxdetMessage msg => Sys2Proof.Machine.execPfxdetMessage msg s
  | .pfxevictMessage msg => Sys2Proof.Machine.execPfxevictMessage msg s
  | .atomicWait msg => Sys2Proof.Machine.execAtomicWait msg s
  | .atomicWaitReply index => Sys2Proof.Machine.execAtomicWaitReply index s
  | .atomicWaitTimeout index => Sys2Proof.Machine.execAtomicWaitTimeout index s
  | .spawnMessage msg => Sys2Proof.Machine.execSpawnMessage msg s
  | .parcel msg => Sys2Proof.Machine.execParcel msg s
  | .reply msg => Sys2Proof.Machine.execReply msg s
  | .requestTimeout tag => Sys2Proof.Machine.execRequestTimeout tag s
  | .rdmaWrite conn addr data => Sys2Proof.Machine.execRdmaWrite conn addr data s
  | .rdmaRead conn addr len => Sys2Proof.Machine.execRdmaRead conn addr len s
  | .send conn data => Sys2Proof.Machine.execSend conn data s
  | .atomicFetchAdd conn addr value => Sys2Proof.Machine.execAtomicFetchAdd conn addr value s
  | .atomicCompareSwap conn addr compare value => Sys2Proof.Machine.execAtomicCompareSwap conn addr compare value s
  | .rdmaCompletion tag data => Sys2Proof.Machine.execRdmaCompletion tag data s
  | .connectionError conn => Sys2Proof.Machine.execConnectionError conn s
  | .peerLost node => Sys2Proof.Machine.execPeerLost node s
  | .illegalInsn tval => Sys2Proof.Machine.execIllegalInsn tval s
  | .instructionFetchFault => Sys2Proof.Machine.execInstructionFetchFault s
  | .preemptionWindowExpiry g victims => Sys2Proof.Machine.execPreemptionWindowExpiry g victims s

end Sys2Proof.Machine
end

