-- ==== Sys2Proof/Machine/Step.lean ====
section
/-!
DEFINITION. The step: the next turn of the agenda acts, or, with an empty agenda, the issue stage of a core (log 1). Which harts
can issue in the clk is found before (R309).
-/
namespace Sys2Proof.Machine

/-- R309: can the next instruction of the hart issue now? It is tried on a copy of the machine: it can unless it neither completes
nor traps nor begins. -/
noncomputable def canIssue (s : State) (h : Hart) : Bool :=
  match cursorOn s h with
  | some (_, u) =>
    match fetchInstr u with
    | (some i, v) =>
      match exec i v with
      | .next t => !(isHold v t && notBegun u t)
      | .fault _ => true
      | .refused _ => true
    | (none, v) => !notBegun u v
  | none => true

/-- R309: each hart that could be selected is held where its next instruction cannot issue in this clk (log 54). -/
noncomputable def retry (s : State) : State :=
  let f (h : Hart) : Hart := { h with held := mayIssue s { h with held := false } && !canIssue s h }
  { s with hart := f s.hart, parked := s.parked.map f }

/-- A hart's turn: the instruction at its pc runs; `fetchInstr` says which. `prior` is the hart before it was selected. -/
noncomputable def issueTurn (prior : Hart) (s : State) : Host.Outcome State Fault Refusal :=
  match fetchInstr s with
  | (some i, s) =>
    match exec i s with
    | .next t => .next (markHeld prior s t)
    | .fault r => .fault r
    | .refused r => .refused r
  | (none, s) => .next (markHeld prior s s)

/-- The turn of a core's issue stage (R309). -/
noncomputable def coreTurn (s : State) (core : Nat) : Host.Outcome State Fault Refusal :=
  match selected s core with
  | some (h, s) => issueTurn h s
  | none => .next s

/-- The turn of a core's issue stage in which a vector instruction stops at element `e` at the latest (R26, R320): its hart stands
between two elements, where a pre-emption may find it. -/
noncomputable def partTurn (s : State) (core e : Nat) : Host.Outcome State Fault Refusal :=
  match selected s core with
  | some (h, s) =>
    match fetchInstr { s with stopAt := some e } with
    | (some i, s) =>
      match exec i s with
      | .next t => .next { markHeld h s t with stopAt := none }
      | .fault r => .fault r
      | .refused r => .refused r
    | (none, s) => .next (markHeld h s { s with stopAt := none })
  | none => .next s

/-- The next turn of the agenda acts. -/
noncomputable def turn (s : State) : Host.Outcome State Fault Refusal :=
  match s.agenda with
  | [] =>
    let s := tick 1 s
    match nextCore s with
    | some c => coreTurn s c
    | none => .next s
  | .issue c :: r => coreTurn (tick 1 { s with agenda := r }) c
  | .device i :: r =>
    let s := tick 1 { s with agenda := r }
    if isDeviceStep i then exec i (othersAct s) else .next s
  | .queueDone g m :: r => .next (queueDone (tick 1 { s with agenda := r }) g m)
  | .dropIcache c k :: r => .next (dropIcacheWord (tick 1 { s with agenda := r }) c k)
  | .dropStc c va :: r => .next (dropStcEntry (tick 1 { s with agenda := r }) c va)
  | .lag g m x y :: r => .next (lagHart (tick 1 { s with agenda := r }) g m x y)
  | .perform g m x i :: r => .next (performFor (othersAct (tick 1 { s with agenda := r })) g m x i)
  | .part c e :: r => partTurn (tick 1 { s with agenda := r }) c e
  | .idle n :: r => .next (tick n { s with agenda := r })

/-- One step. -/
noncomputable def step (s : State) : Host.Outcome State Fault Refusal := turn (retry s)

/-- The state with the instruction of `nbits` bits `w` stored where the next step fetches (log 11). -/
def State.withFetchWord (s : State) (nbits w : Nat) : State := placeWord s (w % 2 ^ nbits)

end Sys2Proof.Machine
end

