-- ==== Sys2Proof/Safety.lean ====
section
/-!
DEFINITION. What a sound state of the machine is: the invariants the statements are phrased in.
-/
namespace Sys2Proof.Machine

/-- Memory is in its canonical form. -/
def State.memoryOk (s : State) : Prop := memWf s.mem = true

/-- R42: the privilege word of a hart holds a legal mode in CUR and PREV and nothing in its reserved bits. -/
def Hart.privOk (h : Hart) : Prop := h.cur ≤ 2 ∧ h.prev ≤ 2 ∧ h.csr.priv.toNat < 32

/-- R19, R42: a hart's SPAN is one the package has, and VLMAXC is the bits of a register across it. -/
def Hart.spanOk (h : Hart) : Prop :=
  h.csr.span.toNat ∈ [1, 2, 4, 8] ∧ h.csr.vlmaxc.toNat = 65536 * h.csr.span.toNat

/-- R19, R42, R126: every hart has a legal span, and so has every gang that is posted. -/
def State.spansOk (s : State) : Prop := (∀ h ∈ s.harts, h.spanOk) ∧ ∀ g ∈ s.gangs, g.span ∈ [1, 2, 4, 8]

/-- A run is safe when no step of it faults or is refused. -/
def StepSafe (s : State) : Prop := ∃ t, step s = .next t

end Sys2Proof.Machine
end

