-- ==== Sys2Proof/Claims.lean ====
section
/-!
DEFINITION. The terms the statements are written in: what an instruction may have touched and what it must have left, how an
instruction completes, and when nothing stands in its way.
-/
namespace Sys2Proof.Machine

/-! ### Frames -/

/-- What an instruction may change, besides the program counter, RETIRED, the watchdog count and the convoy: scalar, vector
and mask registers, tiles, tokens, handles, streams, control registers by number, bytes of memory by key. `access` tells that
it goes to memory: caches, poison of memory and messages under way may change too. `place` tells that the hart's own state
(READY, RUN, WAIT, …) may change, `mq` that the operations of the matrix queue may have completed, `known` that a scalar register has
taken a result of the vector agent, whose atomics the later loads follow (R274). -/
structure Touched where
  s : List (BitVec 5) := []
  v : List Nat := []
  k : List Nat := []
  z : List Nat := []
  q : List Nat := []
  h : List Nat := []
  f : List Nat := []
  csr : List (BitVec 10) := []
  mem : Nat → Prop := fun _ => False
  access : Bool := false
  place : Bool := false
  mq : Bool := false
  known : Bool := false

/-- From `s` to `t`, nothing changes but what `w` names: every other register with its poison, every other control register
but RETIRED, every other byte of memory, the hart's place and state, and everything outside the hart. -/
structure Frame (w : Touched) (s t : State) : Prop where
  scalars : ∀ r : BitVec 5, r ∉ w.s → t.rs r = s.rs r ∧ t.hart.sPoison.getLsbD r.toNat = s.hart.sPoison.getLsbD r.toNat
  vectors : ∀ i : Fin 32, i.val ∉ w.v → t.hart.v[i] = s.hart.v[i]
  masks : ∀ i : Fin 8, i.val ∉ w.k → t.hart.k[i] = s.hart.k[i]
  tiles : ∀ i : Fin 8, i.val ∉ w.z → t.hart.z[i] = s.hart.z[i]
  tokens : ∀ i : Fin 8, i.val ∉ w.q → t.hart.q[i] = s.hart.q[i]
  handles : ∀ i : Fin 16, i.val ∉ w.h → t.hart.h[i] = s.hart.h[i]
  streams : ∀ i : Fin 8, i.val ∉ w.f → t.hart.f[i] = s.hart.f[i]
  csrs : ∀ n : BitVec 10, n ≠ 0x021 → n ∉ w.csr → readCsr t n = readCsr s n
  memory : ∀ a, ¬ w.mem a → memRead t.mem a = memRead s.mem a
  place : (w.place = false → t.hart.st = s.hart.st ∧ t.hart.waits = s.hart.waits) ∧ t.hart.cores = s.hart.cores ∧
    t.hart.slot = s.hart.slot ∧ t.hart.asid = s.hart.asid
  outside : t.parked = s.parked ∧ t.gangs = s.gangs ∧ t.isles = s.isles ∧ t.ctl = s.ctl ∧ t.clk = s.clk ∧ t.agenda = s.agenda ∧
    (w.access = false → t = { s with hart := t.hart })
  flight : (w.access = false → t.hart.transfers = s.hart.transfers ∧ t.hart.remote = s.hart.remote ∧
    t.hart.psend = s.hart.psend ∧
    t.hart.order = if w.known then { s.hart.order with shadows := [] } else s.hart.order) ∧
    (w.access = false → w.mq = false → w.z = [] → t.hart.mq = s.hart.mq) ∧ (w.z = [] → t.hart.mqSeq = s.hart.mqSeq)

/-! ### Completion -/

/-- R271-R273: nothing the hart has issued is still to be performed: no agent of it lags, no engine transfer is in flight and no
write stream holds a store. What a hart does whose agents lag is stated by itself (`Obligations.Fences`). -/
structure State.settled (s : State) : Prop where
  order : s.hart.order = .prompt
  transfers : s.hart.transfers = []
  streams : ∀ (i : Fin 8) (f : Stream), s.hart.f[i] = some f → f.writes = true → f.buf = []

/-- R28, R328: none of the scalar registers is poisoned; s0 never is. -/
def State.unpoisoned (s : State) (rs : List (BitVec 5)) : Prop :=
  ∀ r ∈ rs, r ≠ 0 → s.hart.sPoison.getLsbD r.toNat = false

/-- R28, R267: the scalar register holds the value, and a write to s0 has been discarded. -/
def State.holds (t : State) (d : BitVec 5) (v : Word) : Prop :=
  t.rs d = (if d = 0 then 0 else v) ∧ (d ≠ 0 → t.hart.sPoison.getLsbD d.toNat = false)

/-- R38: the instruction has retired and the hart goes on at `pc`. -/
def retiredAt (s t : State) (pc : Word) : Prop :=
  t.hart.pc = pc ∧ t.hart.csr.retired = s.hart.csr.retired + 1

/-- R116, R119: the trap has been taken: TCAUSE, TVAL and TPC written, PRIV.PREV and PRIV.CUR and PRIV.TACT changed, VSTART as
given, the pc at TVEC, the state TRAPPED, a new convoy, the matrix queue empty since every earlier instruction has completed; nothing
else has changed. -/
structure Entered (s t : State) (cause : Nat) (tval at_ : Word) (vstart : Word) : Prop where
  tcause : t.hart.csr.tcause = BitVec.ofNat 64 cause
  tval : t.hart.csr.tval = tval
  tpc : t.hart.csr.tpc = at_ &&& ~~~3
  prev : t.hart.prev = s.hart.cur
  cur : t.hart.cur = max s.hart.cur 1
  tact : t.hart.tact = true
  vstart : t.hart.csr.vstart = vstart
  pc : t.hart.pc = s.hart.csr.tvec
  state : t.hart.st = .trapped
  convoy : t.hart.convoy = .none
  matrix : t.hart.mq = []
  retired : t.hart.csr.retired = s.hart.csr.retired
  waits : t.hart.waits = s.hart.waits
  frame : Frame { csr := [0x001, 0x100, 0x101, 0x102, 0x105], place := true, mq := true } s t

/-- In every state in which none of the registers `rs` is poisoned the instruction completes: the hart goes on 4 bytes
further, `d` holds `v`, and nothing else changes. -/
def Writes (i : Instr) (rs : List (BitVec 5)) (d : BitVec 5) (v : State → Word) : Prop :=
  ∀ s : State, s.unpoisoned rs → ∃ t, exec i s = .next t ∧ retiredAt s t (s.hart.pc + 4) ∧ t.holds d (v s) ∧
    Frame { s := [d] } s t

/-- R85: the words are no instruction. -/
def Rejected (w0 w1 : BitVec 32) : Prop := ∃ e, decode w0 w1 = .error e

/-- The instruction meets the checks of its operands and has one word, `w`. -/
def Encoded (i : Instr) (w : BitVec 32) : Prop := i.wellFormed = true ∧ encode i = [w]

/-- The same for an instruction that also merges floating-point flags into VFLAGS and sets VSTAT.SAT: `r` gives the code
written to `d`, the flags and whether the result saturated. -/
def WritesFlags (i : Instr) (rs : List (BitVec 5)) (d : BitVec 5) (r : State → FRes) : Prop :=
  ∀ s : State, s.unpoisoned rs → ∃ t, exec i s = .next t ∧ retiredAt s t (s.hart.pc + 4) ∧
    t.holds d (BitVec.ofNat 64 (r s).code) ∧
    t.hart.csr.vflags = s.hart.csr.vflags ||| (r s).flags.zeroExtend 64 ∧
    t.hart.csr.vstat = (if (r s).sat then s.hart.csr.vstat ||| 2 else s.hart.csr.vstat) ∧
    Frame { s := [d], csr := [0x003, 0x004] } s t

/-- In every state in which none of the registers `rs` is poisoned the instruction completes, the hart goes on at `target`,
and nothing else changes. -/
def Jumps (i : Instr) (rs : List (BitVec 5)) (target : State → Word) : Prop :=
  ∀ s : State, s.unpoisoned rs → ∃ t, exec i s = .next t ∧ retiredAt s t (target s) ∧ Frame {} s t

/-! ### Traps -/

/-- R116: the instruction traps in a state in which no handler runs: the trap is taken at the pc with VSTART = 0. -/
def Traps (i : Instr) (s : State) (cause : Nat) (tval : Word) : Prop :=
  ∃ t, exec i s = .next t ∧ Entered s t cause tval s.hart.pc 0

/-- The same for a trap that leaves VSTART = `vstart`. -/
def TrapsKeeping (i : Instr) (s : State) (cause : Nat) (tval vstart : Word) : Prop :=
  ∃ t, exec i s = .next t ∧ Entered s t cause tval s.hart.pc vstart

/-- R97, R328: the scalar registers an instruction of the scalar stream reads as sources, where that is all it reads first. -/
def scalarSources : Instr → Option (List (BitVec 5))
  | .add b a _ | .sub b a _ | .and b a _ | .or b a _ | .xor b a _ | .andn b a _ | .sll b a _ | .srl b a _ | .sra b a _
  | .mul b a _ | .mulh b a _ | .mulhu b a _ | .div b a _ | .divu b a _ | .rem b a _ | .remu b a _ | .min b a _
  | .max b a _ | .minu b a _ | .maxu b a _ | .slt b a _ | .sltu b a _ => some [a, b]
  | .clz a _ | .ctz a _ | .popc a _ => some [a]
  | .addi _ a _ | .andi _ a _ | .ori _ a _ | .xori _ a _ | .slti _ a _ | .slli _ a _ | .srli _ a _ | .srai _ a _ => some [a]
  | .fadd _ _ b a _ | .fsub _ _ b a _ | .fmul _ _ b a _ | .fdiv _ _ b a _ | .fmin _ b a _ | .fmax _ b a _
  | .fcmpEq _ b a _ | .fcmpLt _ b a _ | .fcmpLe _ b a _ | .fcmpUnord _ b a _ => some [a, b]
  | .ffma _ _ b a d => some [a, b, d]
  | .fsqrt _ _ a _ | .fcvtToInt32 _ _ a _ | .fcvtToUint32 _ _ a _ | .fcvtToInt64 _ _ a _ | .fcvtToUint64 _ _ a _
  | .fcvtFromInt32 _ _ a _ | .fcvtFromUint32 _ _ a _ | .fcvtFromInt64 _ _ a _ | .fcvtFromUint64 _ _ a _
  | .fcvtFp _ _ a _ => some [a]
  | .ldB _ a _ | .ldH _ a _ | .ldW _ a _ | .ldD _ a _ | .ldBu _ a _ | .ldHu _ a _ | .ldWu _ a _ => some [a]
  | .stB _ b a | .stH _ b a | .stW _ b a | .stD _ b a => some [a, b]
  | .amoAdd _ _ b a _ | .amoAnd _ _ b a _ | .amoOr _ _ b a _ | .amoXor _ _ b a _ | .amoMin _ _ b a _ | .amoMax _ _ b a _
  | .amoMinu _ _ b a _ | .amoMaxu _ _ b a _ | .amoSwap _ _ b a _ => some [a, b]
  | .cas _ _ b a d => some [a, b, d]
  | .beq _ b a | .bne _ b a | .blt _ b a | .bge _ b a | .bltu _ b a | .bgeu _ b a => some [a, b]
  | .jalr _ a _ => some [a]
  | .waitwEq _ b a _ | .waitwNe _ b a _ | .waitwGeu _ b a _ | .waitwLtu _ b a _ | .waitwGe _ b a _
  | .waitwLt _ b a _ => some [a, b]
  | .spawn a _ => some [a]
  | _ => none

/-! ### Control and status registers -/

/-- R12, R38-R42, R114: what a control and status register holds after a write of `v` where it held `old`; `cur` is PRIV.CUR. -/
def csrAfter (n : BitVec 10) (old v : Word) (cur : Nat) : Word :=
  match n.toNat with
  | 0x001 => v
  | 0x002 => old &&& ~~~v
  | 0x003 => v &&& 0x1F
  | 0x004 => (old &&& ~~~0x1F) ||| (v &&& 0x1F)
  | 0x005 => if bits v 0 3 ≤ 4 then v &&& 7 else old
  | 0x023 => v &&& 0x7F
  | 0x024 => v &&& 0xFFFFFFFFFFFF
  | 0x028 => v
  | 0x029 => v
  | 0x02A => v
  | 0x02B => v
  | 0x02C => v
  | 0x02D => v
  | 0x02E => v &&& 1
  | 0x100 => v &&& 0xFF
  | 0x101 => v
  | 0x102 => v &&& ~~~3
  | 0x103 => v &&& ~~~3
  | 0x104 => v
  | 0x105 => if bits v 2 2 = 3 ∨ (bits v 2 2 = 2 ∧ cur = 1) then old else (old &&& ~~~0xC) ||| (v &&& 0xC)
  | _ => old

/-- R38: the registers whose access is RS: user mode traps PRIV on them. -/
def supervisorCsrs : List (BitVec 10) :=
  [0x024, 0x028, 0x029, 0x02A, 0x02B, 0x02E, 0x100, 0x101, 0x102, 0x103, 0x104, 0x105]

/-! ### Memory as an access finds it -/

/-- R106, R249, R251: the `n` bytes at `a` are storage of a core that the hart reaches through the on-package window, under
storage key `k`. -/
def State.windowKey (s : State) (a : Word) (n k : Nat) : Prop :=
  a.toNat % n = 0 ∧ bits a 52 12 = 0 ∧ inWindow a = true ∧
    ∃ core off, windowPlace s s.hart.home a = .core core off ∧ coreAccessOk s s.hart core off = true ∧ k = coreKey core off

/-- R254: the translations kept are of pages of 4 KiB, 2 MiB or 1 GiB. -/
def State.pagesOk (s : State) : Prop := ∀ e ∈ s.stc, e.size = 4096 ∨ e.size = 2 ^ 21 ∨ e.size = 2 ^ 30

/-- R106, R254-R256: the `n` bytes at `a` are mapped, for an access of kind `kind`, to physical address `pa`; `s1` is the state
after the translation, which sets A and D and keeps the translation in the cache. -/
def State.mappedAt (s : State) (a : Word) (n : Nat) (kind : AccessKind) (pa : Nat) (s1 : State) : Prop :=
  s.pagesOk ∧ a.toNat % n = 0 ∧ bits a 52 12 = 0 ∧ inWindow a = false ∧
    translate s s.hart.home s.hart.asid s.hart.user kind a.toNat = some (pa, s1)

/-- R248: the `n` bytes at physical address `pa`, within one line, as the scalar agent of the core sees them: in its L1D, or
in memory. -/
def State.agentBytes (s : State) (core pa n : Nat) : Nat :=
  match l1dFind s core (pa / 64) with
  | some l => l.data.toNat / 2 ^ (8 * (pa % 64)) % 2 ^ (8 * n)
  | none => readLE s.mem pa n

/-- R248, R268: the poison of the word at `pa` as the scalar agent of the core sees it. -/
def State.agentPoison (s : State) (core pa : Nat) : Bool :=
  match l1dFind s core (pa / 64) with
  | some l => l.poison.getLsbD (pa % 64 / 8)
  | none => poisoned s (64 * (pa / 64)) 64

/-- R248: byte `x` of memory lies under a dirty byte of the core's L1D, which a write-back puts there. -/
def State.dirtyAt (s : State) (core x : Nat) : Prop :=
  ∃ l ∈ s.l1d, l.core = core ∧ 64 * l.line ≤ x ∧ x < 64 * l.line + 64 ∧ l.dirty.getLsbD (x - 64 * l.line) = true

/-- The lines of the core's L1D are lines of main memory. -/
def State.linesOfMain (s : State) (core : Nat) : Prop := ∀ l ∈ s.l1d, l.core = core → 64 * l.line + 64 ≤ mainBytes

/-- No byte of the `n` bytes at key `k` is one of a supervisor mailbox. -/
def plainKey (k n : Nat) : Prop := isMailboxKey k = false ∧ isMailboxKey (k + n - 1) = false

/-- R120, R297: nothing of the hart is under way that a fence, a barrier or an exit waits for: nothing to be performed, no
parcel, and at DOMAIN and SYSTEM no write to another module. -/
def State.quiet (s : State) (scope : Nat) : Prop :=
  s.settled ∧ s.hart.psend = none ∧ (7 ≤ scope → remoteWritesPending s s.hart.name.1 s.hart.name.2 = false)

/-- A load of `n` bytes completes: from the window, from main memory through the L1D, and from a line that the Isle's
remote-line buffer holds; `d` takes the bytes extended, and what is stored nowhere keeps its bytes, but for lines of the L1D
that are written back. -/
def Loads (i : Instr) (a : BitVec 5) (addr : State → Word) (n : Nat) (d : BitVec 5) (ext : Nat → Word) : Prop :=
  ∀ s : State, s.unpoisoned [a] → s.settled → s.memoryOk →
    (∀ k, s.windowKey (addr s) n k → poisoned s k n = false →
      ∃ t, exec i s = .next t ∧ retiredAt s t (s.hart.pc + 4) ∧ t.holds d (ext (readLE s.mem k n)) ∧ Frame { s := [d] } s t) ∧
    (∀ pa s1, s.mappedAt (addr s) n .load pa s1 → pa < mainBytes → s1.agentPoison s.hart.home pa = false →
      ∃ t, exec i s = .next t ∧ retiredAt s t (s.hart.pc + 4) ∧ t.holds d (ext (s1.agentBytes s.hart.home pa n)) ∧
        Frame { s := [d], access := true, mem := s1.dirtyAt s.hart.home } s1 t) ∧
    (∀ pa s1 l, s.mappedAt (addr s) n .load pa s1 → mainBytes ≤ pa → isConnection pa = false →
      remoteStorePending s1 s.hart.name.1 s.hart.name.2 pa = false → rlbFind s1 (isleOf s.hart.home) pa = some l →
      l.poison.getLsbD (pa % 64 / 8) = false →
      ∃ t, exec i s = .next t ∧ retiredAt s t (s.hart.pc + 4) ∧
        t.holds d (ext (l.data.toNat / 2 ^ (8 * (pa % 64)) % 2 ^ (8 * n))) ∧ Frame { s := [d] } s1 t)

/-- A store of the low `n` bytes of `v` completes: the bytes are stored in the window's storage, or in the L1D for main
memory, and every other byte keeps its value, but for lines of the L1D that are written back. -/
def Stores (i : Instr) (rs : List (BitVec 5)) (addr v : State → Word) (n : Nat) : Prop :=
  ∀ s : State, s.unpoisoned rs → s.settled → s.memoryOk →
    (∀ k, s.windowKey (addr s) n k → plainKey k n →
      ∃ t, exec i s = .next t ∧ retiredAt s t (s.hart.pc + 4) ∧ readLE t.mem k n = (v s).toNat % 2 ^ (8 * n) ∧
        (mainBytes ≤ k → t.l1d = s.l1d) ∧ Frame { access := true, mem := fun x => k ≤ x ∧ x < k + n } s t) ∧
    (∀ pa s1, s.mappedAt (addr s) n .store pa s1 → pa < mainBytes →
      ∃ t, exec i s = .next t ∧ retiredAt s t (s.hart.pc + 4) ∧
        t.agentBytes s.hart.home pa n = (v s).toNat % 2 ^ (8 * n) ∧
        (∀ x, x / 64 = pa / 64 → (x < pa ∨ pa + n ≤ x) → t.agentBytes s.hart.home x 1 = s1.agentBytes s.hart.home x 1) ∧
        (∀ l : L1dLine, ¬ (l.core = s.hart.home ∧ l.line = pa / 64) →
          (l ∈ t.l1d → l ∈ s1.l1d) ∧
          (l ∈ s1.l1d → l ∈ t.l1d ∨ (l.core = s.hart.home ∧ l.line % 128 = pa / 64 % 128 ∧
            (l1dFind s1 l.core l.line = some l → ∀ j < 64, l.dirty.getLsbD j = true →
              memRead t.mem (64 * l.line + j) = l.data.extractLsb' (8 * j) 8)))) ∧
        Frame { access := true, mem := s1.dirtyAt s.hart.home } s1 t)

/-- R251, R252, R341: a scalar store of `n` bytes of `v` to a control page. One of 8 bytes by a hart that may write the page
completes: it does to a register of the module what the write of its value does (log 70 for a value that is discarded), it posts a
migration request, it writes IVA, ASTAB (from service mode alone) or RHTHR, or, at ICMD, it writes the dirty lines of the hart's
core back and starts the invalidation; the registers that are read only keep their values. Any other traps ADDR_RANGE. -/
def ControlStores (i : Instr) (rs : List (BitVec 5)) (addr v : State → Word) (n : Nat) : Prop :=
  ∀ (s : State) (off : Nat), s.unpoisoned rs → s.settled → (addr s).toNat % n = 0 → bits (addr s) 52 12 = 0 →
    inWindow (addr s) = true →
    let place := windowPlace s s.hart.home (addr s)
    let As := fun (j : Instr) (s0 : State) => ∃ t u, exec i s = .next t ∧ retiredAt s t (s.hart.pc + 4) ∧ exec j s0 = .next u ∧
      t = { u with hart := t.hart } ∧ Frame {} s { s with hart := t.hart }
    (place = .moduleCtl off → n = 8 → s.hart.cur = 2 → off ∈ [0x000, 0x008, 0x010, 0x018, 0x020, 0x060, 0x068, 0x100] →
      As (.controlRegisterWrite off (v s)) s) ∧
    (∀ r : Fin 4, place = .moduleCtl (0x040 + 8 * r.val) → n = 8 → s.hart.cur = 2 → As (.seedWrite r.val (v s)) s) ∧
    (∀ isle, place = .isleCtl isle off → n = 8 → s.hart.user = false →
      (off = 0x000 → ∀ region version, region < 2 ^ 21 → version < 16 →
        (v s = BitVec.ofNat 64 (region + version * 2 ^ 23) → As (.mreqRehash isle region version) s) ∧
        (v s = BitVec.ofNat 64 (region + 2 ^ 21) → As (.mreqMoveHbm isle region) s) ∧
        (v s = BitVec.ofNat 64 (region + 2 ^ 22) → As (.mreqMoveLpddr isle region) s)) ∧
      (off = 0x018 → As (.icmdInvalidate isle (v s)) (cleanL1d s s.hart.home)) ∧
      (off ≠ 0x000 → off ≠ 0x018 → ∃ t, exec i s = .next t ∧ retiredAt s t (s.hart.pc + 4) ∧
        t = { s with hart := t.hart, isles := t.isles } ∧ (∀ j < 8, j ≠ isle → t.isle j = s.isle j) ∧
        t.isle isle =
          (if off = 0x010 then { s.isle isle with iva := v s &&& 0x000FFFFFFFFFF000 }
          else if off = 0x028 ∧ s.hart.cur = 2 then { s.isle isle with astab := v s &&& 0x00FFFFFFFFFF0000 }
          else if off = 0x038 then { s.isle isle with rhthr := v s &&& 0xFFFF }
          else s.isle isle) ∧
        Frame {} s { s with hart := t.hart })) ∧
    (s.hart.tact = false →
      (∃ isle, place = .isleCtl isle off) ∧ (n ≠ 8 ∨ s.hart.user = true) ∨
        place = .moduleCtl off ∧ (n ≠ 8 ∨ s.hart.cur ≠ 2) →
      Traps i s 0x07 (addr s))

/-- An atomic completes: `d` takes the old word, the word becomes what `f` gives from it, or stays where `f` gives none;
in the window, and in main memory at the memory itself for a scope wider than HART. The word is reached after the release
that orders .rel and .ar ask for. -/
def Atomics (i : Instr) (o : BitVec 2) (sc : BitVec 4) (rs : List (BitVec 5)) (a d : BitVec 5)
    (f : State → Word → Option Word) : Prop :=
  ∀ s : State, s.unpoisoned rs → s.settled → s.memoryOk → s.linesOfMain s.hart.home →
    (o.getLsbD 1 = true → 7 ≤ sc.toNat → remoteWritesPending s s.hart.name.1 s.hart.name.2 = false) →
    (∀ k, s.windowKey (s.rs a) 8 k → mainBytes ≤ k → plainKey k 8 → poisoned s k 8 = false →
      ∃ t, exec i s = .next t ∧ retiredAt s t (s.hart.pc + 4) ∧ t.holds d (loadWord s k) ∧
        loadWord t k = (f s (loadWord s k)).getD (loadWord s k) ∧
        Frame { s := [d], access := true, mem := fun x => (k ≤ x ∧ x < k + 8) ∨ s.dirtyAt s.hart.home x } s t) ∧
    (∀ pa s1, (if o.getLsbD 1 then releaseL1d s sc.toNat else s).mappedAt (s.rs a) 8 .store pa s1 → pa < mainBytes →
      (sc = 0 → s1.agentPoison s.hart.home pa = false →
        ∃ t, exec i s = .next t ∧ retiredAt s t (s.hart.pc + 4) ∧
          t.holds d (BitVec.ofNat 64 (s1.agentBytes s.hart.home pa 8)) ∧
          t.agentBytes s.hart.home pa 8 = ((f s (BitVec.ofNat 64 (s1.agentBytes s.hart.home pa 8))).getD
            (BitVec.ofNat 64 (s1.agentBytes s.hart.home pa 8))).toNat ∧
          Frame { s := [d], access := true, mem := s1.dirtyAt s.hart.home } s1 t) ∧
      (sc ≠ 0 → poisoned (dropLine s1 s.hart.home (pa / 64)) pa 8 = false →
        ∃ t, exec i s = .next t ∧ retiredAt s t (s.hart.pc + 4) ∧
          t.holds d (loadWord (dropLine s1 s.hart.home (pa / 64)) pa) ∧
          loadWord t pa = (f s (loadWord (dropLine s1 s.hart.home (pa / 64)) pa)).getD
            (loadWord (dropLine s1 s.hart.home (pa / 64)) pa) ∧
          l1dFind t s.hart.home (pa / 64) = none ∧
          Frame { s := [d], access := true, mem := fun x => (pa ≤ x ∧ x < pa + 8) ∨ s1.dirtyAt s.hart.home x } s1 t))

/-- R106: the sources, the address, the size and the kind of a scalar load or store. -/
def scalarAccess : Instr → Option (List (BitVec 5) × (State → Word) × Nat × AccessKind)
  | .ldB i a _ | .ldBu i a _ => some ([a], fun s => s.rs a + i.signExtend 64, 1, .load)
  | .ldH i a _ | .ldHu i a _ => some ([a], fun s => s.rs a + i.signExtend 64, 2, .load)
  | .ldW i a _ | .ldWu i a _ => some ([a], fun s => s.rs a + i.signExtend 64, 4, .load)
  | .ldD i a _ => some ([a], fun s => s.rs a + i.signExtend 64, 8, .load)
  | .stB o b a => some ([a, b], fun s => s.rs a + o.signExtend 64, 1, .store)
  | .stH o b a => some ([a, b], fun s => s.rs a + o.signExtend 64, 2, .store)
  | .stW o b a => some ([a, b], fun s => s.rs a + o.signExtend 64, 4, .store)
  | .stD o b a => some ([a, b], fun s => s.rs a + o.signExtend 64, 8, .store)
  | _ => none

/-- R122: a WAITW with condition code `code`: `holds` is the condition on the word and sb. -/
def Waits (i : Instr) (sc : BitVec 4) (b a d : BitVec 5) (code : BitVec 3) (holds : Word → Word → Prop) : Prop :=
  ∀ (s s1 : State) (k : Nat), s.unpoisoned [a, b] → s.settled → s.memoryOk →
    (s.windowKey (s.rs a) 8 k ∧ s1 = s ∨ s.mappedAt (s.rs a) 8 .load k s1 ∧ k < mainBytes) → poisoned s1 k 8 = false →
    (holds (loadWord s1 k) (s.rs b) → ∃ t, exec i s = .next t ∧ retiredAt s t (s.hart.pc + 4) ∧ t.holds d (loadWord s1 k) ∧
      (2 ≤ sc.toNat → ∀ l ∈ t.l1d, l.core ≠ s.hart.home) ∧
      (7 ≤ sc.toNat → ∀ l ∈ t.rlb, l.isle ≠ isleOf s.hart.home) ∧
      Frame { s := [d], access := true, mem := s1.dirtyAt s.hart.home } s1 t) ∧
    (¬ holds (loadWord s1 k) (s.rs b) → ∃ t, exec i s = .next t ∧ t.hart.st = .wait ∧
      t.hart.waits = .word (s.rs a) sc code (s.rs b) d ∧ t.hart.pc = s.hart.pc ∧
      t.hart.csr.retired = s.hart.csr.retired ∧ Frame { place := true } s1 t)

/-! ### Values the spec names -/

/-- R98: the number of leading zero bits; 64 for 0. -/
def leadingZeros (x : Word) : Nat := ((List.range 64).reverse.takeWhile fun i => !x.getLsbD i).length
/-- R98: the number of trailing zero bits; 64 for 0. -/
def trailingZeros (x : Word) : Nat := ((List.range 64).takeWhile fun i => !x.getLsbD i).length
/-- R98: the number of one bits. -/
def oneBits (x : Word) : Nat := (List.range 64).countP fun i => x.getLsbD i
/-- R98: bits [127:64] of the product of the 128-bit operands. -/
def upperHalf (x y : BitVec 128) : Word := (x * y).extractLsb' 64 64
/-- R98: 1 or 0. -/
def oneIf (p : Prop) [Decidable p] : Word := if p then 1 else 0

end Sys2Proof.Machine
end

