-- ==== Sys2Proof/VectorClaims.lean ====
section
/-!
DEFINITION. The terms of the statements about the vector queue: when an instruction issues, what its completion leaves, and
what elements and masks hold afterwards.
-/
namespace Sys2Proof.Machine

/-! ### Issue and completion -/

/-- R45, R48, R86, R89, R328: the checks of steps 3 to 5 pass for a vector instruction that names `u`: a vector length is set,
its registers are within the footprint and its tiles within the grant, `cv` is the convoy with it, and none of its scalar
sources is poisoned. No pre-emption is to stop it midway (R320), and it begins with this issue. -/
structure State.issues (s : State) (u : VUse) (cv : Convoy) : Prop where
  von : u.needsVl = true → s.von = true
  regs : ∀ r ∈ u.vr ++ u.vw, r < s.foot ∧ r < 32
  tiles : ∀ z ∈ u.zs, z < s.tiles ∧ z < 8
  masks : ∀ k ∈ u.kr ++ u.kw, k < 8
  convoy : joinConvoy s.hart.convoy u = .ok cv
  scalars : s.unpoisoned (u.sr.map (BitVec.ofNat 5))
  whole : s.stopAt = none
  fresh : s.hart.progress = none

/-- R268: no word of the vector registers `vs` and of the masks `ks` is poisoned. -/
def State.cleanFor (s : State) (vs ks : List Nat) : Prop :=
  (∀ r ∈ vs, (s.v r).poison = 0) ∧ ∀ k ∈ ks, k ≠ 0 → (s.mask k).poison = 0

/-- R38, R43, R89: a vector instruction has completed: the hart goes on 4 bytes further, VSTART is 0, and the convoy has taken
it in. -/
structure Completed (s t : State) (cv : Convoy) : Prop where
  retired : retiredAt s t (s.hart.pc + 4)
  vstart : t.hart.csr.vstart = 0
  convoy : t.hart.convoy = cv

/-- The hart under the cursor has a SPAN and a VLMAXC that go together. -/
def State.spanOk (s : State) : Prop := s.hart.spanOk

/-- R87: none of the registers is ILLEGAL. -/
def State.legalTypes (s : State) (rs : List Nat) : Prop := ∀ r ∈ rs, s.vtype r ≠ 0
/-- R65: none of the registers has a scale. -/
def State.noScale (s : State) (rs : List Nat) : Prop := ∀ r ∈ rs, VTag.sc (s.vtag r) = false
/-- R64, R65: the scale register of an operand that may have one is a BF16 register of the footprint, and not the operand. -/
def State.scaled (s : State) (r : Nat) : Prop :=
  VTag.sc (s.vtag r) = true →
    VTag.sreg (s.vtag r) < s.foot ∧ s.vtype (VTag.sreg (s.vtag r)) = 11 ∧ VTag.sreg (s.vtag r) ≠ r

/-- R64, R65, R87: the registers may be moved or stored raw: where one has a scale, its scale register is as R65 says (log 59). -/
def State.movables (s : State) (rs : List Nat) : Prop := ∀ r ∈ rs, s.scaled r

/-! ### Elements -/

/-- R34, R61: the bits of an element. -/
def ElTy.bits (t : ElTy) : Nat := if t.isPlane then t.planes else t.w

/-- R131: the active elements from VSTART to n-1. -/
def State.lanes (s : State) (k n : Nat) : List Nat :=
  (List.range n).filter fun e => decide (s.vstart ≤ e) && s.active k e

/-- R69: the flags the results of the elements raise together, and whether one of them saturated. -/
def flagsOf (l : List Nat) (r : Nat → FRes) : FpFlags := l.foldl (fun fl e => fl ||| (r e).flags) 0
def saturates (l : List Nat) (r : Nat → FRes) : Bool := l.any fun e => (r e).sat

/-- R51, R69: what VFLAGS and VSTAT hold after results `r` of the elements `l`. -/
def Flagged (s t : State) (l : List Nat) (r : Nat → FRes) : Prop :=
  t.hart.csr.vflags = s.hart.csr.vflags ||| (flagsOf l r).zeroExtend 64 ∧
  t.hart.csr.vstat = if saturates l r then s.hart.csr.vstat ||| 2 else s.hart.csr.vstat

/-- R37, R39: the register has the tag and its bit of VDIRTY is set. -/
def Tagged (t : State) (r : Nat) (tag : VTag) : Prop := t.vtag r = tag ∧ t.hart.csr.vdirty.getLsbD r = true

/-- What a vector instruction may change in the control registers besides RETIRED: VSTART, VDIRTY, VFLAGS and VSTAT. -/
def vectorCsrs : List (BitVec 10) := [0x001, 0x002, 0x003, 0x004]

/-- R131: an element-wise instruction completes, in every state in which `ok` holds and its operands are clean. Of the ρ
registers from `d` on, element i of register d + j takes the result of source element ρi + j where that is active, keeps its
value where it is not, and every register takes the tag. The values are those of the sources `srcs` before the instruction
where no destination is also a source of another width. -/
def Lanes (i : Instr) (u : State → VUse) (ok : State → Prop) (k d : Nat) (srcs : List Nat) (ρ : State → Nat)
    (tag : State → VTag) (n : State → Nat) (r : State → Nat → FRes) : Prop :=
  ∀ (s : State) (cv : Convoy), s.issues (u s) cv → s.spanOk → s.cleanFor ((u s).vr ++ (u s).reads) (u s).kr → ok s →
    ∃ t, exec i s = .next t ∧ Completed s t cv ∧ (∀ j < ρ s, Tagged t (d + j) (tag s)) ∧
      Frame { v := (List.range (ρ s)).map (d + ·), csr := vectorCsrs } s t ∧
      ((ρ s = 1 ∨ ∀ x ∈ srcs, x < d ∨ d + ρ s ≤ x) →
        (∀ j e, j < ρ s → e < 65536 * s.span / (elTy (tag s)).w →
          t.elem (d + j) (elTy (tag s)) e =
            if ρ s * e + j ∈ s.lanes k (n s) then (r s (ρ s * e + j)).code % 2 ^ (elTy (tag s)).bits
            else s.elem (d + j) (elTy (tag s)) e) ∧
        Flagged s t (s.lanes k (n s)) (r s))

/-- R116, R131, R321: an element-wise instruction that writes `d` traps at element `e`: TCAUSE, TVAL and TPC are written, VSTART
is `e`, the pc is TVEC, nothing has retired, and no element from `e` on has changed. -/
def StopsAt (i : Instr) (s : State) (cause : Nat) (tval : Word) (d : Nat) (ty : ElTy) (e : Nat) : Prop :=
  ∃ t, exec i s = .next t ∧ t.hart.csr.tcause = BitVec.ofNat 64 cause ∧ t.hart.csr.tval = tval ∧
    t.hart.csr.tpc = s.hart.pc &&& ~~~3 ∧ t.hart.csr.vstart = BitVec.ofNat 64 e ∧ t.hart.pc = s.hart.csr.tvec ∧
    t.hart.csr.retired = s.hart.csr.retired ∧ t.hart.tact = true ∧
    (∀ x, e ≤ x → x < 65536 * s.span / ty.w → t.elem d ty x = s.elem d ty x) ∧
    Frame { v := [d], csr := vectorCsrs ++ [0x100, 0x101, 0x102, 0x105], place := true, mq := true } s t

/-! ### Element arithmetic -/

/-- R87: the last source at element `e`: the element of a register, the low bits of a scalar, or the immediate. -/
def VSrc.at (x : VSrc) (s : State) (ty : ElTy) (e : Nat) : Nat :=
  match x with
  | .vec b => s.elem b.toNat ty e
  | .sca b => (s.rs b).toNat % 2 ^ ty.w
  | .imm i => wrapTo ty.w i.toInt

/-- R139: element arithmetic on va, of TYPE T, and the last source, of TYPE U (T where it is no vector): `f` gives the result
from the rounding mode, T, U and the two elements. -/
def Arith (i : Instr) (c : Bool) (cls : PipeClass) (k : BitVec 3) (x : VSrc) (a d : BitVec 5)
    (legal : Nat → Option Nat → Bool) (f : Nat → Nat → Nat → Nat → Nat → FRes) : Prop :=
  Lanes i (fun _ => useOf c cls k a d x)
    (fun s => s.legalTypes (a.toNat :: x.regs) ∧ s.noScale (a.toNat :: x.regs) ∧
      legal (s.vtype a.toNat) (x.type s) = true ∧ x.fits (s.vtype a.toNat) = true)
    k.toNat d.toNat [] (fun _ => 1) (fun s => typeTag (s.vtype a.toNat)) (fun s => s.nOf (typeWidth (s.vtype a.toNat)))
    (fun s e =>
      let t := s.vtype a.toNat
      let u := (x.type s).getD t
      f s.rm t u (s.elem a.toNat (plain t) e) (x.at s (plain u) e))

/-- R65, R86, R87, R119: element arithmetic traps SCALE with the first operand that has a scale, then TYPE_MISMATCH with the TYPE
codes of the sources where `legal` refuses them or an immediate has no integer T. VSTART stays. -/
def ArithTraps (i : Instr) (c : Bool) (cls : PipeClass) (k : BitVec 3) (x : VSrc) (a d : BitVec 5)
    (legal : Nat → Option Nat → Bool) : Prop :=
  ∀ (s : State) (cv : Convoy),
    let t0 := s.vtype a.toNat
    let rs := a.toNat :: x.regs
    s.issues (useOf c cls k a d x) cv → s.hart.tact = false → s.legalTypes rs →
    (∀ r, rs.find? (fun r => VTag.sc (s.vtag r)) = some r →
      TrapsKeeping i s 0x17 (BitVec.ofNat 64 r) (BitVec.ofNat 64 s.vstart)) ∧
    (s.noScale rs → (legal t0 (x.type s) = false ∨ x.fits t0 = false) →
      TrapsKeeping i s 0x0B (BitVec.ofNat 64 (t0 + (x.type s).getD 0 * 2 ^ 8)) (BitVec.ofNat 64 s.vstart))

/-- R51: an integer result, wrapped; no flag and no saturation. -/
def wrapped (t : Nat) (z : Int) : FRes := ⟨wrapTo (typeWidth t) z, 0, false⟩
/-- A result of bits; no flag and no saturation. -/
def pattern (x : Nat) : FRes := ⟨x, 0, false⟩

/-- R87: both operands of one arithmetic TYPE; both integers of one width; both of one width and no planes; both of one
floating-point TYPE; a floating-point TYPE and a signed integer of its width. -/
def sameNumber (t : Nat) (u : Option Nat) : Bool := decide (1 ≤ t ∧ t ≤ 12) && u.all (· == t)
def integerPair (t : Nat) (u : Option Nat) : Bool :=
  decide (1 ≤ t ∧ t ≤ 8) && u.all fun u => decide (1 ≤ u ∧ u ≤ 8) && typeWidth u == typeWidth t
def patternPair (t : Nat) (u : Option Nat) : Bool :=
  !isPlaneType t && u.all fun u => !isPlaneType u && typeWidth u == typeWidth t
def sameFloat (t : Nat) (u : Option Nat) : Bool := decide (9 ≤ t ∧ t ≤ 12) && u.all (· == t)
def scalePair (t : Nat) (u : Option Nat) : Bool :=
  decide (9 ≤ t ∧ t ≤ 14) && u.all fun u => decide (1 ≤ u ∧ u ≤ 4) && typeWidth u == typeWidth t

/-- R139: a unary operation on T. -/
def Unary (i : Instr) (c : Bool) (cls : PipeClass) (k : BitVec 3) (a d : BitVec 5) (legal : Nat → Prop)
    (f : State → Nat → Nat → FRes) : Prop :=
  Lanes i (fun _ => { c := c, cls := some cls, vr := [a.toNat], vw := [d.toNat], kr := [k.toNat] })
    (fun s => s.legalTypes [a.toNat] ∧ s.noScale [a.toNat] ∧ legal (s.vtype a.toNat))
    k.toNat d.toNat [] (fun _ => 1) (fun s => typeTag (s.vtype a.toNat)) (fun s => s.nOf (typeWidth (s.vtype a.toNat)))
    (fun s e => f s (s.vtype a.toNat) (s.elem a.toNat (plain (s.vtype a.toNat)) e))

/-- R142: VSEL: every element from VSTART takes va where the mask is set and the last source where it is not. -/
def Selects (i : Instr) (c : Bool) (k : BitVec 3) (x : VSrc) (a d : BitVec 5) : Prop :=
  Lanes i (fun _ => useOf c .ab k a d x)
    (fun s => s.legalTypes (a.toNat :: x.regs) ∧ s.movables (a.toNat :: x.regs) ∧ (∀ b : BitVec 5, x = .vec b → s.vtype b.toNat = s.vtype a.toNat) ∧
      x.fits (s.vtype a.toNat) = true)
    0 d.toNat [] (fun _ => 1) (fun s => VTag.unsorted (s.vtag a.toNat)) (fun s => s.nOf (elTy (s.vtag a.toNat)).w)
    (fun s e => pattern (if s.active k.toNat e then s.elem a.toNat (elTy (s.vtag a.toNat)) e
      else x.at s (elTy (s.vtag a.toNat)) e))

/-- R146: the widening operations: `z` gives an integer result from the operands and the element of the pair, `g` a
floating-point one; `fma` tells that the pair is an operand. -/
def Widens (i : Instr) (c : Bool) (k : BitVec 3) (x : VSrc) (a d : BitVec 5) (fma : Bool) (z : Int → Int → Int → Int)
    (g : FVal → FVal → FVal → List FVal) : Prop :=
  let pair := if fma then [d.toNat, d.toNat + 1] else []
  Lanes i (fun _ => { c := c, cls := some .ab, vr := a.toNat :: x.regs ++ pair, vw := [d.toNat, d.toNat + 1],
                      kr := [k.toNat], sr := x.sregs })
    (fun s => s.legalTypes (a.toNat :: x.regs) ∧ s.noScale (a.toNat :: x.regs ++ pair) ∧
      s.vtype a.toNat ∈ [1, 2, 3, 5, 6, 7, 10, 11, 12] ∧ (∀ u ∈ x.type s, u = s.vtype a.toNat) ∧
      ∀ r ∈ pair, s.vtype r = wideType (s.vtype a.toNat))
    k.toNat d.toNat (a.toNat :: x.regs) (fun _ => 2) (fun s => typeTag (wideType (s.vtype a.toNat)))
    (fun s => s.nOf (typeWidth (s.vtype a.toNat)))
    (fun s e =>
      let t := s.vtype a.toNat
      let w := wideType t
      let p := s.elem a.toNat (plain t) e
      let q := x.at s (plain t) e
      let y := s.elem (d.toNat + e % 2) (plain w) (e / 2)
      if isFp t then sumRound (fmtOf w) s.rm (g ((fmtOf t).val p) ((fmtOf t).val q) ((fmtOf w).val y))
      else wrapped w (z (intOf t p) (intOf t q) (intOf w y)))

/-- R145: VADC and VSBC: `f` gives the exact result of the unsigned element operands and the carry; the mask takes whether it
left [0, 2^w). -/
def Carries (i : Instr) (c : Bool) (kc : BitVec 3) (x : VSrc) (a d : BitVec 5) (f : Int → Int → Int → Int) : Prop :=
  ∀ (s : State) (cv : Convoy),
    let t0 := s.vtype a.toNat
    let w := typeWidth t0
    let n := s.nOf w
    let exact := fun e => f (s.elem a.toNat (plain t0) e) (x.at s (plain t0) e) (if s.active kc.toNat e then 1 else 0)
    s.issues { useOf c .ab kc a d x with kw := [kc.toNat] } cv → s.spanOk →
    s.cleanFor (a.toNat :: x.regs) [kc.toNat] → s.legalTypes (a.toNat :: x.regs) → s.noScale (a.toNat :: x.regs) →
    integerPair t0 (x.type s) = true →
    ∃ t, exec i s = .next t ∧ Completed s t cv ∧ Tagged t d.toNat (typeTag t0) ∧
      (∀ e, e < 65536 * s.span / w → t.elem d.toNat (plain t0) e =
        if s.vstart ≤ e ∧ e < n then wrapTo w (exact e) else s.elem d.toNat (plain t0) e) ∧
      (∀ e < 131072, kc ≠ 0 → (t.mask kc.toNat).bits.getLsbD e =
        if e < n then (if s.vstart ≤ e then decide (exact e < 0 ∨ (2 ^ w : Nat) ≤ exact e)
          else (s.mask kc.toNat).bits.getLsbD e) else false) ∧
      Frame { v := [d.toNat], k := if kc = 0 then [] else [kc.toNat], csr := [0x001, 0x002] } s t

/-! ### Conversions -/

/-- R61, R64, R71: the exact value of element `e` of a register, and the integer it is, if its type is an integer's without a
scale. -/
def State.exactElem (s : State) (r e : Nat) : FVal × Option Int :=
  let tag := s.vtag r
  let x := s.elem r (elTy tag) e
  let v := if isInt (VTag.type tag) then intVal (intOf (VTag.type tag) x) else (fmtOf (VTag.type tag)).val x
  if isPlaneType (VTag.type tag) then (intVal (planeValue (elTy tag) x), some (planeValue (elTy tag) x))
  else if VTag.sc tag then
    (v.mul (bf16.val (s.elem (VTag.sreg tag) (plain 11) (e / (16 * 2 ^ VTag.bs tag)))), none)
  else (v, if isInt (VTag.type tag) then some (intOf (VTag.type tag) x) else none)

/-- R71: the value converted to TYPE `t`: an integer type takes an integer's bits, clamps a plane value, and rounds and clamps
any other; a floating-point type rounds. -/
def converted (t mode : Nat) (plane : Bool) (v : FVal × Option Int) : FRes :=
  match isInt t, v.2 with
  | true, some z =>
    if plane then ⟨wrapTo (typeWidth t) (max (intLo t) (min (intHi t) z)), 0, decide (z < intLo t ∨ intHi t < z)⟩
    else wrapped t z
  | true, none =>
    let r := valToRange mode (intLo t) (intHi t) v.1
    ⟨wrapTo (typeWidth t) r.1, r.2.1, r.2.2⟩
  | false, _ => valToFp (fmtOf t) mode false v.1

/-- R150: ρ FP32 registers narrowed into one: element ρi + j of vd is element i of register va + j. -/
def Packs (i : Instr) (ρ : Nat) (types : List Nat) (c y : Bool) (m : BitVec 3) (ty a d : BitVec 5) : Prop :=
  ∀ (s : State) (cv : Convoy),
    let rs := (List.range ρ).map (a.toNat + ·)
    let r := fun e => valToFp (fmtOf ty.toNat) (effMode m s.hart.csr.vrm) y (fp32.val (s.elem (a.toNat + e % ρ) (plain 10) (e / ρ)))
    let l := (List.range (ρ * s.nOf 32)).filter fun e => decide (s.vstart ≤ e / ρ)
    s.issues { c := c, cls := some .b, vr := rs, vw := [d.toNat] } cv → s.spanOk → s.cleanFor rs [] →
    (∀ x ∈ rs, s.vtype x = 10) → ty.toNat ∈ types →
    ∃ t, exec i s = .next t ∧ Completed s t cv ∧ Tagged t d.toNat (typeTag ty.toNat) ∧
      Frame { v := [d.toNat], csr := vectorCsrs } s t ∧
      ((d.toNat ≤ a.toNat ∨ a.toNat + ρ ≤ d.toNat) →
        (∀ e, e < 65536 * s.span / typeWidth ty.toNat → t.elem d.toNat (plain ty.toNat) e =
          if e ∈ l then (r e).code % 2 ^ typeWidth ty.toNat else s.elem d.toNat (plain ty.toNat) e) ∧
        Flagged s t l r)

/-! ### Masks -/

/-- R143: a compare: `rel` of the order of va and the last source, none where they are unordered, in the mask kd. -/
def Compares (i : Instr) (c : Bool) (k : BitVec 3) (x : VSrc) (a d : BitVec 5) (rel : Option Ordering → Prop)
    [DecidablePred rel] : Prop :=
  ∀ (s : State) (cv : Convoy),
    let t0 := s.vtype a.toNat
    let n := s.nOf (typeWidth t0)
    let p := fun e => s.elem a.toNat (plain t0) e
    let q := fun e => x.at s (plain t0) e
    let order := fun e => if isFp t0 then fpCompare (fmtOf t0) (p e) (q e) else some (compare (intOf t0 (p e)) (intOf t0 (q e)))
    s.issues { c := c, cls := some .ab, vr := a.toNat :: x.regs, kr := [k.toNat], kw := [d.toNat], sr := x.sregs } cv →
    s.spanOk → s.cleanFor (a.toNat :: x.regs) [k.toNat] → s.legalTypes (a.toNat :: x.regs) →
    s.noScale (a.toNat :: x.regs) → sameNumber t0 (x.type s) = true →
    ∃ t, exec i s = .next t ∧ Completed s t cv ∧
      (∀ e < 131072, d ≠ 0 → (t.mask d.toNat).bits.getLsbD e =
        if e < n then (if e ∈ s.lanes k.toNat n then decide (rel (order e)) else (s.mask d.toNat).bits.getLsbD e) else false) ∧
      t.hart.csr.vflags = s.hart.csr.vflags ||| (flagsOf (s.lanes k.toNat n) fun e =>
        ⟨0, if isFp t0 then snanFlag (fmtOf t0) (p e) (q e) else 0, false⟩).zeroExtend 64 ∧
      Frame { k := if d = 0 then [] else [d.toNat], csr := [0x001, 0x003] } s t

/-- R144: a mask operation completes; `r` gives bit e, below VL, of kd; the bits from VL on are 0. -/
def MaskWrites (i : Instr) (c : Bool) (kr : List (BitVec 5)) (sr : List (BitVec 5)) (d : BitVec 5) (r : State → Nat → Bool) :
    Prop :=
  ∀ (s : State) (cv : Convoy),
    s.issues { c := c, cls := some .ab, whole := true, kr := kr.map (·.toNat), kw := [d.toNat], sr := sr.map (·.toNat) } cv →
    s.cleanFor [] (kr.map (·.toNat)) →
    ∃ t, exec i s = .next t ∧ Completed s t cv ∧
      (∀ e < 131072, d ≠ 0 → (t.mask d.toNat).bits.getLsbD e = (decide (e < s.hart.csr.vl.toNat) && r s e)) ∧
      Frame { k := if d = 0 then [] else [d.toNat], csr := [0x001] } s t

/-- R144: a mask operation that gives a scalar. -/
def MaskReads (i : Instr) (c : Bool) (a d : BitVec 5) (r : State → Word) : Prop :=
  ∀ (s : State) (cv : Convoy),
    s.issues { c := c, cls := some .ab, whole := true, kr := [a.toNat], sw := [d.toNat] } cv → s.cleanFor [] [a.toNat] →
    ∃ t, exec i s = .next t ∧ Completed s t cv ∧ t.holds d (r s) ∧ Frame { s := [d], csr := [0x001], known := true } s t

/-! ### Whole-vector instructions -/

/-- R132: a whole-vector instruction that writes the registers `ds` completes: `val` gives the elements it writes, every other
element keeps its value, and VSTAT takes the bits `stat`. -/
def Permutes (i : Instr) (u : State → VUse) (ok : State → Prop) (ds : List Nat) (tag : State → VTag)
    (val : State → Nat → Nat → Option Nat) (stat : State → Word) : Prop :=
  ∀ (s : State) (cv : Convoy), s.issues { u s with whole := true } cv → s.spanOk →
    s.cleanFor ((u s).vr ++ (u s).reads) (u s).kr → ok s →
    ∃ t, exec i s = .next t ∧ Completed s t cv ∧ t.hart.csr.vstat = s.hart.csr.vstat ||| stat s ∧
      (∀ d ∈ ds, Tagged t d (tag s) ∧ ∀ e, e < 65536 * s.span / (elTy (tag s)).w →
        t.elem d (elTy (tag s)) e = ((val s d e).map (· % 2 ^ (elTy (tag s)).bits)).getD (s.elem d (elTy (tag s)) e)) ∧
      Frame { v := ds, csr := [0x001, 0x002, 0x004] } s t

/-- R19: the slice and the local index of an element of a register, and back. -/
def State.sliceOf (s : State) (ty : ElTy) (e : Nat) : Nat := (slotOf s.span ty.w e).1
def State.localOf (s : State) (ty : ElTy) (e : Nat) : Nat := (slotOf s.span ty.w e).2
def State.elemAt (s : State) (ty : ElTy) (slice l : Nat) : Nat := globalOf s.span ty.w slice l

/-- R151, R155: how many of the elements before `e` of its slice have their mask bit set. -/
def State.rankOf (s : State) (k : Nat) (ty : ElTy) (e : Nat) : Nat :=
  (List.range e).countP fun x => s.sliceOf ty x == s.sliceOf ty e && s.active k x

/-- A permute of va into vd in va's own tag: what R153 and R155 have in common. -/
def Slides (i : Instr) (c : Bool) (k : BitVec 3) (a d : BitVec 5) (sr : List (BitVec 5))
    (val : State → ElTy → Nat → Nat → Option Nat) : Prop :=
  Permutes i (fun _ => { c := c, cls := some .mp, cross := true, vr := [a.toNat], vw := [d.toNat], kr := [k.toNat],
                         sr := sr.map (·.toNat) })
    (fun s => s.legalTypes [a.toNat] ∧ s.movables [a.toNat]) [d.toNat] (fun s => VTag.unsorted (s.vtag a.toNat))
    (fun s _ e => val s (elTy (s.vtag a.toNat)) (s.nOf (elTy (s.vtag a.toNat)).w) e) (fun _ => 0)

/-- R147: VZIP and VUNZIP: `from_` and `dest` give, of the 2m positions of a slice of m elements, the register of the pair and
the local index that position j is read and written at. -/
def Zips (i : Instr) (c : Bool) (a d : BitVec 5) (from_ dest : Nat → Nat → Nat × Nat) : Prop :=
  ∀ (s : State) (cv : Convoy),
    let ty := elTy (s.vtag a.toNat)
    let n := s.nOf ty.w
    s.issues { c := c, cls := some .mp, cross := true, whole := true, vr := [a.toNat, a.toNat + 1],
               vw := [d.toNat, d.toNat + 1] } cv → s.spanOk → s.cleanFor [a.toNat, a.toNat + 1] [] →
    s.legalTypes [a.toNat] → s.vtype (a.toNat + 1) = s.vtype a.toNat → s.movables [a.toNat, a.toNat + 1] →
    ∃ t, exec i s = .next t ∧ Completed s t cv ∧
      (∀ x < 2, Tagged t (d.toNat + x) (VTag.unsorted (s.vtag a.toNat)) ∧
        ∀ e, n ≤ e → e < 65536 * s.span / ty.w → t.elem (d.toNat + x) ty e = s.elem (d.toNat + x) ty e) ∧
      (∀ c < s.span, let m := (List.range n).countP fun e => s.sliceOf ty e == c
        ∀ j < 2 * m, t.elem (d.toNat + (dest m j).1) ty (s.elemAt ty c (dest m j).2) =
          s.elem (a.toNat + (from_ m j).1) ty (s.elemAt ty c (from_ m j).2)) ∧
      Frame { v := [d.toNat, d.toNat + 1], csr := [0x001, 0x002] } s t

/-! ### Reductions -/

/-- R157: the active elements below n and their values. -/
def State.activeOf (s : State) (r k : Nat) (ty : ElTy) (n : Nat) : List (Nat × Nat) :=
  ((List.range n).filter fun e => s.active k e).map fun e => (e, s.elem r ty e)

/-- R132, R157: a reduction completes: `f` gives the scalar and the flags from the rounding mode, the TYPE, the active elements
and n. -/
def Reduces (i : Instr) (c : Bool) (k : BitVec 3) (a d : BitVec 5) (legal : Nat → Prop)
    (f : Nat → Nat → List (Nat × Nat) → Nat → Word × FpFlags) : Prop :=
  ∀ (s : State) (cv : Convoy),
    let ty := s.vtype a.toNat
    let n := s.nOf (typeWidth ty)
    let r := f s.rm ty (s.activeOf a.toNat k.toNat (plain ty) n) n
    s.issues { c := c, cls := some .b, cross := true, whole := true, vr := [a.toNat], kr := [k.toNat], sw := [d.toNat] } cv →
    s.cleanFor [a.toNat] [k.toNat] → s.legalTypes [a.toNat] → s.noScale [a.toNat] → legal ty →
    ∃ t, exec i s = .next t ∧ Completed s t cv ∧ t.holds d r.1 ∧
      t.hart.csr.vflags = s.hart.csr.vflags ||| r.2.zeroExtend 64 ∧ Frame { s := [d], csr := [0x001, 0x003], known := true } s t

end Sys2Proof.Machine
end

