-- ==== Sys2Proof/MemoryClaims.lean ====
section
/-!
DEFINITION. The terms of the statements about vector memory instructions, sorted runs, tiles and ranked lists.
-/
namespace Sys2Proof.Machine

/-! ### Vector memory (R216-R221) -/

/-- R216, R217: the storage of this package that the `n` bytes at `a` are, reached through token `q` by core `core`: none where
the address is misaligned, outside the token's window, not writable for a store, or memory of another module. -/
def State.keyAt (s : State) (core : Nat) (q : BitVec 3) (a : Word) (n : Nat) (store : Bool) : Option Nat :=
  if a.toNat % n = 0 then
    match tokenSite s core q a n store false with
    | .ok (.key k) => some k
    | _ => none
  else none

/-- R218: the place of element `e` of a strided access: its key and nibble. -/
def State.strided (s : State) (q : BitVec 3) (a b : BitVec 5) (w : Nat) (store : Bool) (e : Nat) : Option (Nat × Nat) :=
  (s.keyAt (s.coreOf w e) q
    (s.rs a + (if w = 4 then BitVec.ofNat 64 (e / 2) else BitVec.ofNat 64 e * (if b = 0 then BitVec.ofNat 64 (w / 8) else s.rs b)))
    (elemBytes w) store).map fun k => (k, if w = 4 then e % 2 else 0)

/-- R219: the place of element `e` of an indexed access. -/
def State.indexed (s : State) (q : BitVec 3) (a b : BitVec 5) (w : Nat) (store : Bool) (e : Nat) : Option (Nat × Nat) :=
  (s.keyAt (s.coreOf w e) q (s.rs a + BitVec.ofNat 64 (s.elem b.toNat (plain (s.vtype b.toNat)) e)) (elemBytes w) store).map
    fun k => (k, 0)

/-- R221: the place of element `e` in lane memory. -/
def State.inLane (s : State) (a b : BitVec 5) (w e : Nat) : Option (Nat × Nat) :=
  let o := (s.rs a + BitVec.ofNat 64 (s.elem b.toNat (plain (s.vtype b.toNat)) e)).toNat
  if o % (w / 8) = 0 ∧ o + w / 8 ≤ 0x8000 then some (coreKey (s.coreOf w e) (0x1000000 + e % 32 * 0x8000 + o), 0) else none

/-- The value of an element of `w` bits at a place. -/
def valueAt (m : List Host.Cell) (w : Nat) (p : Nat × Nat) : Nat := takeElement w p.2 (readLE m p.1 (elemBytes w))

/-- Two elements of `w` bits share no bit of storage. -/
def placesApart (w : Nat) (p q : Nat × Nat) : Prop :=
  p.1 + elemBytes w ≤ q.1 ∨ q.1 + elemBytes w ≤ p.1 ∨ (w = 4 ∧ p.2 ≠ q.2)

/-- R217: a vector load completes where every active element has a clean place: vd takes the elements in its own TYPE, and
nothing of memory changes. -/
def VectorLoads (i : Instr) (u : VUse) (ok : State → Prop) (k d : Nat) (n : State → Nat)
    (place : State → Nat → Nat → Option (Nat × Nat)) : Prop :=
  ∀ (s : State) (cv : Convoy),
    let ty := elTy (s.vtag d)
    s.issues u cv → s.spanOk → s.cleanFor u.vr u.kr → s.settled → ok s →
    (∀ e ∈ s.lanes k (n s), ∃ p, place s ty.w e = some p ∧ poisoned s p.1 (elemBytes ty.w) = false) →
    ∃ t, exec i s = .next t ∧ Completed s t cv ∧ Tagged t d (VTag.unsorted (s.vtag d)) ∧
      (∀ e, e < 65536 * s.span / ty.w → t.elem d ty e =
        if e ∈ s.lanes k (n s) then valueAt s.mem ty.w ((place s ty.w e).getD (0, 0)) else s.elem d ty e) ∧
      Frame { v := [d], csr := [0x001, 0x002] } s t

/-- R217: a vector store completes where every active element has a writable place: each place holds the element, unless a later
element was stored over it, and no other byte changes. -/
def VectorStores (i : Instr) (u : VUse) (ok : State → Prop) (k r : Nat) (n : State → Nat)
    (place : State → Nat → Nat → Option (Nat × Nat)) : Prop :=
  ∀ (s : State) (cv : Convoy),
    let ty := elTy (s.vtag r)
    let l := s.lanes k (n s)
    s.issues u cv → s.spanOk → s.cleanFor u.vr u.kr → s.settled → s.memoryOk → ok s →
    (∀ e ∈ l, ∃ p, place s ty.w e = some p ∧ plainKey p.1 (elemBytes ty.w)) →
    ∃ t, exec i s = .next t ∧ Completed s t cv ∧
      (∀ e ∈ l, ∀ p, place s ty.w e = some p →
        (∀ e' ∈ l, e < e' → ∀ p', place s ty.w e' = some p' → placesApart ty.w p p') →
        valueAt t.mem ty.w p = s.elem r ty e) ∧
      Frame { csr := [0x001], access := true,
              mem := fun x => ∃ e ∈ l, ∃ p, place s ty.w e = some p ∧ p.1 ≤ x ∧ x < p.1 + elemBytes ty.w } s t

/-- R220: a vector atomic completes: where no two active elements share storage, vd takes the old words and memory holds what
`f` gives; no other byte changes. -/
def VectorAtomics (i : Instr) (c : Bool) (q k : BitVec 3) (b a d : BitVec 5)
    (f : (w : Nat) → BitVec w → BitVec w → BitVec w) : Prop :=
  ∀ (s : State) (cv : Convoy),
    let ty := elTy (s.vtag d.toNat)
    let n := s.nOf (max ty.w (typeWidth (s.vtype b.toNat)))
    let l := s.lanes k.toNat n
    let place := s.indexed q a b ty.w true
    s.issues { c := c, cls := some .ls, vr := [d.toNat, b.toNat], vw := [d.toNat], kr := [k.toNat], sr := [a.toNat] } cv →
    s.spanOk → s.cleanFor [d.toNat, b.toNat] [k.toNat] → s.settled → s.memoryOk →
    s.vtype d.toNat ∈ [3, 4, 7, 8] → isUnsigned (s.vtype b.toNat) = true →
    (∀ e ∈ l, ∃ p, place e = some p ∧ plainKey p.1 (ty.w / 8) ∧ poisoned s p.1 (ty.w / 8) = false) →
    ∃ t, exec i s = .next t ∧ Completed s t cv ∧ Tagged t d.toNat (VTag.unsorted (s.vtag d.toNat)) ∧
      ((∀ e ∈ l, ∀ e' ∈ l, e ≠ e' → ∀ p p', place e = some p → place e' = some p' → placesApart ty.w p p') →
        (∀ e, e < 65536 * s.span / ty.w → t.elem d.toNat ty e =
          if e ∈ l then readLE s.mem ((place e).getD (0, 0)).1 (ty.w / 8) else s.elem d.toNat ty e) ∧
        ∀ e ∈ l, ∀ p, place e = some p → readLE t.mem p.1 (ty.w / 8) =
          (f ty.w (BitVec.ofNat ty.w (readLE s.mem p.1 (ty.w / 8))) (BitVec.ofNat ty.w (s.elem d.toNat ty e))).toNat) ∧
      Frame { v := [d.toNat], csr := [0x001, 0x002], access := true,
              mem := fun x => ∃ e ∈ l, ∃ p, place e = some p ∧ p.1 ≤ x ∧ x < p.1 + ty.w / 8 } s t

/-! ### Sorted runs (R164-R175) -/

/-- R164: the elements below `m` of register `r`, each with its payload where `pay`. -/
def State.itemsOf (s : State) (r : Nat) (pay fromA : Bool) (m : Nat) : List Item :=
  (List.range m).map fun i =>
    ⟨s.elem r (plain (s.vtype r)) i, if pay then s.elem (r + 1) (rawTy (s.vtag (r + 1))) i else 0, fromA⟩

/-- R164, R167: a sorted-run instruction completes on a hart that spans one core: vd takes the items `f` gives, zeros up to n,
and a sorted tag; its partner takes their payloads where `pays` is not empty; `sw` takes the count. `keyed` are the operands,
those of `runs` with S = 1 and tags that agree. -/
def SortedWrites (i : Instr) (c : Bool) (keyed runs : List Nat) (pays : State → List Nat) (carries : State → Bool) (d : BitVec 5)
    (sw : List (BitVec 5)) (f : State → Nat → Bool × List Item × Nat) : Prop :=
  ∀ (s : State) (cv : Convoy),
    let t0 := s.vtype (keyed.headD 0)
    let ptag := s.vtag ((pays s).headD 0)
    let n := if carries s then s.nOf (max (typeWidth t0) (elTy ptag).w) else s.nOf (typeWidth t0)
    let r := f s n
    let m := r.2.1.length
    s.issues { c := c, cls := some .mp, cross := true, whole := true, vr := keyed ++ pays s,
               vw := if carries s = true ∧ d.toNat % 2 = 0 then [d.toNat, d.toNat + 1] else [d.toNat],
               sw := sw.map (·.toNat) } cv →
    s.spanOk → s.span = 1 → s.cleanFor (keyed ++ pays s) [] → s.noScale keyed → isSortable t0 = true →
    (∀ x ∈ keyed, s.vtype x = t0) → s.legalTypes (pays s) → (∀ x ∈ pays s, s.vtype x = VTag.type ptag) →
    (∀ x ∈ runs, VTag.s (s.vtag x) = true ∧ VTag.dir (s.vtag x) = VTag.dir (s.vtag (runs.headD 0)) ∧
      VTag.pay (s.vtag x) = VTag.pay (s.vtag (runs.headD 0))) → (carries s = true → d.toNat % 2 = 0) →
    ∃ t, exec i s = .next t ∧ Completed s t cv ∧ m ≤ n ∧
      Tagged t d.toNat (sortedTag (typeTag t0) r.1 (carries s) (isStrict (r.2.1.map (·.key))) m) ∧
      (∀ e, e < 65536 / typeWidth t0 → t.elem d.toNat (plain t0) e =
        if e < m then ((r.2.1.map (·.key)).getD e 0) % 2 ^ typeWidth t0
        else if e < n then 0 else s.elem d.toNat (plain t0) e) ∧
      (carries s = true → Tagged t (d.toNat + 1) (VTag.unsorted ptag) ∧
        ∀ e, e < 65536 / (elTy ptag).w → t.elem (d.toNat + 1) (elTy ptag) e =
          if e < m then ((r.2.1.map (·.pay)).getD e 0) % 2 ^ (elTy ptag).bits
          else if e < n then 0 else s.elem (d.toNat + 1) (elTy ptag) e) ∧
      (∀ x ∈ sw, t.holds x (BitVec.ofNat 64 r.2.2)) ∧
      Frame { s := sw, v := if carries s then [d.toNat, d.toNat + 1] else [d.toNat], csr := [0x001, 0x002], known := !sw.isEmpty } s t

/-- R173: the items of `xs` whose key occurs in `ys` more often than among the items before them. -/
def matchedItems (xs : List Item) (ys : List Nat) : List Item :=
  (xs.zipIdx.filter fun p => decide ((xs.take p.2).countP (fun x => x.key == p.1.key) < ys.count p.1.key)).map (·.1)

/-- R173: the items whose key differs from that of the item before them. -/
def firstItems (xs : List Item) : List Item :=
  (xs.zipIdx.filter fun p => p.2 == 0 || ((xs.map (·.key)).getD (p.2 - 1) 0 != p.1.key)).map (·.1)

/-- R170: `p` is the length of the longest prefix of the keys that is in order. -/
def LongestOrdered (t : Nat) (dir : Bool) (keys : List Nat) (p : Nat) : Prop :=
  p ≤ keys.length ∧ (0 < keys.length → 0 < p) ∧
  (∀ i, i + 1 < p → isAhead t dir (keys.getD (i + 1) 0) (keys.getD i 0) = false) ∧
  (p < keys.length → isAhead t dir (keys.getD p 0) (keys.getD (p - 1) 0) = true)

/-- R165, R174: for each probe of vb, the number of elements of the run va that `f` counts, as UINT32. -/
def Ranks (i : Instr) (c : Bool) (b a d : BitVec 5) (f : Nat → Bool → Nat → Nat → Bool) : Prop :=
  ∀ (s : State) (cv : Convoy),
    let t0 := s.vtype a.toNat
    let keys := (List.range (min (VTag.len (s.vtag a.toNat)) (s.nOf (typeWidth t0)))).map (s.elem a.toNat (plain t0))
    let np := s.nOf (max (typeWidth t0) 32)
    s.issues { c := c, cls := some .mp, cross := true, whole := true, vr := [a.toNat, b.toNat], vw := [d.toNat] } cv →
    s.spanOk → s.span = 1 → s.cleanFor [a.toNat, b.toNat] [] → s.noScale [a.toNat, b.toNat] → isSortable t0 = true →
    s.vtype b.toNat = t0 → VTag.s (s.vtag a.toNat) = true → (VTag.pay (s.vtag a.toNat) = true → d.toNat % 2 = 0) →
    ∃ t, exec i s = .next t ∧ Completed s t cv ∧ Tagged t d.toNat (typeTag 7) ∧
      (∀ e, e < 65536 / 32 → t.elem d.toNat (plain 7) e =
        if e < np then keys.countP fun x => f t0 (VTag.dir (s.vtag a.toNat)) x (s.elem b.toNat (plain t0) e)
        else s.elem d.toNat (plain 7) e) ∧
      Frame { v := [d.toNat], csr := [0x001, 0x002] } s t

/-! ### Tiles (R192-R207) -/

/-- The value of element `e` of an operand of an outer product: exact, and as the integer it is; with its scale where
`scaled`. -/
def State.factorAt (s : State) (r e : Nat) (scaled : Bool) : FVal × Int :=
  let tag := s.vtag r
  let x := s.elem r (elTy tag) e
  let z := if isPlaneType (VTag.type tag) then planeValue (elTy tag) x else if isInt (VTag.type tag) then intOf (VTag.type tag) x
    else 0
  let v := if isFloat (VTag.type tag) then (fmtOf (VTag.type tag)).val x else intVal z
  if scaled && VTag.sc tag then
    (v.mul (bf16.val (s.elem (VTag.sreg tag) (plain 11) (e / (16 * 2 ^ VTag.bs tag)))), z)
  else (v, z)

/-- R198: the pairs of operand elements that meet at (i, j): element i·r + d of va and j·r + d of vb, both below n. -/
def State.pairsAt (s : State) (a b r n : Nat) (scaled : Bool) (i j : Nat) : List ((FVal × Int) × (FVal × Int)) :=
  ((List.range r).filter fun d => decide (i * r + d < n ∧ j * r + d < n)).map fun d =>
    (s.factorAt a (i * r + d) scaled, s.factorAt b (j * r + d) scaled)

/-- R198: the tile after an outer product of depth `r` over `n` elements: every element of an active row that pairs meet at
takes its sum with their products, rounded once or wrapped, and OVF is sticky. -/
def ProductOf (s t : State) (z : BitVec 3) (k a b r n : Nat) (kind : TileKind) (scaled : Bool) : Prop :=
  let old := s.tile z
  let new := t.tile z
  let res := fun (i j : Nat) =>
    if kind = .int then intUpdate (old.elem i j) ((s.pairsAt a b r n scaled i j).map fun (x, y) => x.2 * y.2)
    else fpUpdate (old.elem i j) ((s.pairsAt a b r n scaled i j).map fun (x, y) => x.1.mul y.1)
  let on := fun i j => s.active k i = true ∧ i * r < n ∧ j * r < n
  new.ranked = old.ranked ∧ new.kind = kind ∧ new.poison = old.poison ∧ new.cfg = old.cfg ∧ new.lists = old.lists ∧
  (∀ i j, i < 128 → j < 128 → (on i j → new.elem i j = (res i j).1 % 2 ^ 80) ∧ (¬ on i j → new.elem i j = old.elem i j)) ∧
  (new.ovf = true ↔ old.ovf = true ∨ ∃ i j, i < 128 ∧ j < 128 ∧ on i j ∧ (res i j).2 = true)

/-- R193: the operation on tile `z` has entered the matrix queue under the next sequence number. -/
def Queued (s t : State) (z : BitVec 3) : Prop :=
  t.hart.mq.getLast? = some (z.toNat, s.hart.mqSeq.toNat) ∧ t.hart.mqSeq = s.hart.mqSeq + 1

/-- R194: no operation in flight owns the tile. -/
def State.tileIdle (s : State) (z : BitVec 3) : Prop := ∀ e ∈ s.hart.mq, e.1 ≠ z.toNat

/-- R192: the element of line `line` at place `x`: of a row, or of a column in the transposed form. -/
def lineElem (t : Tile) (col : Bool) (line x : Nat) : Nat := if col then t.elem x line else t.elem line x
def lineBad (t : Tile) (col : Bool) (line x : Nat) : Bool := if col then t.bad x line else t.bad line x
def lineVal (t : Tile) (col : Bool) (line x : Nat) : FVal := if col then t.val x line else t.val line x

/-- R227: the state of the unit of coordinates `x` as the relayout's table holds it, where the table is mapped to storage of this
package and its page has been read before. -/
def State.unitAt (s : State) (r : Handle) (x : List Nat) : Option Nat :=
  let u := unitOf r.extents x
  match deviceSite s s.hart.home s.hart.asid s.hart.user .load (tableWordAddr r u) 8 with
  | some (.key k, t) => if t = s then some (bits (loadWord s k) (2 * (u % 32)) 2) else none
  | _ => none

/-- R225, R227: the place in memory of coordinates `x` of a handle, for core `core`: in the new region under TOK, and while a relayout
is under way, for a read of an element whose unit is not NEW, in the old one under OTOK. A write there waits, and has none. -/
def State.tensorAt (s : State) (r : Handle) (core : Nat) (x : List Nat) (store : Bool) : Option (Nat × Nat) :=
  let w := typeWidth r.etype
  let place := fun (q : BitVec 3) (a : Word × Nat) => (s.keyAt core q a.1 (elemBytes w) store).map fun k => (k, a.2)
  let new := place r.tok (elementAddress r.base w (layoutOffset r.layout r.extents x))
  if r.rly then
    match s.unitAt r x with
    | some 2 => new
    | some _ => if store then none else place r.otok (elementAddress r.oldBase w (layoutOffset r.oldLayout r.extents x))
    | none => none
  else new

/-- R227: while the elements `l` are stored at their places, the table of a relayout keeps its states: it lies in the window, apart
from them. -/
def State.tableStays (s : State) (r : Handle) (coords : Nat → List Nat) (l : List Nat) (place : Nat → Option (Nat × Nat)) : Prop :=
  r.rly = true → ∀ e ∈ l,
    let a := tableWordAddr r (unitOf r.extents (coords e))
    inWindow a = true ∧ ∀ k t, deviceSite s s.hart.home s.hart.asid s.hart.user .load a 8 = some (.key k, t) →
      ∀ e' ∈ l, ∀ p, place e' = some p → p.1 + elemBytes (typeWidth r.etype) ≤ k ∨ k + 8 ≤ p.1

/-- R207: the place in memory of the block's element (i, j), where it lies within the extents. -/
def State.blockAt (s : State) (k : TileBlock) (store : Bool) (i j : Nat) : Option (Nat × Nat) :=
  s.tensorAt k.handle s.hart.home (k.coords i j) store

/-! ### Ranked lists (R176-R188) -/

/-- R176, R177, R179: a tile in ranked mode under configuration `c`: the word is well formed, there is a header for each list,
and no list is longer than K. -/
structure Tile.rankedAs (t : Tile) (c : RankedConfig) : Prop where
  ranked : t.ranked = true
  cfg : t.cfg = some c
  word : rankedWordOk c.word = true
  lists : t.lists.length = c.lists
  fits : ∀ h ∈ t.lists, h.len ≤ c.k

/-- R176, R177: a list of the tile. -/
def State.listOf (s : State) (z : BitVec 3) (c : RankedConfig) (l : Nat) : RankedList := (s.tile z).list c l

/-- R177, R181: the rank of the threshold of a full list. -/
def thresholdRank (c : RankedConfig) (x : RankedList) : Option Nat :=
  if x.entries.length = c.k then x.entries.getLast?.map fun y => rankKey c.smallest y.okey else none

/-- R181: the shared word after the list `x` has become `y`: a threshold that improves is published as a maximum. -/
def sharedAfter (c : RankedConfig) (x y : RankedList) (shared : Nat) : Nat :=
  match thresholdRank c x, thresholdRank c y with
  | none, some n => if c.sh then max shared n else shared
  | some o, some n => if c.sh = true ∧ o < n then max shared n else shared
  | _, none => shared

/-- R180, R181: a pair pushed: SUMALL takes the key, and the entry takes its place by rank among the best K unless the threshold
of the full list, or the shared one, ranks before it. -/
def pushedPair (c : RankedConfig) (origin : Nat) (x : RankedList) (shared key index : Nat) : RankedList × Nat :=
  let h := addSum x.head c.kt (keyValue c.kt key) (keyInt c.kt key)
  let e : Entry := ⟨okeyOf c.kt key, index, true, origin, false⟩
  let es := (insertEntry c.smallest e x.entries).take c.k
  let y : RankedList := ⟨{ h with len := es.length }, es⟩
  if rankKey c.smallest e.okey < max ((thresholdRank c x).getD 0) (shared % 2 ^ 32) then (⟨h, x.entries⟩, shared)
  else (y, sharedAfter c x y shared)

/-- R181: the shared word of a configuration can be read and published at storage key `key`. -/
structure State.sharedAt (s : State) (c : RankedConfig) (key : Nat) : Prop where
  site : c.site = .key key
  token : tokenCovers (s.hart.token c.token) c.token c.saddr 8 = true ∧ (s.hart.token c.token).w = true
  clean : poisoned s key 8 = false ∧ plainKey key 8
  quiet : s.settled ∧ s.memoryOk

/-- R180, R181: ZRPUSH and ZRPUSH.L: each list takes the pairs pushed to it, in element order, and the shared word, where SH = 1,
the thresholds that improve; a list number that the tile does not have sets VSTAT.GOUT. -/
def Pushes (i : Instr) (c : Bool) (k : BitVec 3) (b : Option (BitVec 5)) (a : BitVec 5) (z : BitVec 3) : Prop :=
  ∀ (s : State) (cv : Convoy) (cfg : RankedConfig) (key : Nat),
    let rs := [a.toNat, a.toNat + 1] ++ (b.map (·.toNat)).toList
    let list := fun e => match b with
      | some b => s.elem b.toNat (plain (s.vtype b.toNat)) e
      | none => s.hart.csr.zlist.toNat
    let l := s.lanes k.toNat (s.nOf 32)
    let pushed := l.foldl (fun (x : (Nat → RankedList) × Nat) e =>
      if list e < cfg.lists then
        let y := pushedPair cfg (bits s.hart.csr.hartid 0 11) (x.1 (list e)) x.2
          (s.elem a.toNat (plain (keyType cfg.kt)) e) (s.elem (a.toNat + 1) (plain 7) e)
        (fun n => if n = list e then y.1 else x.1 n, y.2)
      else x) (s.listOf z cfg, if cfg.sh then (loadWord s key).toNat else 0)
    s.issues { c := c, cls := some .mp, vr := rs, kr := [k.toNat], zs := [z.toNat] } cv → s.spanOk → s.cleanFor rs [k.toNat] →
    s.noScale rs → (s.tile z).rankedAs cfg → (cfg.sh = true → s.sharedAt cfg key) → s.vtype a.toNat = keyType cfg.kt →
    s.vtype (a.toNat + 1) ∈ [3, 7] → (∀ x ∈ b, s.vtype x.toNat ∈ [5, 6, 7]) → (b = none → s.hart.csr.zlist.toNat < cfg.lists) →
    ∃ t, exec i s = .next t ∧ Completed s t cv ∧ Queued s t z ∧ (t.tile z).rankedAs cfg ∧
      (∀ n < cfg.lists, t.listOf z cfg n = pushed.1 n) ∧ (cfg.sh = true → loadWord t key = BitVec.ofNat 64 pushed.2) ∧
      t.hart.csr.vstat = (if l.any fun e => decide (cfg.lists ≤ list e) then s.hart.csr.vstat ||| 8 else s.hart.csr.vstat) ∧
      Frame { z := [z.toNat], csr := [0x001, 0x004], access := cfg.sh,
              mem := fun x => cfg.sh = true ∧ key ≤ x ∧ x < key + 8 } s t

/-- The words of eight bytes at the keys that lie from `a` on through token `q`. -/
def State.wordsAt (s : State) (q : BitVec 3) (a : Word) (n : Nat) (keys : List Nat) (store : Bool) : Prop :=
  keys.length = n ∧ ∀ j < n, s.keyAt s.hart.home q (a + BitVec.ofNat 64 (8 * j)) 8 store = some (keys.getD j 0)

/-! ### Tensor handles (R222-R228) -/

/-- Words of eight bytes at the keys share no byte and lie in no mailbox. -/
def wordsApart (keys : List Nat) : Prop :=
  keys.Pairwise (fun x y => x + 8 ≤ y ∨ y + 8 ≤ x) ∧ ∀ y ∈ keys, plainKey y 8
/-- Byte `x` lies in one of the words. -/
def inWords (keys : List Nat) (x : Nat) : Prop := ∃ y ∈ keys, y ≤ x ∧ x < y + 8

/-- R224, R225: handle `h` is valid, its rank of scalar registers from `b` on exists, and register `d` has
its element type. -/
structure State.tensorFits (s : State) (h : BitVec 4) (b d : BitVec 5) (r : Handle) : Prop where
  valid : s.handle h = some r
  origin : b.toNat + r.rank ≤ 32
  type : s.vtype d.toNat = r.etype ∧ 1 ≤ r.etype ∧ r.etype ≤ 15

/-- R226: the addresses of TRELAYOUT pass their checks: the table and the count are aligned, and the old region, the new one,
the table and the count lie in their windows. -/
structure State.relayoutFits (s : State) (r : Handle) (q : BitVec 3) (a b : BitVec 5) : Prop where
  aligned : r.tstab.toNat % 8 = 0 ∧ r.ccnt.toNat % 8 = 0
  oldRegion : tokenCovers (s.hart.token r.tok) r.tok r.base (regionBytes r r.layout) = true
  newRegion : tokenCovers (s.hart.token q) q (s.rs a) (regionBytes r (layoutOf (s.rs b))) = true
  table : tokenCovers (s.hart.token q) q r.tstab (tableBytes r) = true
  count : r.ccnt ≠ 0 → tokenCovers (s.hart.token q) q r.ccnt 8 = true
  writable : (s.hart.token q).w = true

/-! ### Probe tokens (R213-R215) -/

/-- R215: a stream of the hart reaches memory through token `q`. -/
def State.streamsThrough (s : State) (q : BitVec 3) (f : Stream) : Prop :=
  (∃ i : Fin 8, s.hart.f[i] = some f) ∧ streamUses s.hart f q = true

/-- R214: what VPROBE finds when it begins to walk: earlier matrix operations have completed and the token is dead. -/
def State.beforeProbe (s : State) (q : BitVec 3) : State :=
  setHart s { s.hart with mq := [], q := s.hart.q.set q.toNat .dead }

/-- R214: VPROBE reaches its walk: the range is not empty and is one that may be probed, no engine transfer is in flight and no
stream uses the token. -/
structure State.probes (s : State) (b a : BitVec 5) (q : BitVec 3) : Prop where
  scalars : s.unpoisoned [a, b]
  idle : s.settled
  unused : ∀ f, ¬ s.streamsThrough q f
  some_ : s.rs b ≠ 0
  range : probeRangeBad (s.rs a) (s.rs b) = false

/-! ### Routing (R189) -/

/-- R189: the tokens in order, each with the first of its choices whose counter is below its capacity and the slot it takes
there; and the counters after them. -/
def routeTokens (cap : Nat → Nat) (choices : Nat → List Nat) : List Nat → (Nat → Nat) → List (Nat × Option (Nat × Nat)) × (Nat → Nat)
  | [], used => ([], used)
  | e :: r, used =>
    match (choices e).find? fun x => decide (used x < cap x) with
    | some x =>
      let rest := routeTokens cap choices r fun y => if y = x then used y + 1 else used y
      ((e, some (x, used x)) :: rest.1, rest.2)
    | none =>
      let rest := routeTokens cap choices r used
      ((e, none) :: rest.1, rest.2)

/-! ### The Atoll (R235, R236) -/

/-- The keys of the ids of four bytes that lie from `a` on through token `q`. -/
def State.idsAt (s : State) (q : BitVec 3) (a : Word) (keys : List Nat) (store : Bool) : Prop :=
  ∀ j < keys.length, tokenSite s s.hart.home q (a + BitVec.ofNat 64 (4 * j)) 4 store false = .ok (.key (keys.getD j 0))

/-- R235: a prefix instruction passes its checks: the parameter word, the TYPE of va, the address of its buffer of as many ids as
`keys`; and nothing of the hart is under way. -/
structure State.prefixFits (s : State) (o : PrefixOp) (q : BitVec 3) (b a d : BitVec 5) (keys : List Nat) (cv : Convoy) : Prop
    where
  issue : s.issues { whole := true, vr := [a.toNat], sr := [b.toNat, b.toNat + 1], sw := [d.toNat] } cv
  span : s.spanOk
  clean : s.cleanFor [a.toNat] []
  params : b.toNat < 31 ∧ prefixWordOk (s.rs (b + 1)) o (s.nOf 32) = true
  type : s.vtype a.toNat = 3
  count : keys.length = o.ids (s.nOf 32) (bits (s.rs (b + 1)) 32 16)
  align : (s.rs b).toNat % 4 = 0
  window : keys = [] ∨ tokenCovers (s.hart.token q) q (s.rs b) (4 * keys.length) = true
  buffer : s.idsAt q (s.rs b) keys o.writes
  apart : keys.Pairwise (fun x y => x + 4 ≤ y ∨ y + 4 ≤ x) ∧ ∀ y ∈ keys, plainKey y 4
  quiet : s.quiet 6 ∧ s.memoryOk ∧ s.linesOfMain s.hart.home

/-- R236: the nodes from the root of the tree on, each the child of the one before it. -/
def State.pathOf (s : State) (tree : Nat) (path : List AtollNode) : Prop :=
  ∀ i x, path[i]? = some x → x ∈ s.atoll ∧ x.tree = tree ∧ x.parent = if i = 0 then none else (path[i - 1]?).map (·.id)

/-- R236: the nodes reached along the token ids, and how many tokens match: every node but the last matches its 16 tokens, none
of a node's siblings matches further, and no child of a last node that matches whole matches at all. -/
structure State.reached (s : State) (tree : Nat) (ids : List (BitVec 32)) (path : List AtollNode) (m : Nat) : Prop where
  chain : s.pathOf tree path
  whole : ∀ i x, path[i]? = some x → i + 1 < path.length → commonTokens x.tokens (ids.drop (16 * i)) = 16
  some_ : ∀ i x, path[i]? = some x → 0 < commonTokens x.tokens (ids.drop (16 * i))
  furthest : ∀ i x y, path[i]? = some x → y ∈ s.atoll → y.tree = tree → y.parent = x.parent →
    commonTokens y.tokens (ids.drop (16 * i)) ≤ commonTokens x.tokens (ids.drop (16 * i))
  stops : (∀ x ∈ path.getLast?, commonTokens x.tokens (ids.drop (16 * (path.length - 1))) = 16) →
    ∀ y ∈ s.atoll, y.tree = tree → y.parent = path.getLast?.map (·.id) → commonTokens y.tokens (ids.drop (16 * path.length)) = 0
  count : m = (path.getLast?.map fun x => 16 * (path.length - 1) + commonTokens x.tokens (ids.drop (16 * (path.length - 1)))).getD 0

/-- R236: the path of the leading pages that exist, each the same 16 ids; no child of its last node holds the next page. -/
structure State.adopted (s : State) (tree : Nat) (pages : List (List (BitVec 32))) (path : List AtollNode) : Prop where
  chain : s.pathOf tree path
  same : path.map (·.tokens) = pages.take path.length
  stops : ∀ p, pages[path.length]? = some p →
    ∀ y ∈ s.atoll, y.tree = tree → y.parent = path.getLast?.map (·.id) → y.tokens ≠ p

/-- R236: the store after 1 has been added to the counts of the nodes of the path. -/
def counted (s : State) (path : List AtollNode) : List AtollNode :=
  s.atoll.map fun x => if (path.map (·.id)).contains x.id then { x with count := x.count + 1, attached := s.atollNext } else x

/-- R236: nodes of count 0 and without children have been removed one after the other. -/
structure Removed (s t : State) (gone : List AtollNode) : Prop where
  free : ∀ x ∈ gone, x ∈ s.atoll ∧ x.count = 0
  left : t.atoll = s.atoll.filter fun y => !(gone.map (·.id)).contains y.id
  childless : ∀ x ∈ gone, ∀ y ∈ t.atoll, y.parent ≠ some x.id

/-- R236: the buffer holds the page ids, where no dirty byte of the L1D lay over it. -/
def bufferHolds (s t : State) (keys : List Nat) (ids : List (BitVec 32)) : Prop :=
  ∀ j < ids.length, (∀ x, keys.getD j 0 ≤ x → x < keys.getD j 0 + 4 → ¬ s.dirtyAt s.hart.home x) →
    readLE t.mem (keys.getD j 0) 4 = (ids.getD j 0).toNat

/-! ### Parcels (R237, R238) -/

/-- Byte `x` lies in an open bay. -/
def State.inBay (s : State) (x : Nat) : Prop :=
  ∃ b ∈ s.bays, coreKey b.core b.off ≤ x ∧ x < coreKey b.core b.off + 64 + b.slots * b.slotBytes

end Sys2Proof.Machine
end

