-- ==== Sys2Proof/DeviceClaims.lean ====
section
/-!
DEFINITION. The terms of the statements about the device's own steps: events of harts and gangs, notifications, messages.
-/
namespace Sys2Proof.Machine

/-! ### A hart away from the cursor -/

/-- `u` is the state with the hart of the name under the cursor; no two harts have one name. -/
def State.standsAt (s : State) (g m : Nat) (u : State) : Prop := focus s g m = some u ∧ (s.harts.map Hart.name).Nodup

/-- The event of hart (g, m) ends in a next state, of which `p` holds with that hart under the cursor. -/
def Acts (i : Instr) (s : State) (g m : Nat) (p : State → Prop) : Prop :=
  ∃ t v, exec i s = .next t ∧ t.standsAt g m v ∧ p v

/-! ### Notifications (R324, R325) -/

/-- R325: the record has been posted in the mailbox of the Isle: written at NTAIL, which has increased, where the ring has room
and no record is held back; held back behind the others otherwise. -/
def PostedBy (s t : State) (isle : Nat) (n : HeldNote) : Prop :=
  if (s.isle isle).heldNotes = [] ∧ ringHasRoom s isle = true then
    readLE t.mem (coreKey (isle * 64) (noteOff ((mailboxWord s isle 0).toNat % 512))) 32 = n.record.toNat ∧
      mailboxWord t isle 0 = mailboxWord s isle 0 + 1 ∧ t.isles = s.isles
  else (t.isle isle).heldNotes = (s.isle isle).heldNotes ++ [n]
/-- The same for a record whose reply no hart waits for. -/
def Posted (s t : State) (isle : Nat) (r : BitVec 256) (toHost : Bool) : Prop := PostedBy s t isle ⟨r, toHost, none⟩

/-- R325: the Isle whose mailbox hears of a gang. -/
def Gang.mailbox (g : Gang) : Nat := isleOf (g.home.getD 0) % 8
/-- R325: a record about a gang. -/
def gangNote (g : Gang) (kind : Nat) (addr info : Word) : BitVec 256 := noteRecord kind g.gid.toNat g.asid.toNat 0 addr info

/-- R327: the request of the Isle is finished: PSTAT holds the status and PREQ is 0. -/
def Finished (t : State) (isle stat : Nat) : Prop :=
  mailboxWord t isle 24 = BitVec.ofNat 64 stat ∧ mailboxWord t isle 16 = 0

/-! ### Placement (R44, R124, R306) -/

/-- R44, R38, R124, R306: member `p.member` of the gang, placed: READY at ENTRY in its place, with its argument registers, its
control registers and everything else zero. -/
structure PlacedAs (t : State) (x : Gang) (key : BitVec 256) (level : Nat) (p : Place) (h : Hart) : Prop where
  name : h.csr.gangid = x.gid.zeroExtend 64 ∧ h.csr.member = BitVec.ofNat 64 p.member ∧ h.asid = x.asid
  place : h.cores = p.cores ∧ h.slot = p.slot ∧ h.csr.hartid = BitVec.ofNat 64 (p.cores.headD 0 * 4 + p.slot)
  state : h.st = .ready ∧ h.waits = .nothing ∧ h.pc = x.entry ∧ h.csr.priv = 0
  args : h.rs 4 = x.arg ∧ h.rs 5 = BitVec.ofNat 64 p.member ∧ h.rs 6 = BitVec.ofNat 64 x.gsize ∧
    ∀ r : BitVec 5, r ≠ 4 → r ≠ 5 → r ≠ 6 → h.rs r = 0
  size : h.csr.gangsize = BitVec.ofNat 64 x.gsize ∧ h.csr.span = BitVec.ofNat 64 p.cores.length ∧
    h.csr.vlmaxc = BitVec.ofNat 64 (65536 * p.cores.length) ∧ bits h.csr.footprint 0 8 = x.foot ∧ bits h.csr.footprint 8 8 = x.tiles
  limits : h.csr.budget = BitVec.ofNat 64 (h.csr.vlmaxc.toNat * level / 8) ∧ h.csr.wdlimit = BitVec.ofNat 64 x.wdlim
  random : h.csr.key0 = key.extractLsb' 0 64 ∧ h.csr.key1 = key.extractLsb' 64 64 ∧ h.csr.key2 = key.extractLsb' 128 64 ∧
    h.csr.key3 = key.extractLsb' 192 64 ^^^ BitVec.ofNat 64 p.member ∧ h.csr.counter = 0 ∧ h.csr.nonce = x.seq ∧
    h.csr.rngmode = (if x.rngm then 1 else 0)
  vector : h.tact = false ∧ h.csr.tvec = trapVector t (isleOf (p.cores.headD 0)) x.asid ∧
    ∀ c ∈ [h.csr.vl, h.csr.vstart, h.csr.vdirty, h.csr.vflags, h.csr.vstat, h.csr.vrm, h.csr.retired, h.csr.zlist, h.csr.tcause,
      h.csr.tval, h.csr.tpc, h.csr.tscratch], c = 0
  registers : (∀ i : Fin 32, h.v[i] = VReg.zero) ∧ (∀ i : Fin 8, h.k[i] = MaskReg.zero ∧ h.z[i] = Tile.zero ∧ h.f[i] = none) ∧
    (∀ i : Fin 16, h.h[i] = none) ∧ ∀ i : Fin 8, h.q[i] = if i.val = 0 then Token.window else Token.dead

/-! ### Messages (R342-R350) -/

/-- R343: a reply to `m` has been sent, of STATUS, ARG0 and LEN as given and with the data words; nothing is sent before NODE has
been written. -/
def Replied (s t : State) (m : Message) (status : Nat) (arg0 : Word) (data : List (Word × Bool)) (len : Nat) : Prop :=
  if canSend s then
    ∃ r : Message, t.sent = r :: s.sent ∧ r.typ = 7 ∧ r.tag = m.tag ∧ bits (r.word 0) 32 12 = m.src ∧
      r.src = bits s.ctl.node 0 12 ∧ r.status = status ∧ r.len = len ∧ r.arg0 = arg0 ∧ r.data = data ∧ r.reserved = false
  else t.sent = s.sent

/-- R342, R343: the request event `i` of TYPE `typ` answers a message of that TYPE that is its own (`mine`, which only the OPs of
atomics tell apart). One with a reserved bit set or `malformed`, an atomic of no OP of the table, and a message of a reserved TYPE get
MALFORMED and have no effect; a message of another TYPE or of another event's OP is not this event's. -/
def ChecksForm (i : Instr) (s : State) (m : Message) (typ : Nat) (mine malformed : Bool) : Prop :=
  let refused := ∃ t, exec i s = .next t ∧ t = { s with sent := t.sent } ∧ Replied s t m 6 0 [] 0
  let known := typ = 2 → m.badOp = false
  (m.typ = typ → ¬ known → refused) ∧
  (m.typ = typ → known → mine = true → (m.reserved = true ∨ malformed = true) → refused) ∧
  (m.typ = typ → known → mine = false → exec i s = .next s) ∧
  (m.typ ≠ typ → m.typ < 8 → exec i s = .next s) ∧
  (8 ≤ m.typ → refused)

/-- R343: a well-formed request of TYPE `typ`. -/
def isRequest (m : Message) (typ : Nat) : Prop := m.typ = typ ∧ m.reserved = false

/-- Byte `i` of data words. -/
def dataByte (data : List (Word × Bool)) (i : Nat) : Byte := ((data.map (·.1)).getD (i / 8) 0).extractLsb' (8 * (i % 8)) 8

/-- R343: what OP 0 to 9 leaves in a word that held `old`. -/
def messageResult (m : Message) (old : Word) : Word :=
  let v := m.arg0
  match m.op with
  | 0 => old + v
  | 1 => old &&& v
  | 2 => old ||| v
  | 3 => old ^^^ v
  | 4 => if old.toInt ≤ v.toInt then old else v
  | 5 => if old.toInt ≤ v.toInt then v else old
  | 6 => if old.toNat ≤ v.toNat then old else v
  | 7 => if old.toNat ≤ v.toNat then v else old
  | 8 => v
  | _ => if old = m.arg1 then v else old

/-- R348: the conditions of an atomic-wait. -/
def waitMet (op : Nat) (w v : Word) : Prop :=
  match op with
  | 0 => w = v
  | 1 => w ≠ v
  | 2 => v.toNat ≤ w.toNat
  | 3 => w.toNat < v.toNat
  | 4 => v.toInt ≤ w.toInt
  | _ => w.toInt < v.toInt

/-- R353: an acknowledgement, or the NAK, has gone back on a connection. -/
def Acknowledged (s t : State) (conn status : Nat) (old : Word) (data : List Word) : Prop :=
  ∃ r : Message, t.sent = r :: s.sent ∧ r.typ = 7 ∧ bits (r.word 0) 32 12 = (0xC00 + conn) % 4096 ∧ r.status = status ∧
    r.arg0 = old ∧ r.data = data.map fun w => (w, false)

end Sys2Proof.Machine
end

