-- ==== Sys2Proof/Certificates/Slice0/Obligations.lean ====
section
/-!
DEFINITION. The statements for the provers.
-/
open Sys2Proof Sys2Proof.Machine

/-! ### Encoding -/

/-- R78, R79, R82-R84: for every instruction that has an encoding and meets the checks of its operands, decoding the words
`encode` gives for it gives it back, with every operand. -/
def Obligations.DecodeInvertsEncode : Prop :=
  ∀ i : Instr, i.wellFormed = true → i.encoded = true → decode ((encode i).getD 0 0) ((encode i).getD 1 0) = .ok i

/-- R80, R82, R85: the decoder accepts no words but the encoding of the well-formed instruction it answers: no reserved bit is
ignored and no instruction has a second spelling. The second word counts for the long form only. -/
def Obligations.DecodeAcceptsOnlyEncodings : Prop :=
  ∀ (w0 w1 : BitVec 32) (i : Instr), decode w0 w1 = .ok i →
    i.wellFormed = true ∧ i.encoded = true ∧ encode i = if isLongForm w0 then [w0, w1] else [w0]

/-! ### Integer instructions -/

/-- R97, R98, R99: the integer register operations: each completes for every operands, sd takes the value of the table of R98
with the edge cases of R99, a write to s0 is discarded, and nothing else changes; their encoding, and the words that are none
of them. -/
def Obligations.IntegerOperations : Prop :=
  ∀ b a d : BitVec 5,
    Writes (.add b a d) [a, b] d (fun s => s.rs a + s.rs b) ∧
    Writes (.sub b a d) [a, b] d (fun s => s.rs a - s.rs b) ∧
    Writes (.and b a d) [a, b] d (fun s => s.rs a &&& s.rs b) ∧
    Writes (.or b a d) [a, b] d (fun s => s.rs a ||| s.rs b) ∧
    Writes (.xor b a d) [a, b] d (fun s => s.rs a ^^^ s.rs b) ∧
    Writes (.andn b a d) [a, b] d (fun s => s.rs a &&& ~~~(s.rs b)) ∧
    Writes (.sll b a d) [a, b] d (fun s => s.rs a <<< (s.rs b).extractLsb' 0 6) ∧
    Writes (.srl b a d) [a, b] d (fun s => s.rs a >>> (s.rs b).extractLsb' 0 6) ∧
    Writes (.sra b a d) [a, b] d (fun s => (s.rs a).sshiftRight' ((s.rs b).extractLsb' 0 6)) ∧
    Writes (.mul b a d) [a, b] d (fun s => s.rs a * s.rs b) ∧
    Writes (.mulh b a d) [a, b] d (fun s => upperHalf ((s.rs a).signExtend 128) ((s.rs b).signExtend 128)) ∧
    Writes (.mulhu b a d) [a, b] d (fun s => upperHalf ((s.rs a).zeroExtend 128) ((s.rs b).zeroExtend 128)) ∧
    Writes (.div b a d) [a, b] d (fun s => if s.rs b = 0 then BitVec.allOnes 64 else (s.rs a).sdiv (s.rs b)) ∧
    Writes (.divu b a d) [a, b] d (fun s => if s.rs b = 0 then BitVec.allOnes 64 else (s.rs a).udiv (s.rs b)) ∧
    Writes (.rem b a d) [a, b] d (fun s => if s.rs b = 0 then s.rs a else (s.rs a).srem (s.rs b)) ∧
    Writes (.remu b a d) [a, b] d (fun s => if s.rs b = 0 then s.rs a else (s.rs a).umod (s.rs b)) ∧
    Writes (.min b a d) [a, b] d (fun s => if (s.rs a).toInt ≤ (s.rs b).toInt then s.rs a else s.rs b) ∧
    Writes (.max b a d) [a, b] d (fun s => if (s.rs a).toInt ≤ (s.rs b).toInt then s.rs b else s.rs a) ∧
    Writes (.minu b a d) [a, b] d (fun s => if (s.rs a).toNat ≤ (s.rs b).toNat then s.rs a else s.rs b) ∧
    Writes (.maxu b a d) [a, b] d (fun s => if (s.rs a).toNat ≤ (s.rs b).toNat then s.rs b else s.rs a) ∧
    Writes (.slt b a d) [a, b] d (fun s => oneIf ((s.rs a).toInt < (s.rs b).toInt)) ∧
    Writes (.sltu b a d) [a, b] d (fun s => oneIf ((s.rs a).toNat < (s.rs b).toNat)) ∧
    Writes (.clz a d) [a] d (fun s => BitVec.ofNat 64 (leadingZeros (s.rs a))) ∧
    Writes (.ctz a d) [a] d (fun s => BitVec.ofNat 64 (trailingZeros (s.rs a))) ∧
    Writes (.popc a d) [a] d (fun s => BitVec.ofNat 64 (oneBits (s.rs a))) ∧
    (let S := fun f : BitVec 10 => f ++ b ++ a ++ d ++ 0x01#7
    Encoded (.add b a d) (S 0x00) ∧ Encoded (.sub b a d) (S 0x01) ∧ Encoded (.and b a d) (S 0x02) ∧
    Encoded (.or b a d) (S 0x03) ∧ Encoded (.xor b a d) (S 0x04) ∧ Encoded (.andn b a d) (S 0x05) ∧
    Encoded (.sll b a d) (S 0x06) ∧ Encoded (.srl b a d) (S 0x07) ∧ Encoded (.sra b a d) (S 0x08) ∧
    Encoded (.mul b a d) (S 0x09) ∧ Encoded (.mulh b a d) (S 0x0A) ∧ Encoded (.mulhu b a d) (S 0x0B) ∧
    Encoded (.div b a d) (S 0x0C) ∧ Encoded (.divu b a d) (S 0x0D) ∧ Encoded (.rem b a d) (S 0x0E) ∧
    Encoded (.remu b a d) (S 0x0F) ∧ Encoded (.min b a d) (S 0x10) ∧ Encoded (.max b a d) (S 0x11) ∧
    Encoded (.minu b a d) (S 0x12) ∧ Encoded (.maxu b a d) (S 0x13) ∧ Encoded (.slt b a d) (S 0x14) ∧
    Encoded (.sltu b a d) (S 0x15) ∧
    (let U := fun f : BitVec 10 => f ++ 0#5 ++ a ++ d ++ 0x01#7;
      Encoded (.clz a d) (U 0x16) ∧ Encoded (.ctz a d) (U 0x17) ∧ Encoded (.popc a d) (U 0x18)) ∧
    (∀ (f : BitVec 10) (w1 : BitVec 32), (f ∈ [0x16, 0x17, 0x18] ∧ b ≠ 0) ∨ f.getMsbD 0 = true → Rejected (S f) w1))

/-- R100, R101, R102: the immediate forms, the shifts by an immediate and the constants: the value each writes, its encoding,
and the words that are none of them. -/
def Obligations.ImmediatesAndConstants : Prop :=
  (∀ (i : BitVec 15) (a d : BitVec 5),
    Writes (.addi i a d) [a] d (fun s => s.rs a + i.signExtend 64) ∧
    Writes (.andi i a d) [a] d (fun s => s.rs a &&& i.signExtend 64) ∧
    Writes (.ori i a d) [a] d (fun s => s.rs a ||| i.signExtend 64) ∧
    Writes (.xori i a d) [a] d (fun s => s.rs a ^^^ i.signExtend 64) ∧
    Writes (.slti i a d) [a] d (fun s => oneIf ((s.rs a).toInt < i.toInt)) ∧
    Encoded (.addi i a d) (i ++ a ++ d ++ 0x02#7) ∧ Encoded (.andi i a d) (i ++ a ++ d ++ 0x03#7) ∧
    Encoded (.ori i a d) (i ++ a ++ d ++ 0x04#7) ∧ Encoded (.xori i a d) (i ++ a ++ d ++ 0x05#7) ∧
    Encoded (.slti i a d) (i ++ a ++ d ++ 0x06#7)) ∧
  (∀ (h : BitVec 6) (a d : BitVec 5),
    Writes (.slli h a d) [a] d (fun s => s.rs a <<< h) ∧
    Writes (.srli h a d) [a] d (fun s => s.rs a >>> h) ∧
    Writes (.srai h a d) [a] d (fun s => (s.rs a).sshiftRight' h) ∧
    (let W := fun (x : BitVec 2) (z : BitVec 7) => x ++ z ++ h ++ a ++ d ++ 0x07#7
    Encoded (.slli h a d) (W 0 0) ∧ Encoded (.srli h a d) (W 1 0) ∧ Encoded (.srai h a d) (W 2 0) ∧
    (∀ (x : BitVec 2) (z : BitVec 7) (w1 : BitVec 32), x = 3 ∨ z ≠ 0 → Rejected (W x z) w1))) ∧
  (∀ (i : BitVec 20) (d : BitVec 5),
    Writes (.lih i d) [] d (fun _ => i.signExtend 64 * 4096) ∧
    Writes (.addpc i d) [] d (fun s => s.hart.pc + i.signExtend 64 * 4) ∧
    Encoded (.lih i d) (i ++ d ++ 0x08#7) ∧ Encoded (.addpc i d) (i ++ d ++ 0x09#7)) ∧
  (∀ (i : BitVec 32) (d : BitVec 5) (s : State), ∃ t, exec (.liw d i) s = .next t ∧ retiredAt s t (s.hart.pc + 8) ∧
    t.holds d (i.signExtend 64) ∧ Frame { s := [d] } s t) ∧
  (∀ (i : BitVec 32) (d : BitVec 5),
    let W := fun (z : BitVec 8) (x : BitVec 7) (a : BitVec 5) => z ++ x ++ a ++ d ++ 0x7E#7
    encode (.liw d i) = [W 0 1 0, i] ∧
    (∀ (z : BitVec 8) (x : BitVec 7) (a : BitVec 5), z ≠ 0 ∨ x ≠ 1 ∨ a ≠ 0 → Rejected (W z x a) i))

/-! ### Floating point -/

/-- R97, R103, R104, R105: the scalar floating-point instructions: each completes for every operands and every rounding mode,
sd takes the code of the result, FP32 results with bits [63:32] zero, the flags merge into VFLAGS, only a conversion that
clamps sets VSTAT.SAT, and nothing else changes. The results are those of the model's rounding functions. -/
def Obligations.ScalarFloatingPoint : Prop :=
  ∀ (f : Bool) (m : BitVec 3) (b a d : BitVec 5),
    let F := scalarFmt f
    let x := fun (s : State) (r : BitVec 5) => fpSource f (s.rs r)
    WritesFlags (.fadd f m b a d) [a, b] d (fun s => fpAdd F (s.modeOf m) (x s a) (x s b)) ∧
    WritesFlags (.fsub f m b a d) [a, b] d (fun s => fpSub F (s.modeOf m) (x s a) (x s b)) ∧
    WritesFlags (.fmul f m b a d) [a, b] d (fun s => fpMul F (s.modeOf m) (x s a) (x s b)) ∧
    WritesFlags (.fdiv f m b a d) [a, b] d (fun s => fpDiv F (s.modeOf m) (x s a) (x s b)) ∧
    WritesFlags (.ffma f m b a d) [a, b, d] d (fun s => fpFma F (s.modeOf m) (x s a) (x s b) (x s d)) ∧
    WritesFlags (.fsqrt f m a d) [a] d (fun s => fpSqrt F (s.modeOf m) (x s a)) ∧
    WritesFlags (.fmin f b a d) [a, b] d (fun s => fpMinMax F false (x s a) (x s b)) ∧
    WritesFlags (.fmax f b a d) [a, b] d (fun s => fpMinMax F true (x s a) (x s b)) ∧
    WritesFlags (.fcmpEq f b a d) [a, b] d (fun s =>
      ⟨if fpCompare F (x s a) (x s b) = some .eq then 1 else 0, snanFlag F (x s a) (x s b), false⟩) ∧
    WritesFlags (.fcmpLt f b a d) [a, b] d (fun s =>
      ⟨if fpCompare F (x s a) (x s b) = some .lt then 1 else 0, snanFlag F (x s a) (x s b), false⟩) ∧
    WritesFlags (.fcmpLe f b a d) [a, b] d (fun s =>
      ⟨if fpCompare F (x s a) (x s b) = some .lt ∨ fpCompare F (x s a) (x s b) = some .eq then 1 else 0,
        snanFlag F (x s a) (x s b), false⟩) ∧
    WritesFlags (.fcmpUnord f b a d) [a, b] d (fun s =>
      ⟨if fpCompare F (x s a) (x s b) = none then 1 else 0, snanFlag F (x s a) (x s b), false⟩) ∧
    (let toInt := fun (s : State) (lo hi : Int) =>
      let r := valToRange (s.modeOf m) lo hi (F.val (x s a))
      (⟨(BitVec.ofInt 64 r.1).toNat, r.2.1, r.2.2⟩ : FRes)
    WritesFlags (.fcvtToInt32 f m a d) [a] d (fun s => toInt s (-2147483648) 2147483647) ∧
    WritesFlags (.fcvtToUint32 f m a d) [a] d (fun s => toInt s 0 4294967295) ∧
    WritesFlags (.fcvtToInt64 f m a d) [a] d (fun s => toInt s (-9223372036854775808) 9223372036854775807) ∧
    WritesFlags (.fcvtToUint64 f m a d) [a] d (fun s => toInt s 0 18446744073709551615)) ∧
    (let fromInt := fun (s : State) (z : Int) => valToFp F (s.modeOf m) false (intVal z)
    WritesFlags (.fcvtFromInt32 f m a d) [a] d (fun s => fromInt s ((s.rs a).extractLsb' 0 32).toInt) ∧
    WritesFlags (.fcvtFromUint32 f m a d) [a] d (fun s => fromInt s ((s.rs a).extractLsb' 0 32).toNat) ∧
    WritesFlags (.fcvtFromInt64 f m a d) [a] d (fun s => fromInt s (s.rs a).toInt) ∧
    WritesFlags (.fcvtFromUint64 f m a d) [a] d (fun s => fromInt s (s.rs a).toNat)) ∧
    WritesFlags (.fcvtFp f m a d) [a] d (fun s => valToFp (scalarFmt !f) (s.modeOf m) false (F.val (x s a)))

/-! ### Control transfer -/

/-- R112, R113: branches go to pc + sign_extend(OFF12) × 4 when the condition holds and to pc + 4 otherwise; JAL and JALR write
pc + 4 and go to their targets; a misaligned JALR target traps ALIGN with TVAL = t and leaves sd. The encoding of the
branches, of which F3 = 6 and 7 are none. -/
def Obligations.ControlTransfer : Prop :=
  (∀ (o : BitVec 12) (b a : BitVec 5),
    let target := fun (s : State) (p : Prop) [Decidable p] => s.hart.pc + (if p then o.signExtend 64 * 4 else 4)
    Jumps (.beq o b a) [a, b] (fun s => target s (s.rs a = s.rs b)) ∧
    Jumps (.bne o b a) [a, b] (fun s => target s (s.rs a ≠ s.rs b)) ∧
    Jumps (.blt o b a) [a, b] (fun s => target s ((s.rs a).toInt < (s.rs b).toInt)) ∧
    Jumps (.bge o b a) [a, b] (fun s => target s ((s.rs b).toInt ≤ (s.rs a).toInt)) ∧
    Jumps (.bltu o b a) [a, b] (fun s => target s ((s.rs a).toNat < (s.rs b).toNat)) ∧
    Jumps (.bgeu o b a) [a, b] (fun s => target s ((s.rs b).toNat ≤ (s.rs a).toNat)) ∧
    (let W := fun f : BitVec 3 => o ++ f ++ b ++ a ++ 0x15#7
    Encoded (.beq o b a) (W 0) ∧ Encoded (.bne o b a) (W 1) ∧ Encoded (.blt o b a) (W 2) ∧ Encoded (.bge o b a) (W 3) ∧
    Encoded (.bltu o b a) (W 4) ∧ Encoded (.bgeu o b a) (W 5) ∧ (∀ w1 : BitVec 32, Rejected (W 6) w1 ∧ Rejected (W 7) w1))) ∧
  (∀ (o : BitVec 20) (d : BitVec 5) (s : State), ∃ t, exec (.jal o d) s = .next t ∧
    retiredAt s t (s.hart.pc + o.signExtend 64 * 4) ∧ t.holds d (s.hart.pc + 4) ∧ Frame { s := [d] } s t) ∧
  (∀ (i : BitVec 15) (a d : BitVec 5) (s : State), s.unpoisoned [a] →
    ((s.rs a + i.signExtend 64).toNat % 4 = 0 → ∃ t, exec (.jalr i a d) s = .next t ∧
      retiredAt s t (s.rs a + i.signExtend 64) ∧ t.holds d (s.hart.pc + 4) ∧ Frame { s := [d] } s t) ∧
    ((s.rs a + i.signExtend 64).toNat % 4 ≠ 0 → s.hart.tact = false → Traps (.jalr i a d) s 0x06 (s.rs a + i.signExtend 64)))

/-! ### Control and status registers -/

/-- R38-R43, R114: CSRR, CSRW and CSRX of every listed register: the old value read, the new value by the register's Access
column, and no other register changed. RETIRED, which the instruction itself increases, is read before. A read of VL, VSTART,
VDIRTY, VFLAGS or VSTAT and a write of VDIRTY, VFLAGS or VSTAT find every earlier matrix operation complete. -/
def Obligations.ControlRegisterAccess : Prop :=
  ∀ (c : BitVec 10) (a d : BitVec 5) (s : State), (s.hart.user = true → c ∉ supervisorCsrs) → csrListed c = true →
    let read := if c.toNat ≤ 4 then { s with hart := { s.hart with mq := [] } } else s
    let written := if 2 ≤ c.toNat ∧ c.toNat ≤ 4 then { s with hart := { s.hart with mq := [] } } else s
    (∃ t, exec (.csrr c d) s = .next t ∧ retiredAt s t (s.hart.pc + 4) ∧ t.holds d (readCsr s c) ∧ Frame { s := [d] } read t) ∧
    (s.unpoisoned [a] →
      (∃ t, exec (.csrw c a) s = .next t ∧ retiredAt s t (s.hart.pc + 4) ∧
        (c ≠ 0x021 → readCsr t c = csrAfter c (readCsr s c) (s.rs a) s.hart.cur) ∧ Frame { csr := [c] } written t) ∧
      (∃ t, exec (.csrx c a d) s = .next t ∧ retiredAt s t (s.hart.pc + 4) ∧ t.holds d (readCsr s c) ∧
        (c ≠ 0x021 → readCsr t c = csrAfter c (readCsr s c) (s.rs a) s.hart.cur) ∧ Frame { s := [d], csr := [c] } written t))

/-! ### Traps and privilege -/

/-- R42, R114, R115, R119: in user mode an RS register and TRET trap PRIV, with the instruction word in TVAL, and change
nothing else. Outside it no write of PRIV leaves code 3 in PREV or anything in the reserved bits, supervisor mode never puts
service mode there, and CUR and TACT are not written at all. -/
def Obligations.PrivilegeIsGuarded : Prop :=
  (∀ (c : BitVec 10) (a d : BitVec 5) (s : State), s.hart.user = true → s.hart.tact = false →
    (c ∈ supervisorCsrs →
      Traps (.csrr c d) s 0x03 ((joinWord (Instr.csrr c d).fields).zeroExtend 64) ∧
      Traps (.csrw c a) s 0x03 ((joinWord (Instr.csrw c a).fields).zeroExtend 64) ∧
      Traps (.csrx c a d) s 0x03 ((joinWord (Instr.csrx c a d).fields).zeroExtend 64)) ∧
    Traps .tret s 0x03 ((joinWord Instr.tret.fields).zeroExtend 64)) ∧
  (∀ (a : BitVec 5) (s : State), s.hart.user = false → s.hart.privOk → s.unpoisoned [a] →
    ∃ t, exec (.csrw 0x105 a) s = .next t ∧ t.hart.privOk ∧ t.hart.cur = s.hart.cur ∧ t.hart.tact = s.hart.tact ∧
      (s.hart.cur = 1 → t.hart.prev = 2 → s.hart.prev = 2))

/-- R116, R118: ECALL and EBREAK take their traps: TCAUSE, TVAL = 0, TPC, PRIV, pc and state as trap entry says; while
PRIV.TACT = 1 each is a double trap. Their encoding. -/
def Obligations.EcallAndEbreakTrap : Prop :=
  (∀ s : State, s.hart.tact = false → Traps .ecall s 0x04 0 ∧ Traps .ebreak s 0x05 0) ∧
  (∀ s : State, s.hart.tact = true →
    exec .ecall s = .next (doubleTrap s 0x04 s.hart.pc) ∧ exec .ebreak s = .next (doubleTrap s 0x05 s.hart.pc)) ∧
  Encoded .ecall (0x000#10 ++ 0#5 ++ 0#5 ++ 0#5 ++ 0x19#7) ∧ Encoded .ebreak (0x001#10 ++ 0#5 ++ 0#5 ++ 0#5 ++ 0x19#7)

/-- R117: TRET outside user mode: pc, PRIV.CUR, PRIV.PREV, PRIV.TACT and the state as its entry says, a new convoy at TPC, and
nothing else changed, whatever TACT was. In user mode it traps PRIV. Its encoding. -/
def Obligations.TretReturns : Prop :=
  Encoded .tret (0x002#10 ++ 0#5 ++ 0#5 ++ 0#5 ++ 0x19#7) ∧
  (∀ s : State, s.hart.user = true → s.hart.tact = false → Traps .tret s 0x03 0x00800019) ∧
  ∀ s : State, s.hart.user = false → ∃ t, exec .tret s = .next t ∧ retiredAt s t s.hart.csr.tpc ∧
    t.hart.cur = s.hart.prev ∧ t.hart.prev = 0 ∧ t.hart.tact = false ∧
    t.hart.st = (if s.hart.st = .trapped then .run else s.hart.st) ∧ t.hart.waits = s.hart.waits ∧ t.hart.convoy = .none ∧
    Frame { csr := [0x105], place := true } s t

/-- R116, R117, R118: a handler that only executes TRET comes back to the ECALL: the pc, the privilege, the state and every
register but the trap registers and the counts are as before the trap. -/
def Obligations.TrapAndReturnComeBack : Prop :=
  ∀ s : State, s.hart.tact = false → s.hart.st = .run → s.hart.pc.toNat % 4 = 0 →
    ∃ t u, exec .ecall s = .next t ∧ exec .tret t = .next u ∧ u.hart.pc = s.hart.pc ∧ u.hart.cur = s.hart.cur ∧
      u.hart.tact = false ∧ u.hart.st = .run ∧
      Frame { csr := [0x001, 0x100, 0x101, 0x102, 0x105], place := true, mq := true } s u

/-- R25, R116, R323, R325, R362: a trap while a handler runs is a double trap. The hart of no gang stops, none of its registers
changes, and kind 0x0C is posted for service firmware and the host. A gang's member stops, kind 0x02 is posted, and the gang is held
under fault policy 1, which sends the record to the host too (R123), or ends under policy 0 (here with nothing of the gang under way and no completion counter), once its record has
been written: while a full ring holds it back the gang stands held (log 76). The records go to the mailbox of the hart's home Isle
(log 24). -/
def Obligations.DoubleTrapStopsTheHart : Prop :=
  ∀ s : State, s.hart.tact = true → s.memoryOk → ∀ x ∈ [(Instr.ecall, 4), (.ebreak, 5), (.gbar, 0)],
    let isle := isleOf s.hart.home % 8
    let info := BitVec.ofNat 64 (x.2 + bits s.hart.csr.tcause 0 8 * 256)
    let record := fun (kind : Nat) (addr : Word) =>
      noteRecord kind s.hart.name.1 s.hart.asid.toNat (bits s.hart.csr.hartid 0 11) addr info
    (findGang s s.hart.name.1 = none →
      ∃ t, exec x.1 s = .next t ∧ t.hart = { s.hart with stopped := true, engine := false } ∧ t.parked = s.parked ∧ t.gangs = s.gangs ∧
        PostedBy s t isle ⟨record 0x0C s.hart.csr.tpc, true, some s.hart.name⟩) ∧
    (∀ g, findGang s s.hart.name.1 = some g → s.hart.name.1 ≠ 0 → (s.harts.map Hart.name).Nodup →
      (∀ h ∈ s.harts, h.name.1 = s.hart.name.1 → h.settled = true ∧ h.order = .prompt ∧ h.progress = none ∧
        remoteWritesPending s h.name.1 h.name.2 = false) →
      (∀ l ∈ s.l1d, 64 * l.line + 64 ≤ mainBytes) →
      let written := (s.isle isle).heldNotes = [] ∧ ringHasRoom s isle = true
      (g.fpol ≠ 0 ∨ ¬ written → ∃ t, exec x.1 s = .next t ∧ t.hart.stopped = true ∧ t.hart.pc = s.hart.pc ∧ t.hart.csr = s.hart.csr ∧
        t.hart.s = s.hart.s ∧ t.hart.v = s.hart.v ∧ findGang t s.hart.name.1 = some { g with status := .held } ∧
        PostedBy s t isle ⟨record 0x02 s.hart.pc, g.fpol == 1, some s.hart.name⟩) ∧
      (g.fpol = 0 → written → g.caddr = 0 → ∃ t, exec x.1 s = .next t ∧ t.hart.st = .exited ∧ t.hart.cores = [] ∧
        findGang t s.hart.name.1 = none ∧ (∀ h ∈ t.parked, h.name.1 ≠ s.hart.name.1) ∧
        PostedBy s t isle ⟨record 0x02 s.hart.pc, false, some s.hart.name⟩))

/-- R85, R113, R116: a word that is no instruction traps ILLEGAL_INSN with the word in TVAL, and an instruction that cannot be
fetched traps ADDR_RANGE with TPC and TVAL both its address. -/
def Obligations.IllegalWordsAndFetchFaultsTrap : Prop :=
  ∀ s : State, s.hart.tact = false →
    (∀ w : Word, Traps (.illegalInsn w) s 0x01 w) ∧
    (s.hart.pc.toNat % 4 = 0 →
      (bits s.hart.pc 52 12 ≠ 0 ∨
        (bits s.hart.pc 52 12 = 0 ∧ inWindow s.hart.pc = true ∧ windowPlace s s.hart.home s.hart.pc = .unmapped) ∨
        (inWindow s.hart.pc = false ∧
          translate s s.hart.home s.hart.asid s.hart.user .fetch s.hart.pc.toNat = none)) →
      Traps .instructionFetchFault s 0x07 s.hart.pc)

/-- R328, R119: a scalar instruction that reads a poisoned register traps POISON before any effect; TVAL names the first such
source. -/
def Obligations.PoisonedScalarsTrap : Prop :=
  ∀ (i : Instr) (rs : List (BitVec 5)) (r : BitVec 5) (s : State), scalarSources i = some rs → s.hart.tact = false →
    rs.find? (fun r => r != 0 && s.hart.sPoison.getLsbD r.toNat) = some r →
    Traps i s 0x13 (0x8000000000000100 + r.zeroExtend 64)

/-! ### Scalar memory access -/

/-- R107, R248, R268: the loads: from the window and through the L1D from main memory, sign- or zero-extended as the table of
R107 says. -/
def Obligations.ScalarLoads : Prop :=
  ∀ (i : BitVec 15) (a d : BitVec 5),
    let addr := fun s : State => s.rs a + i.signExtend 64
    Loads (.ldB i a d) a addr 1 d (fun v => (BitVec.ofNat 8 v).signExtend 64) ∧
    Loads (.ldH i a d) a addr 2 d (fun v => (BitVec.ofNat 16 v).signExtend 64) ∧
    Loads (.ldW i a d) a addr 4 d (fun v => (BitVec.ofNat 32 v).signExtend 64) ∧
    Loads (.ldD i a d) a addr 8 d (fun v => BitVec.ofNat 64 v) ∧
    Loads (.ldBu i a d) a addr 1 d (fun v => (BitVec.ofNat 8 v).zeroExtend 64) ∧
    Loads (.ldHu i a d) a addr 2 d (fun v => (BitVec.ofNat 16 v).zeroExtend 64) ∧
    Loads (.ldWu i a d) a addr 4 d (fun v => (BitVec.ofNat 32 v).zeroExtend 64)

/-- R108, R248, R251, R252: the stores: the low 1, 2, 4 or 8 bytes of sb, in the window's storage or in the L1D, and no other byte;
of the L1D no other line changes but those that give way, whose dirty bytes are then in memory. A store to a control page writes
its register, or traps where the size or the mode does not serve. Two clauses are the model's choice: a store at an offset of a
control page that holds no register completes and changes nothing (log 15), and a value a register cannot hold is discarded
(log 70). -/
def Obligations.ScalarStores : Prop :=
  ∀ (o : BitVec 12) (b a : BitVec 5),
    let addr := fun s : State => s.rs a + o.signExtend 64
    let Each := fun (i : Instr) (n : Nat) =>
      Stores i [a, b] addr (fun s => s.rs b) n ∧ ControlStores i [a, b] addr (fun s => s.rs b) n
    Each (.stB o b a) 1 ∧ Each (.stH o b a) 2 ∧ Each (.stW o b a) 4 ∧ Each (.stD o b a) 8

/-- R106: the checks of a scalar load or store, in their order: ALIGN, then ADDR_RANGE for bits [63:52], for a window address
that maps no storage and for a missing mapping; TVAL is the address, and the access has no effect. -/
def Obligations.AddressChecks : Prop :=
  ∀ (i : Instr) (rs : List (BitVec 5)) (addr : State → Word) (n : Nat) (kind : AccessKind) (s : State),
    scalarAccess i = some (rs, addr, n, kind) → s.unpoisoned rs → s.hart.tact = false →
    ((addr s).toNat % n ≠ 0 → Traps i s 0x06 (addr s)) ∧
    ((addr s).toNat % n = 0 → bits (addr s) 52 12 ≠ 0 → Traps i s 0x07 (addr s)) ∧
    ((addr s).toNat % n = 0 → bits (addr s) 52 12 = 0 → inWindow (addr s) = true →
      windowPlace s s.hart.home (addr s) = .unmapped → Traps i s 0x07 (addr s)) ∧
    ((addr s).toNat % n = 0 → bits (addr s) 52 12 = 0 → inWindow (addr s) = false →
      translate s s.hart.home s.hart.asid s.hart.user kind (addr s).toNat = none → Traps i s 0x07 (addr s))

/-- R254, R256: a translation that is found keeps the offset within the page, leaves the translations kept well formed, and
changes memory in the leaf entry only. -/
def Obligations.TranslationKeepsPageOffsets : Prop :=
  ∀ (s s1 : State) (core : Nat) (asid : BitVec 12) (user : Bool) (kind : AccessKind) (va pa : Nat), s.pagesOk → s.memoryOk →
    translate s core asid user kind va = some (pa, s1) →
    pa % 4096 = va % 4096 ∧ s1.pagesOk ∧ s1.memoryOk ∧ s1.hart = s.hart ∧ s1.l1d = s.l1d ∧
    (∀ l, walk s (isleOf core) asid va = some l → ∀ x, (x < l.key ∨ l.key + 8 ≤ x) → memRead s1.mem x = memRead s.mem x)

/-- R109, R110, R111: the atomics: the old word to sd, the new word to memory, at every ordering and scope. -/
def Obligations.ScalarAtomics : Prop :=
  ∀ (o : BitVec 2) (sc : BitVec 4) (b a d : BitVec 5),
    Atomics (.amoAdd o sc b a d) o sc [a, b] a d (fun s w => some (w + s.rs b)) ∧
    Atomics (.amoAnd o sc b a d) o sc [a, b] a d (fun s w => some (w &&& s.rs b)) ∧
    Atomics (.amoOr o sc b a d) o sc [a, b] a d (fun s w => some (w ||| s.rs b)) ∧
    Atomics (.amoXor o sc b a d) o sc [a, b] a d (fun s w => some (w ^^^ s.rs b)) ∧
    Atomics (.amoMin o sc b a d) o sc [a, b] a d (fun s w => some (if w.toInt ≤ (s.rs b).toInt then w else s.rs b)) ∧
    Atomics (.amoMax o sc b a d) o sc [a, b] a d (fun s w => some (if w.toInt ≤ (s.rs b).toInt then s.rs b else w)) ∧
    Atomics (.amoMinu o sc b a d) o sc [a, b] a d (fun s w => some (if w.toNat ≤ (s.rs b).toNat then w else s.rs b)) ∧
    Atomics (.amoMaxu o sc b a d) o sc [a, b] a d (fun s w => some (if w.toNat ≤ (s.rs b).toNat then s.rs b else w)) ∧
    Atomics (.amoSwap o sc b a d) o sc [a, b] a d (fun s _ => some (s.rs b)) ∧
    Atomics (.cas o sc b a d) o sc [a, b, d] a d (fun s w => if w = s.rs d then some (s.rs b) else none)

/-- R10, R248: the laws of memory: in its canonical form a word reads as it was written, its bytes from the low address up are
its own from the least significant up, every other byte keeps its value, and the form is kept; two memories in the form that read alike are the same data. A line of the L1D that a write-back takes to
memory is there byte for byte where it was dirty, and every other byte keeps its value. -/
def Obligations.MemoryLaws : Prop :=
  (∀ m : List Host.Cell, memWf m = true →
    (∀ a n v, memWf (writeLE m a n v) = true ∧ readLE (writeLE m a n v) a n = v % 256 ^ n ∧
      (∀ j < n, memRead (writeLE m a n v) (a + j) = BitVec.ofNat 8 (v / 256 ^ j)) ∧
      ∀ x, (x < a ∨ a + n ≤ x) → memRead (writeLE m a n v) x = memRead m x) ∧
    (∀ m' : List Host.Cell, memWf m' = true → (∀ x, memRead m x = memRead m' x) → m = m')) ∧
  (∀ (s : State) (l : L1dLine) (j : Nat), s.memoryOk → j < 64 →
    memRead (writeBackLine s l).mem (64 * l.line + j) =
      (if l.dirty.getLsbD j then l.data.extractLsb' (8 * j) 8 else memRead s.mem (64 * l.line + j)) ∧
    (∀ x, (x < 64 * l.line ∨ 64 * l.line + 64 ≤ x) → memRead (writeBackLine s l).mem x = memRead s.mem x) ∧
    (writeBackLine s l).memoryOk)

/-! ### Fences, waiting, spawning and the gang -/

/-- R121, R309: PAUSE and YIELD change no architectural state: PAUSE keeps the hart from selection for the next 32 clk, YIELD resets its age and puts it
last. -/
def Obligations.PauseAndYield : Prop :=
  ∀ s : State,
    (∃ t, exec .pause s = .next t ∧ retiredAt s t (s.hart.pc + 4) ∧ t.hart.pauseUntil = s.clk + 33 ∧ t.hart.age = s.hart.age ∧
      (∀ u, u.clk ≤ s.clk + 32 → eligible u t.hart = false) ∧
      Frame {} s t) ∧
    (∃ t, exec .yield s = .next t ∧ retiredAt s t (s.hart.pc + 4) ∧ t.hart.pauseUntil = s.hart.pauseUntil ∧ t.hart.age = 0 ∧
      t.hart.yielded = true ∧ Frame {} s t)

/-- R120, R248, R271-R273, R275, R277, R291, R295: a hart with nothing under way passes every fence; .sv and .all leave no dirty
line in the L1D of its core, .vs and .all no line that its vector agent has written to in memory (log 49), and no
line at all from SPAN on; .vv leaves the L1D as it was; at DOMAIN and SYSTEM the remote-line buffer of its Isle is empty; no byte of
memory changes but under a dirty byte of a line. While an agent lags (log 8), its stores wait: a load of the scalar agent sees its
own, and the other agent finds the memory as it was until the fence. The stores of one vector instruction to one aligned word are
performed together. At DOMAIN and SYSTEM a fence holds the hart where it stands while a write to another module is not acknowledged
that the hart has made, or that was outstanding when it last acquired, as every fence does (log 99). -/
def Obligations.Fences : Prop :=
  (∀ (sc : BitVec 4) (s : State) (r : Request), s.settled → s.hart.psend = none → 7 ≤ sc.toNat → r ∈ s.requests →
    r.stores = true → (r.hart = some s.hart.name ∨ r.tag ∈ s.hart.covered) →
    ∀ i ∈ [Instr.fenceSv sc, .fenceVS sc, .fenceVV sc, .fenceAll sc],
      ∃ t, exec i s = .next t ∧ t.hart.pc = s.hart.pc ∧ t.hart.csr = s.hart.csr ∧ Frame { mq := true } s t) ∧
  ∀ (sc : BitVec 4) (s : State), (setOrder s .prompt).quiet sc.toNat → s.memoryOk →
    let w : Touched := { access := true, mem := s.dirtyAt s.hart.home }
    let written := fun l : L1dLine => l.core = s.hart.home ∧ l.line ∈ s.hart.written
    let acquired := fun t : State => (∀ r ∈ t.requests, r.stores = true → r.tag ∈ t.hart.covered) ∧
      (7 ≤ sc.toNat → ∀ l ∈ t.rlb, l.isle ≠ isleOf s.hart.home)
    (s.hart.order = .prompt →
      (∃ t, exec (.fenceSv sc) s = .next t ∧ retiredAt s t (s.hart.pc + 4) ∧ acquired t ∧
        (∀ l ∈ t.l1d, l.core = s.hart.home → l.dirty = 0) ∧ Frame w s t) ∧
      (∃ t, exec (.fenceVS sc) s = .next t ∧ retiredAt s t (s.hart.pc + 4) ∧ acquired t ∧
        (sc.toNat < 2 → ∀ l, l ∈ t.l1d ↔ l ∈ s.l1d ∧ ¬ written l) ∧
        (2 ≤ sc.toNat → ∀ l ∈ t.l1d, l.core ≠ s.hart.home) ∧ Frame w s t) ∧
      (∃ t, exec (.fenceVV sc) s = .next t ∧ retiredAt s t (s.hart.pc + 4) ∧ acquired t ∧ t.l1d = s.l1d ∧ t.mem = s.mem ∧
        Frame w s t) ∧
      (∃ t, exec (.fenceAll sc) s = .next t ∧ retiredAt s t (s.hart.pc + 4) ∧ acquired t ∧
        (∀ l ∈ t.l1d, l.core = s.hart.home → l.dirty = 0 ∧ ¬ written l) ∧
        (sc.toNat < 2 → ∀ l ∈ s.l1d, l.core = s.hart.home → ¬ written l → { l with dirty := 0 } ∈ t.l1d) ∧
        (2 ≤ sc.toNat → ∀ l ∈ t.l1d, l.core ≠ s.hart.home) ∧ Frame w s t)) ∧
    (∀ (x : Bool) (k n v i : Nat), s.hart.order = ⟨x, true, [], [.store k n v i], []⟩ → 0 < n → plainKey k n →
      (∀ z, s.dirtyAt s.hart.home z → z < k ∨ k + n ≤ z) →
      (∀ i ∈ [Instr.fenceVS sc, .fenceAll sc], ∃ t, exec i s = .next t ∧ t.hart.order.vector = [] ∧
        readLE t.mem k n = v % 2 ^ (8 * n)) ∧
      (sc.toNat < 7 → ∃ t, exec (.fenceVV sc) s = .next t ∧ t.hart.order.vector = [.store k n v i, .barrier] ∧ t.mem = s.mem) ∧
      (∀ i a d, n = 8 → s.unpoisoned [a] → s.windowKey (s.rs a + i.signExtend 64) 8 k → poisoned s k 8 = false →
        ∃ t, exec (.ldD i a d) s = .next t ∧ t.holds d (loadWord s k))) ∧
    (∀ (y : Bool) (o : BitVec 12) (b a : BitVec 5) (k : Nat), s.hart.order = ⟨true, y, [], [], []⟩ → s.unpoisoned [a, b] →
      s.windowKey (s.rs a + o.signExtend 64) 8 k → mainBytes ≤ k → plainKey k 8 → poisoned s k 8 = false →
      s.linesOfMain s.hart.home →
      ∃ t, exec (.stD o b a) s = .next t ∧ retiredAt s t (s.hart.pc + 4) ∧ t.mem = s.mem ∧
        t.hart.order.scalar = [.store k 8 (s.rs b).toNat s.hart.csr.retired.toNat] ∧
        (∀ d, ∃ u, exec (.ldD (o.signExtend 15) a d) t = .next u ∧ u.mem = s.mem ∧ u.holds d (s.rs b)) ∧
        (∀ q, siteLoad t (.key k) q 8 = .ok (readLE s.mem k 8) t) ∧
        ∃ u, exec (.fenceSv sc) t = .next u ∧ u.hart.order.scalar = [] ∧ loadWord u k = s.rs b) ∧
    (∀ (x : Bool) (k n v : Nat), s.hart.order = ⟨x, true, [], [], []⟩ → poisoned s k n = false → s.hart.csr.vstart = 0 →
      s.hart.progress = none →
      siteStore s (.key k) n v = .ok () (setOrder s ⟨x, true, [], [.store k n v s.hart.csr.retired.toNat], []⟩)) ∧
    ∀ (x : Bool) (k m n v w i : Nat), s.hart.order = ⟨x, true, [], [.store k m v i, .store (k + m) n w i], []⟩ →
      k / 8 = (k + m) / 8 → 0 < m → 0 < n → k % 8 + m + n ≤ 8 → plainKey k (m + n) →
      (∀ y, s.dirtyAt s.hart.home y → y < k ∨ k + m + n ≤ y) → ∀ j < 2,
      (performEntry s false j).hart.order.vector = [] ∧
        readLE (performEntry s false j).mem k (m + n) = v % 2 ^ (8 * m) + w % 2 ^ (8 * n) * 2 ^ (8 * m)

/-- R122, R248, R291, R295: WAITW on a word of the window or of main memory: when the condition holds sd takes the word, the hart
has acquired at the scope, with no line left in the L1D of its core and at DOMAIN and SYSTEM none in the remote-line buffer of its
Isle, and goes on; when it does not, the hart is in WAIT on that word and has not retired. -/
def Obligations.WaitForWord : Prop :=
  ∀ (sc : BitVec 4) (b a d : BitVec 5),
    Waits (.waitwEq sc b a d) sc b a d 0 (fun w v => w = v) ∧
    Waits (.waitwNe sc b a d) sc b a d 1 (fun w v => w ≠ v) ∧
    Waits (.waitwGeu sc b a d) sc b a d 2 (fun w v => v.toNat ≤ w.toNat) ∧
    Waits (.waitwLtu sc b a d) sc b a d 3 (fun w v => w.toNat < v.toNat) ∧
    Waits (.waitwGe sc b a d) sc b a d 4 (fun w v => v.toInt ≤ w.toInt) ∧
    Waits (.waitwLt sc b a d) sc b a d 5 (fun w v => w.toInt < v.toInt)

/-- R123, R125, R126, R301: SPAWN of a record in the window or in main memory: with a reason code nothing is posted and sd holds
bit 63 and the code; with none the instruction has its effect: the gang is appended to the queue under a GANGID that is not 0 and
that no other gang holds, with the record, the address space of the hart and the next place in post order, eligible where the record
names no dependence, and sd holds the GANGID. The other gangs keep theirs. -/
def Obligations.SpawnPostsOrRejects : Prop :=
  ∀ (a d : BitVec 5) (s s1 : State) (k : Nat), s.unpoisoned [a] → s.quiet 6 → s.memoryOk → s.linesOfMain s.hart.home →
    (s.windowKey (s.rs a) 64 k ∧ mainBytes ≤ k ∧ s1 = s ∨ s.mappedAt (s.rs a) 64 .load k s1 ∧ k < mainBytes) →
    s.gangs.length < 4096 →
    let u := cleanL1d s1 s.hart.home
    let rec_ := BitVec.ofNat 512 (readLE u.mem k 64)
    let code := recordCode s rec_ s.hart.user
    poisoned u k 64 = false →
    (code ≠ 0 → ∃ t, exec (.spawn a d) s = .next t ∧ retiredAt s t (s.hart.pc + 4) ∧
      t.holds d (BitVec.ofNat 64 (2 ^ 63 + code)) ∧ t.gangs = s.gangs) ∧
    (code = 0 → ∃ t x, exec (.spawn a d) s = .next t ∧ retiredAt s t (s.hart.pc + 4) ∧
      t.holds d (s.newGid.zeroExtend 64) ∧ t.nextGid = s.newGid + 1 ∧ s.newGid ≠ 0 ∧ (∀ g ∈ s.gangs, g.gid ≠ s.newGid) ∧
      findGang t s.newGid.toNat = some x ∧ x.gid = s.newGid ∧ x.record = rec_ ∧ x.asid = s.hart.asid ∧ x.posted = s.nextPost ∧
      x.expected = bits (recWord rec_ 2) 0 7 ∧ x.gone = [] ∧ x.home = none ∧
      (bits (recWord rec_ 2) 40 2 = 0 → x.status = .queued) ∧
      (bits (recWord rec_ 2) 40 2 ≠ 0 → x.status = .pending ∨ x.status = .queued) ∧
      t.gangs.map (fun g => (g.gid, g.record, g.asid)) =
        s.gangs.map (fun g => (g.gid, g.record, g.asid)) ++ [(s.newGid, rec_, s.hart.asid)])

/-- R127, R128: GBAR of a member of a gang with nothing under way: the arrival is counted and the hart waits at the phase it
arrived in; when A + X reaches E the phase completes: the phase number increases, E loses the exits, A and X are 0, and the latest
GTSCFG since the last phase is the scheduler state of every member (R211). -/
def Obligations.GangBarrier : Prop :=
  ∀ (s : State) (g : Gang), s.quiet 4 → s.hart.tact = false → findGang s s.hart.name.1 = some g →
    ∃ t g', exec .gbar s = .next t ∧ t.hart.st = .wait ∧ t.hart.waits = .barrier g.phase ∧ t.hart.pc = s.hart.pc ∧
      t.hart.csr.retired = s.hart.csr.retired ∧ findGang t s.hart.name.1 = some g' ∧
      (g.arrived + 1 + g.exits ≠ g.expected → g'.arrived = g.arrived + 1 ∧ g'.exits = g.exits ∧ g'.phase = g.phase ∧
        g'.expected = g.expected ∧ g'.newGroups = g.newGroups) ∧
      (g.arrived + 1 + g.exits = g.expected → g.exits < g.expected → g'.phase = g.phase + 1 ∧ g'.arrived = 0 ∧ g'.exits = 0 ∧
        g'.expected = g.expected - g.exits ∧ (g.newGroups = [] → ∀ m, g'.groupsOf m = (g.groups, g.nextItem)) ∧
        ∀ x, g.newGroups.getLast? = some x → ∀ m, g'.groupsOf m = (x.groups, x.nextItem))

/-- R128, R129: HEXIT with nothing under way: every token of the hart but q0 is dead, no stream is configured, it holds no core, and
its state is EXITED (R215, R237, R239). The exit is counted: it completes the phase where A + X reaches E, and the last member's adds 1
to the completion counter, after the release at CSCOPE, and retires the gang. That a hart of no gang releases at PACKAGE and frees its
slot is log 51. -/
def Obligations.HartExit : Prop :=
  ∀ (s : State) (n : Nat), n = ((findGang s s.hart.name.1).map Gang.cscope).getD 6 → s.quiet n →
    (∃ t, exec .hexit s = .next t ∧ t.hart.st = .exited ∧ t.hart.cores = [] ∧ t.hart.mq = [] ∧
      (∀ i : Fin 8, i ≠ 0 → t.hart.q[i] = Token.dead) ∧ (∀ i : Fin 8, t.hart.f[i] = none) ∧
      t.hart.csr.retired = s.hart.csr.retired + 1 ∧
      (∀ b ∈ t.bays, ¬ (b.gang.toNat = s.hart.name.1 ∧ b.member = s.hart.name.2))) ∧
    ∀ x, findGang s s.hart.name.1 = some x →
      let released := releaseL1d s x.cscope
      (x.gone.length + 1 ≠ x.gsize →
        ∃ t y, exec .hexit s = .next t ∧ findGang t s.hart.name.1 = some y ∧ y.gone = x.gone ++ [s.hart.name.2] ∧
          t.mem = released.mem ∧
          (x.arrived + x.exits + 1 ≠ x.expected ∨ x.exits + 1 = x.expected → y.exits = x.exits + 1 ∧ y.arrived = x.arrived ∧
            y.phase = x.phase ∧ y.expected = x.expected) ∧
          (x.arrived + x.exits + 1 = x.expected → x.exits + 1 < x.expected → y.exits = 0 ∧ y.arrived = 0 ∧
            y.phase = x.phase + 1 ∧ y.expected = x.expected - (x.exits + 1))) ∧
      (x.gone.length + 1 = x.gsize →
        (∃ t, exec .hexit s = .next t ∧ findGang t s.hart.name.1 = none ∧ (∀ h ∈ t.parked, h.name.1 ≠ s.hart.name.1) ∧
          (x.caddr = 0 → t.mem = released.mem)) ∧
        ∀ k u, s.memoryOk → x.caddr ≠ 0 → inWindow x.caddr = false →
          deviceSite released (x.home.getD 0) x.asid true .store x.caddr 8 = some (.key k, u) → poisoned u k 8 = false →
          ∃ t, exec .hexit s = .next t ∧ loadWord t k = loadWord u k + 1 ∧
            ∀ a, (a < k ∨ k + 8 ≤ a) → memRead t.mem a = memRead u.mem a)

/-! ### Vector length, types and element arithmetic -/

/-- R46, R137: VSETVL grants the least of the request, VLMAXC/w and BUDGET/w, and VSETVL.X the request itself; the first of a
hart zeroes the footprint's registers, every tag and every mask and clears VDIRTY. VSETVL.X traps NO_VL for a request beyond
VLMAXC/w. That both leave VSTART as it is (R43) is log 46. -/
def Obligations.VectorLengthIsGranted : Prop :=
  ∀ (w : BitVec 3) (a d : BitVec 5) (s : State), w.toNat ≤ 5 → s.unpoisoned [a] →
    let width := [4, 8, 16, 32, 64, 16].getD w.toNat 0
    let lim := s.hart.csr.vlmaxc.toNat / width
    let Granted := fun (i : Instr) (g : Nat) => ∃ t, exec i s = .next t ∧ retiredAt s t (s.hart.pc + 4) ∧
      t.holds d (BitVec.ofNat 64 g) ∧ t.hart.csr.vl = BitVec.ofNat 64 g ∧ t.von = true ∧
      (s.von = true → Frame { s := [d], csr := [0x000] } s t) ∧
      (s.von = false → (∀ i : Fin 32, t.hart.v[i].tag = 0 ∧ (i.val < s.foot → t.hart.v[i].data = 0 ∧ t.hart.v[i].poison = 0)) ∧
        (∀ k : Fin 8, t.hart.k[k] = MaskReg.zero) ∧ t.hart.csr.vdirty = 0 ∧
        Frame { s := [d], v := List.range 32, k := List.range 8, csr := [0x000, 0x002, 0x004] } s t)
    Granted (.vsetvl w a d) (min (s.rs a).toNat (min lim (s.hart.csr.budget.toNat / width))) ∧
    ((s.rs a).toNat ≤ lim → Granted (.vsetvlX w a d) (s.rs a).toNat) ∧
    (lim < (s.rs a).toNat → s.hart.tact = false → Traps (.vsetvlX w a d) s 0x09 0)

/-- R138: VCFG gives vd the tag of sb[31:0], with its sorted fields clear, and leaves its bits; a tag that is not well-formed
for the register traps TYPE_MISMATCH. -/
def Obligations.VcfgSetsTheTag : Prop :=
  ∀ (b d : BitVec 5) (s : State) (cv : Convoy), s.issues { whole := true, vw := [d.toNat], sr := [b.toNat] } cv →
    let tag : VTag := (s.rs b).extractLsb' 0 32 &&& 0xFF00001F
    let good := bit (s.rs b) 5 = false ∧ bits (s.rs b) 32 32 = 0 ∧ tagOk tag d.toNat s.foot = true
    (good → ∃ t, exec (.vcfg b d) s = .next t ∧ Completed s t cv ∧ Tagged t d.toNat tag ∧
      (t.v d.toNat).data = (s.v d.toNat).data ∧ (t.v d.toNat).poison = (s.v d.toNat).poison ∧
      Frame { v := [d.toNat], csr := [0x001, 0x002] } s t) ∧
    (¬ good → s.hart.tact = false → Traps (.vcfg b d) s 0x0B (BitVec.ofNat 64 (bits (s.rs b) 0 5)))

/-- R51, R87, R131, R139: element arithmetic: for every operands whose types R87 allows, every active element from VSTART
below n takes the value of the table of R139 in the TYPE of va, wrapped for integers and rounded for floating point, every
other element keeps its value, vd takes the type and the flags merge. Operands of types that R87 does not allow trap: SCALE or
TYPE_MISMATCH; VLDEXP with an immediate traps TYPE_MISMATCH on every path. An overflow to E4M3 is log 47, a result tag that holds TYPE
alone log 60. -/
def Obligations.ElementArithmetic : Prop :=
  ∀ (c : Bool) (k : BitVec 3) (b a d : BitVec 5),
    let num := fun (t : Nat) (f : FRes) (z : Int) => if isFp t then f else wrapped t z
    let V := VSrc.vec b
    let S := VSrc.sca b
    let I := VSrc.imm b
    let add := fun m t _ p q => num t (fpAdd (fmtOf t) m p q) (intOf t p + intOf t q)
    let sub := fun m t _ p q => num t (fpSub (fmtOf t) m p q) (intOf t p - intOf t q)
    let mul := fun m t _ p q => num t (fpMul (fmtOf t) m p q) (intOf t p * intOf t q)
    let mulh := fun _ t u p q => wrapped t (intOf t p * intOf u q / (2 ^ typeWidth t : Nat))
    let div := fun m t _ p q => num t (fpDiv (fmtOf t) m p q) (if intOf t q = 0 then -1 else (intOf t p).tdiv (intOf t q))
    let mn := fun _ t _ p q => num t (fpMinMax (fmtOf t) false p q) (min (intOf t p) (intOf t q))
    let mx := fun _ t _ p q => num t (fpMinMax (fmtOf t) true p q) (max (intOf t p) (intOf t q))
    let and := fun _ _ _ p q => pattern (p &&& q)
    let or := fun _ _ _ p q => pattern (p ||| q)
    let xor := fun _ _ _ p q => pattern (p ^^^ q)
    let shl := fun _ t _ p q => pattern (p * 2 ^ (q % typeWidth t))
    let shr := fun _ t _ p q => wrapped t (intOf t p / (2 ^ (q % typeWidth t) : Nat))
    let ldexp := fun m t _ p q => fpLdexp (fmtOf t) m p (BitVec.ofNat (typeWidth t) q).toInt
    let sgn := fun _ t _ p q => pattern (p % 2 ^ (typeWidth t - 1) + q / 2 ^ (typeWidth t - 1) * 2 ^ (typeWidth t - 1))
    (Arith (.vaddVV c k b a d) c .ab k V a d sameNumber add ∧ Arith (.vaddVS c k b a d) c .ab k S a d sameNumber add ∧
      Arith (.vaddVI c k b a d) c .ab k I a d sameNumber add) ∧
    (Arith (.vsubVV c k b a d) c .ab k V a d sameNumber sub ∧ Arith (.vsubVS c k b a d) c .ab k S a d sameNumber sub ∧
      Arith (.vsubVI c k b a d) c .ab k I a d sameNumber sub) ∧
    (Arith (.vmulVV c k b a d) c .ab k V a d sameNumber mul ∧ Arith (.vmulVS c k b a d) c .ab k S a d sameNumber mul) ∧
    (Arith (.vmulhVV c k b a d) c .ab k V a d integerPair mulh ∧ Arith (.vmulhVS c k b a d) c .ab k S a d integerPair mulh) ∧
    (Arith (.vdivVV c k b a d) c .b k V a d sameNumber div ∧ Arith (.vdivVS c k b a d) c .b k S a d sameNumber div) ∧
    (Arith (.vminVV c k b a d) c .ab k V a d sameNumber mn ∧ Arith (.vminVS c k b a d) c .ab k S a d sameNumber mn) ∧
    (Arith (.vmaxVV c k b a d) c .ab k V a d sameNumber mx ∧ Arith (.vmaxVS c k b a d) c .ab k S a d sameNumber mx) ∧
    (Arith (.vandVV c k b a d) c .ab k V a d patternPair and ∧ Arith (.vandVS c k b a d) c .ab k S a d patternPair and ∧
      Arith (.vandVI c k b a d) c .ab k I a d patternPair and) ∧
    (Arith (.vorVV c k b a d) c .ab k V a d patternPair or ∧ Arith (.vorVS c k b a d) c .ab k S a d patternPair or ∧
      Arith (.vorVI c k b a d) c .ab k I a d patternPair or) ∧
    (Arith (.vxorVV c k b a d) c .ab k V a d patternPair xor ∧ Arith (.vxorVS c k b a d) c .ab k S a d patternPair xor ∧
      Arith (.vxorVI c k b a d) c .ab k I a d patternPair xor) ∧
    (Arith (.vshlVV c k b a d) c .ab k V a d integerPair shl ∧ Arith (.vshlVS c k b a d) c .ab k S a d integerPair shl ∧
      Arith (.vshlVI c k b a d) c .ab k I a d integerPair shl) ∧
    (Arith (.vshrVV c k b a d) c .ab k V a d integerPair shr ∧ Arith (.vshrVS c k b a d) c .ab k S a d integerPair shr ∧
      Arith (.vshrVI c k b a d) c .ab k I a d integerPair shr) ∧
    (Arith (.vldexpVV c k b a d) c .ab k V a d scalePair ldexp ∧ Arith (.vldexpVS c k b a d) c .ab k S a d scalePair ldexp ∧
      ArithTraps (.vldexpVI c k b a d) c .ab k I a d fun _ _ => false) ∧
    (Arith (.vsgnVV c k b a d) c .ab k V a d sameFloat sgn ∧ Arith (.vsgnVS c k b a d) c .ab k S a d sameFloat sgn)

/-- R139, R142, R145, R146: VFMA, VSEL, the carry chains and the widening operations. A result tag that holds TYPE alone is log 60. -/
def Obligations.FusedCarriedAndWidened : Prop :=
  ∀ (c : Bool) (k : BitVec 3) (b a d : BitVec 5),
    let V := VSrc.vec b
    let S := VSrc.sca b
    let Fma := fun (i : Instr) (x : VSrc) =>
      Lanes i (fun _ => { useOf c .ab k a d x with vr := (useOf c .ab k a d x).vr ++ [d.toNat] })
        (fun s => s.legalTypes (a.toNat :: x.regs) ∧ s.noScale (a.toNat :: x.regs ++ [d.toNat]) ∧
          sameNumber (s.vtype a.toNat) (x.type s) = true ∧ s.vtype d.toNat = s.vtype a.toNat)
        k.toNat d.toNat [] (fun _ => 1) (fun s => typeTag (s.vtype a.toNat)) (fun s => s.nOf (typeWidth (s.vtype a.toNat)))
        (fun s e =>
          let t := s.vtype a.toNat
          let p := s.elem a.toNat (plain t) e
          let q := x.at s (plain t) e
          let y := s.elem d.toNat (plain t) e
          if isFp t then fpFma (fmtOf t) s.rm p q y else wrapped t (intOf t y + intOf t p * intOf t q))
    Fma (.vfmaVV c k b a d) V ∧ Fma (.vfmaVS c k b a d) S ∧
    Selects (.vselVV c k b a d) c k V a d ∧ Selects (.vselVS c k b a d) c k S a d ∧
    Selects (.vselVI c k b a d) c k (.imm b) a d ∧
    Carries (.vadcVV c k b a d) c k V a d (fun p q r => p + q + r) ∧
    Carries (.vadcVS c k b a d) c k S a d (fun p q r => p + q + r) ∧
    Carries (.vsbcVV c k b a d) c k V a d (fun p q r => p - q - r) ∧
    Carries (.vsbcVS c k b a d) c k S a d (fun p q r => p - q - r) ∧
    Widens (.vwaddVV c k b a d) c k V a d false (fun p q _ => p + q) (fun p q _ => [p, q]) ∧
    Widens (.vwaddVS c k b a d) c k S a d false (fun p q _ => p + q) (fun p q _ => [p, q]) ∧
    Widens (.vwmulVV c k b a d) c k V a d false (fun p q _ => p * q) (fun p q _ => [p.mul q]) ∧
    Widens (.vwmulVS c k b a d) c k S a d false (fun p q _ => p * q) (fun p q _ => [p.mul q]) ∧
    Widens (.vwfmaVV c k b a d) c k V a d true (fun p q y => p * q + y) (fun p q y => [p.mul q, y]) ∧
    Widens (.vwfmaVS c k b a d) c k S a d true (fun p q y => p * q + y) (fun p q y => [p.mul q, y])

/-- R71, R140, R141, R148, R149, R150: VABS, VRND, the functions of VSFU, and the conversions, those that widen and those that
narrow. The values of VSFU within their bound are free values (log 17); an overflow to E4M3 is log 47, a result tag that holds TYPE
alone log 60. VCVT of planes over its own source takes each element as the elements before it have left it. -/
def Obligations.UnaryAndConversions : Prop :=
  ∀ (c : Bool) (k m : BitVec 3) (ty a d : BitVec 5),
    let fp := fun t : Nat => 9 ≤ t ∧ t ≤ 12
    let sf := fun (n : Nat) (s : State) (t p : Nat) => sfu (fmtOf t) n t s.rm p
    Unary (.vabs c k a d) c .ab k a d (fun t => 1 ≤ t ∧ t ≤ 12)
      (fun _ t p => if isFp t then pattern (p % 2 ^ (typeWidth t - 1)) else wrapped t (intOf t p).natAbs) ∧
    Unary (.vrnd c k m a d) c .ab k a d fp (fun s t p => fpRoundInt (fmtOf t) (effMode m s.hart.csr.vrm) p) ∧
    Unary (.vsfuRcp c k a d) c .b k a d fp (sf 0) ∧ Unary (.vsfuRsqrt c k a d) c .b k a d fp (sf 1) ∧
    Unary (.vsfuSqrt c k a d) c .b k a d fp (sf 2) ∧ Unary (.vsfuExp2 c k a d) c .b k a d fp (sf 3) ∧
    Unary (.vsfuLog2 c k a d) c .b k a d fp (sf 4) ∧ Unary (.vsfuSin c k a d) c .b k a d fp (sf 5) ∧
    Unary (.vsfuCos c k a d) c .b k a d fp (sf 6) ∧
    (let n := fun s : State => s.nOf (typeWidth (s.vtype a.toNat))
     let whole := fun s : State => ∀ e ∈ s.lanes k.toNat (n s),
       isReserved (elTy (s.vtag a.toNat)) (s.elem a.toNat (elTy (s.vtag a.toNat)) e) = false
     Lanes (.vcvt c k ty a d)
       (fun s => { c := c, cls := some .ab, vr := [a.toNat], vw := [d.toNat], reads := scaleUse s a.toNat, kr := [k.toNat] })
       (fun s => s.legalTypes [a.toNat] ∧ s.scaled a.toNat ∧ whole s ∧ 1 ≤ ty.toNat ∧ ty.toNat ≤ 15 ∧
         typeWidth ty.toNat = typeWidth (s.vtype a.toNat) ∧
         (isPlaneType (s.vtype a.toNat) = true → ty.toNat ∈ [2, 6, 11, 12] ∧ d ≠ a))
       k.toNat d.toNat [] (fun _ => 1) (fun _ => typeTag ty.toNat) n
       (fun s e => converted ty.toNat s.rm (isPlaneType (s.vtype a.toNat)) (s.exactElem a.toNat e)) ∧
     (∀ (s : State) (cv : Convoy),
       let l := s.lanes k.toNat (n s)
       let res := fun (u : State) (e : Nat) => converted ty.toNat s.rm true (u.exactElem a.toNat e)
       let upTo := fun m : Nat => (l.take m).foldl (fun u e => u.setElem a.toNat (plain ty.toNat) e (res u e).code) s
       let r := fun e : Nat => res (upTo (l.idxOf e)) e
       let old := elTy (s.vtag a.toNat)
       s.issues { c := c, cls := some .ab, vr := [a.toNat], vw := [a.toNat], kr := [k.toNat] } cv → s.spanOk →
         s.cleanFor [a.toNat] [k.toNat] → isPlaneType (s.vtype a.toNat) = true → VTag.sc (s.vtag a.toNat) = false →
         ty.toNat ∈ [2, 6, 11, 12] → (∀ e ∈ l, isReserved old ((upTo (l.idxOf e)).elem a.toNat old e) = false) →
         ∃ t, exec (.vcvt c k ty a a) s = .next t ∧ Completed s t cv ∧ Tagged t a.toNat (typeTag ty.toNat) ∧ Flagged s t l r ∧
           (∀ e, e < 65536 * s.span / 16 →
             t.elem a.toNat (plain ty.toNat) e = (upTo l.length).elem a.toNat (plain ty.toNat) e) ∧
           Frame { v := [a.toNat], csr := vectorCsrs } s t) ∧
     let ρ := fun s : State => typeWidth ty.toNat / typeWidth (s.vtype a.toNat)
     Lanes (.vunpack c k ty a d)
       (fun s => { c := c, cls := some .b, vr := [a.toNat], reads := scaleUse s a.toNat,
                   writes := (List.range (ρ s)).map (d.toNat + ·), kr := [k.toNat] })
       (fun s => s.legalTypes [a.toNat] ∧ s.scaled a.toNat ∧ unpackLegal (s.vtype a.toNat) ty.toNat = true ∧
         d.toNat % ρ s = 0 ∧ ∀ j < ρ s, d.toNat + j < s.foot ∧ d.toNat + j < 32)
       k.toNat d.toNat [a.toNat] ρ (fun _ => typeTag ty.toNat) n
       (fun s e => converted ty.toNat s.rm false (s.exactElem a.toNat e))) ∧
    (∀ y : Bool, Packs (.vpack2 c y m ty a d) 2 [11, 12] c y m ty a d ∧ Packs (.vpack4 c y m ty a d) 4 [13, 14, 15] c y m ty a d)

/-- R75, R143: the compares: the mask bit of every active element is the relation of va and the last source, a NaN making it
unordered; inactive bits keep their values and bits from n on are 0. -/
def Obligations.VectorCompares : Prop :=
  ∀ (c : Bool) (k : BitVec 3) (b a d : BitVec 5),
    let V := VSrc.vec b
    let S := VSrc.sca b
    Compares (.vcmpEqVV c k b a d) c k V a d (fun o => o = some .eq) ∧
    Compares (.vcmpNeVV c k b a d) c k V a d (fun o => o ≠ some .eq) ∧
    Compares (.vcmpLtVV c k b a d) c k V a d (fun o => o = some .lt) ∧
    Compares (.vcmpLeVV c k b a d) c k V a d (fun o => o = some .lt ∨ o = some .eq) ∧
    Compares (.vcmpGtVV c k b a d) c k V a d (fun o => o = some .gt) ∧
    Compares (.vcmpGeVV c k b a d) c k V a d (fun o => o = some .gt ∨ o = some .eq) ∧
    Compares (.vcmpOrdVV c k b a d) c k V a d (fun o => o ≠ none) ∧
    Compares (.vcmpUnordVV c k b a d) c k V a d (fun o => o = none) ∧
    Compares (.vcmpEqVS c k b a d) c k S a d (fun o => o = some .eq) ∧
    Compares (.vcmpNeVS c k b a d) c k S a d (fun o => o ≠ some .eq) ∧
    Compares (.vcmpLtVS c k b a d) c k S a d (fun o => o = some .lt) ∧
    Compares (.vcmpLeVS c k b a d) c k S a d (fun o => o = some .lt ∨ o = some .eq) ∧
    Compares (.vcmpGtVS c k b a d) c k S a d (fun o => o = some .gt) ∧
    Compares (.vcmpGeVS c k b a d) c k S a d (fun o => o = some .gt ∨ o = some .eq) ∧
    Compares (.vcmpOrdVS c k b a d) c k S a d (fun o => o ≠ none) ∧
    Compares (.vcmpUnordVS c k b a d) c k S a d (fun o => o = none)

/-- R144: the mask operations read and write the first VL bits of masks; the bits from VL on are 0. -/
def Obligations.MaskOperations : Prop :=
  ∀ (c : Bool) (b a d : BitVec 5),
    let on := fun (s : State) (k : BitVec 5) (e : Nat) => s.active k.toNat e
    MaskWrites (.kand c b a d) c [a, b] [] d (fun s e => on s a e && on s b e) ∧
    MaskWrites (.kor c b a d) c [a, b] [] d (fun s e => on s a e || on s b e) ∧
    MaskWrites (.kxor c b a d) c [a, b] [] d (fun s e => on s a e != on s b e) ∧
    MaskWrites (.kandn c b a d) c [a, b] [] d (fun s e => on s a e && !on s b e) ∧
    MaskWrites (.knot c a d) c [a] [] d (fun s e => !on s a e) ∧
    MaskWrites (.kshl c a d) c [a] [] d (fun s e => decide (0 < e) && on s a (e - 1)) ∧
    MaskWrites (.kshr c a d) c [a] [] d (fun s e => decide (e + 1 < s.hart.csr.vl.toNat) && on s a (e + 1)) ∧
    MaskWrites (.kmovs c a d) c [] [a] d (fun s e => decide (e < 64) && (s.rs a).getLsbD e) ∧
    MaskReads (.kpopc c a d) c a d
      (fun s => BitVec.ofNat 64 ((List.range s.hart.csr.vl.toNat).countP fun e => on s a e)) ∧
    MaskReads (.kfirst c a d) c a d
      (fun s => (((List.range s.hart.csr.vl.toNat).find? fun e => on s a e).map (BitVec.ofNat 64)).getD (BitVec.allOnes 64))

/-- R147, R151-R156: moves and permutes: what each element of the destination takes, slice by slice, with the tag it takes. That VZIP
and VUNZIP read va+1 under va's tag, and give both destinations va's whole tag, is log 61. -/
def Obligations.MovesAndPermutes : Prop :=
  ∀ (c : Bool) (k : BitVec 3) (b a d : BitVec 5),
    let own := fun s : State => s.nOf (elTy (s.vtag d.toNat)).w
    let ab := fun s : State => elTy (s.vtag a.toNat)
    (Lanes (.vmv c k a d) (fun _ => { c := c, cls := some .mp, vr := [a.toNat], vw := [d.toNat], kr := [k.toNat] })
      (fun s => s.legalTypes [a.toNat] ∧ s.movables [a.toNat]) k.toNat d.toNat [] (fun _ => 1)
      (fun s =>
        let tag := s.vtag a.toNat
        let len := min (VTag.len tag) (s.nOf (ab s).w)
        if VTag.s tag = true ∧ VTag.pay tag = false ∧ k = 0 ∧ s.vstart = 0 then
          sortedTag tag (VTag.dir tag) false (strictRun s a.toNat (ab s) len) len
        else VTag.unsorted tag)
      (fun s => s.nOf (ab s).w) (fun s e => pattern (s.elem a.toNat (ab s) e))) ∧
    (Lanes (.vbcast c k b d) (fun _ => { c := c, cls := some .mp, vw := [d.toNat], kr := [k.toNat], sr := [b.toNat] })
      (fun s => s.legalTypes [d.toNat]) k.toNat d.toNat [] (fun _ => 1)
      (fun s => VTag.unsorted (s.vtag d.toNat)) own (fun s _ => pattern (s.rs b).toNat)) ∧
    (Lanes (.vidx c k d) (fun _ => { c := c, cls := some .mp, vw := [d.toNat], kr := [k.toNat] })
      (fun s => isInt (s.vtype d.toNat) = true) k.toNat d.toNat [] (fun _ => 1)
      (fun s => VTag.unsorted (s.vtag d.toNat)) own (fun _ e => pattern e)) ∧
    Permutes (.viota c k d) (fun _ => { c := c, cls := some .mp, cross := true, vw := [d.toNat], kr := [k.toNat] })
      (fun s => isInt (s.vtype d.toNat) = true) [d.toNat] (fun s => VTag.unsorted (s.vtag d.toNat))
      (fun s _ e => if e < own s then some (s.rankOf k.toNat (elTy (s.vtag d.toNat)) e) else none) (fun _ => 0) ∧
    Permutes (.vins c b a d) (fun _ => { c := c, cls := some .mp, vw := [d.toNat], sr := [a.toNat, b.toNat] })
      (fun s => s.legalTypes [d.toNat]) [d.toNat] (fun s => VTag.unsorted (s.vtag d.toNat))
      (fun s _ e => if e < own s ∧ e = (s.rs b).toNat then some (s.rs a).toNat else none)
      (fun s => if own s ≤ (s.rs b).toNat then 8 else 0) ∧
    (∀ (s : State) (cv : Convoy),
      s.issues { c := c, cls := some .mp, cross := true, whole := true, vr := [a.toNat], sr := [b.toNat], sw := [d.toNat] } cv →
      s.cleanFor [a.toNat] [] → s.legalTypes [a.toNat] → s.movables [a.toNat] →
      let i := (s.rs b).toNat
      let x := s.elem a.toNat (rawTy (s.vtag a.toNat)) i
      ∃ t, exec (.vext c b a d) s = .next t ∧ Completed s t cv ∧
        t.holds d (if s.nOf (ab s).w ≤ i then 0
          else if isInt (s.vtype a.toNat) then extend (s.vtype a.toNat) x else BitVec.ofNat 64 x) ∧
        t.hart.csr.vstat = (if s.nOf (ab s).w ≤ i then s.hart.csr.vstat ||| 8 else s.hart.csr.vstat) ∧
        Frame { s := [d], csr := [0x001, 0x004], known := true } s t) ∧
    Slides (.vslideup c k b a d) c k a d [b] (fun s ty n e =>
      let l := s.localOf ty e
      if e < n ∧ s.active k.toNat e ∧ (s.rs b).toNat ≤ l then
        some (s.elem a.toNat ty (s.elemAt ty (s.sliceOf ty e) (l - (s.rs b).toNat))) else none) ∧
    Slides (.vslidedn c k b a d) c k a d [b] (fun s ty n e =>
      let x := s.elemAt ty (s.sliceOf ty e) (s.localOf ty e + (s.rs b).toNat)
      if e < n ∧ s.active k.toNat e then some (if x < n then s.elem a.toNat ty x else 0) else none) ∧
    Slides (.vslide1 c k b a d) c k a d [b] (fun s ty n e =>
      let l := s.localOf ty e
      if e < n ∧ s.active k.toNat e then
        some (if l = 0 then (s.rs b).toNat else s.elem a.toNat ty (s.elemAt ty (s.sliceOf ty e) (l - 1))) else none) ∧
    Slides (.vcompress c k a d) c k a d [] (fun s ty n e =>
      if e < n then some ((((List.range n).find? fun x => s.sliceOf ty x == s.sliceOf ty e && s.active k.toNat x &&
        s.rankOf k.toNat ty x == s.localOf ty e).map (s.elem a.toNat ty)).getD 0) else none) ∧
    Slides (.vexpand c k a d) c k a d [] (fun s ty n e =>
      if e < n ∧ s.active k.toNat e then
        some (s.elem a.toNat ty (s.elemAt ty (s.sliceOf ty e) (s.rankOf k.toNat ty e))) else none) ∧
    (let signed := fun s : State => isSigned (s.vtype b.toNat)
     let n := fun s : State => min s.hart.csr.vl.toNat (s.hart.csr.vlmaxc.toNat / max (ab s).w (typeWidth (s.vtype b.toNat)))
     let j := fun (s : State) (e : Nat) => s.elem b.toNat (plain (s.vtype b.toNat)) e
     let p := fun (s : State) (e : Nat) => if signed s then j s e / 2 else j s e
     let beyond := fun (s : State) (e : Nat) => decide ((if signed s then 2 * n s else n s) ≤ j s e)
     let cross := fun (s : State) (e : Nat) => !beyond s e && s.sliceOf (ab s) (p s e) != s.sliceOf (ab s) e
     let l := fun s : State => (List.range (n s)).filter fun e => s.active k.toNat e
     Permutes (.vgather c k b a d)
       (fun s => { c := c, cls := some .mp, cross := true, vr := [a.toNat, b.toNat],
                   reads := if signed s then [a.toNat + 1] else [], vw := [d.toNat], kr := [k.toNat] })
       (fun s => s.legalTypes [a.toNat, b.toNat] ∧ s.movables [a.toNat] ∧ s.noScale [b.toNat] ∧
         isInt (s.vtype b.toNat) = true ∧
         (signed s = true → a.toNat % 2 = 0 ∧ a.toNat + 1 < s.foot ∧ s.vtype (a.toNat + 1) = s.vtype a.toNat ∧
           s.movables [a.toNat + 1]))
       [d.toNat] (fun s => VTag.unsorted (s.vtag a.toNat))
       (fun s _ e => if e ∈ l s then some (if beyond s e || cross s e then 0
          else s.elem (if signed s then a.toNat + j s e % 2 else a.toNat) (ab s) (p s e)) else none)
       (fun s => (if (l s).any (beyond s) then 8 else 0) ||| (if (l s).any (cross s) then 4 else 0))) ∧
    Permutes (.vxchg b a d) (fun _ => { cross := true, vr := [a.toNat], vw := [d.toNat], sr := [b.toNat] })
      (fun s => s.legalTypes [a.toNat] ∧ s.movables [a.toNat]) [d.toNat] (fun s => VTag.unsorted (s.vtag a.toNat))
      (fun s _ e => if e < s.nOf (ab s).w then
        some (s.elem a.toNat (ab s) (s.elemAt (ab s) (s.sliceOf (ab s) e ^^^ (s.rs b).toNat % s.span) (s.localOf (ab s) e)))
        else none) (fun _ => 0) ∧
    Zips (.vzip c a d) c a d (fun _ j => (j % 2, j / 2)) (fun m j => (j / m, j % m)) ∧
    Zips (.vunzip c a d) c a d (fun m j => (j / m, j % m)) (fun _ j => (j % 2, j / 2))

/-- R73, R157-R162: the reductions, VSOFT, VRAND and VROPE. The values of VSOFT, VRLOG and VROPE within their bounds are free values
(log 17), and the block function of VRAND is that of RFC 8439 (log 14). -/
def Obligations.ReductionsAndGenerators : Prop :=
  ∀ (c : Bool) (k : BitVec 3) (b a d : BitVec 5),
    let num := fun t : Nat => 1 ≤ t ∧ t ≤ 12
    let fp := fun t : Nat => 9 ≤ t ∧ t ≤ 12
    let el := fun (t : Nat) (r : FRes) => (if isInt t then extend t r.code else BitVec.ofNat 64 r.code, r.flags)
    Reduces (.vrsumO c k a d) c k a d num (fun m t l _ => el t (rootRes t (orderedReduce (addRes t m) (l.map (·.2))) 0)) ∧
    Reduces (.vrsumT c k a d) c k a d num (fun m t l n => el t (rootRes t (treeReduce (addRes t m) l n) 0)) ∧
    Reduces (.vrmax c k a d) c k a d num
      (fun _ t l n => el t (rootRes t (treeReduce (extremeRes t true) l n) (emptyExtreme t true))) ∧
    Reduces (.vrmin c k a d) c k a d num
      (fun _ t l n => el t (rootRes t (treeReduce (extremeRes t false) l n) (emptyExtreme t false))) ∧
    Reduces (.vrlog c k a d) c k a d fp (fun _ t l n =>
      let m := rootRes t (treeReduce (extremeRes t true) l n) (emptyExtreme t true)
      let r := logSumExp (fmtOf t) (l.map fun x => (fmtOf t).val x.2) ((fmtOf t).val m.code) (Config.rlogPick t l)
      match (fmtOf t).val m.code with
      | .fin .. => el t ⟨r.code, r.flags ||| m.flags, false⟩
      | _ => el t m) ∧
    Reduces (.vmaxidx c k a d) c k a d num (fun _ t l _ =>
      ((((l.find? fun x => l.all fun y => decide (orderedKey t y.2 ≤ orderedKey t x.2)).map fun x => BitVec.ofNat 64 x.1)).getD
        (BitVec.allOnes 64), 0)) ∧
    (∀ (s : State) (cv : Convoy), b.toNat % 4 = 0 →
      s.issues { c := c, cls := some .b, cross := true, whole := true, vr := [a.toNat], vw := [d.toNat], kr := [k.toNat],
                 sr := [b.toNat, b.toNat + 1], sw := [b.toNat, b.toNat + 1, b.toNat + 2] } cv →
      s.spanOk → s.cleanFor [a.toNat] [k.toNat] → s.noScale [a.toNat] → fp (s.vtype a.toNat) →
      let t0 := s.vtype a.toNat
      let n := s.nOf (typeWidth t0)
      let w := if t0 = 9 then 64 else 32
      let l := s.activeOf a.toNat k.toNat (plain t0) n
      let x := softStep t0 s.rm ((s.rs b).toNat % 2 ^ w) ((s.rs (b + 1)).toNat % 2 ^ w) l n
      ∃ t, exec (.vsoft c k b a d) s = .next t ∧ Completed s t cv ∧ Tagged t d.toNat (typeTag t0) ∧
        t.holds b (BitVec.ofNat 64 x.m) ∧ t.holds (b + 1) (BitVec.ofNat 64 x.sum) ∧ t.holds (b + 2) (BitVec.ofNat 64 x.c) ∧
        t.hart.csr.vflags = s.hart.csr.vflags ||| x.flags.zeroExtend 64 ∧
        (∀ e, e < 65536 * s.span / typeWidth t0 → t.elem d.toNat (plain t0) e =
          (((x.puts.find? fun p => p.1 == e).map fun p => p.2 % 2 ^ typeWidth t0).getD (s.elem d.toNat (plain t0) e))) ∧
        Frame { s := [b, b + 1, b + 2], v := [d.toNat], csr := [0x001, 0x002, 0x003], known := true } s t) ∧
    (∀ (s : State) (cv : Convoy), s.issues { c := c, cls := some .b, vw := [d.toNat], kr := [k.toNat] } cv → s.spanOk →
      s.cleanFor [] [k.toNat] → s.legalTypes [d.toNat] → isPlaneType (s.vtype d.toNat) = false →
      let ty := elTy (s.vtag d.toNat)
      let n := s.nOf ty.w
      let z := s.hart.csr
      let block := fun i => chachaBlock z.key0 z.key1 z.key2 z.key3 (z.counter + BitVec.ofNat 64 i) z.nonce
      ∃ t, exec (.vrand c k d) s = .next t ∧ Completed s t cv ∧ Tagged t d.toNat (VTag.unsorted (s.vtag d.toNat)) ∧
        t.hart.csr.counter = z.counter + BitVec.ofNat 64 ((n * ty.w + 511) / 512) ∧
        (∀ e, e < 65536 * s.span / ty.w → t.elem d.toNat ty e =
          if e ∈ s.lanes k.toNat n then block (e * ty.w / 512) / 2 ^ (e * ty.w % 512) % 2 ^ ty.w else s.elem d.toNat ty e) ∧
        Frame { v := [d.toNat], csr := [0x001, 0x002, 0x02C] } s t) ∧
    (∀ (s : State) (cv : Convoy),
      s.issues { c := c, cls := some .b, vr := [a.toNat, d.toNat, d.toNat + 1], vw := [d.toNat, d.toNat + 1], kr := [k.toNat],
                 sr := [b.toNat] } cv → s.spanOk →
      s.cleanFor [a.toNat, d.toNat, d.toNat + 1] [k.toNat] → s.noScale [a.toNat, d.toNat, d.toNat + 1] →
      s.vtype a.toNat = 7 → s.vtype d.toNat = 10 → s.vtype (d.toNat + 1) = 10 →
      let n := s.nOf 32
      let turn := fun e => s.elem a.toNat (plain 7) e * ((s.rs b).toNat % 2 ^ 48) % 2 ^ 48
      let x := fun e => fp32.val (s.elem d.toNat (plain 10) e)
      let y := fun e => fp32.val (s.elem (d.toNat + 1) (plain 10) e)
      let r0 := fun e => sumRound fp32 s.rm [(x e).mul (ropeValue (turn e) false), ((y e).mul (ropeValue (turn e) true)).flip]
      let r1 := fun e => sumRound fp32 s.rm [(x e).mul (ropeValue (turn e) true), (y e).mul (ropeValue (turn e) false)]
      ∃ t, exec (.vrope c k b a d) s = .next t ∧ Completed s t cv ∧ Tagged t d.toNat (typeTag 10) ∧
        Tagged t (d.toNat + 1) (typeTag 10) ∧
        (∀ e, e < 65536 * s.span / 32 →
          t.elem d.toNat (plain 10) e = (if e ∈ s.lanes k.toNat n then (r0 e).code % 2 ^ 32 else s.elem d.toNat (plain 10) e) ∧
          t.elem (d.toNat + 1) (plain 10) e =
            (if e ∈ s.lanes k.toNat n then (r1 e).code % 2 ^ 32 else s.elem (d.toNat + 1) (plain 10) e)) ∧
        Frame { v := [d.toNat, d.toNat + 1], csr := vectorCsrs } s t)

/-- R45, R48, R65, R86, R89, R119, R320: the first checks of an instruction of the vector queue, in their order, for an element-wise one
(VADD) and a whole-vector one (VSLIDEUP): NO_VL, ILLEGAL_REG with the least register beyond the footprint, CONVOY_CONFLICT with
the condition that fails, TYPE_ILLEGAL with the register. VSTART stays for the first and is 0 for the second; nothing else
changes. What the order leaves open is log 48. Then the checks that follow, each with the trap and the TVAL of R119: SCALE and
TYPE_MISMATCH of element arithmetic; RESERVED_CODE of VCVT at an element; SPAN_UNSUPPORTED, SORT_REQUIRED and SORT_MISMATCH of
VMERGE_LO; TILE_EXTENT and ACC_BUSY of ZMOVV; NO_PROBE of VLD at an element; the reasons of STREAM of SRD and of LAYOUT of TLD. -/
def Obligations.VectorIssueChecks : Prop :=
  (∀ (c : Bool) (k : BitVec 3) (b a d : BitVec 5) (s : State), s.hart.tact = false →
    let Checks := fun (i : Instr) (u : VUse) (keep : Word) (vs : List Nat) =>
      (s.von = false → TrapsKeeping i s 0x09 0 keep) ∧
      (s.von = true → ∀ r ∈ vs, s.foot ≤ r → (∀ x ∈ vs, x < r → x < s.foot) → TrapsKeeping i s 0x02 (BitVec.ofNat 64 r) keep) ∧
      (s.von = true → (∀ r ∈ vs, r < s.foot) → ∀ n, joinConvoy s.hart.convoy u = .error n →
        TrapsKeeping i s 0x0C (BitVec.ofNat 64 n) keep) ∧
      (s.von = true → (∀ r ∈ vs, r < s.foot) → (∃ cv, joinConvoy s.hart.convoy u = .ok cv) → s.vtype a.toNat = 0 →
        TrapsKeeping i s 0x0A (a.zeroExtend 64) keep)
    Checks (.vaddVV c k b a d) { c := c, cls := some .ab, vr := [a.toNat, b.toNat], vw := [d.toNat], kr := [k.toNat] }
      (BitVec.ofNat 64 s.vstart) [a.toNat, b.toNat, d.toNat] ∧
    Checks (.vslideup c k b a d)
      { c := c, cls := some .mp, cross := true, whole := true, vr := [a.toNat], vw := [d.toNat], kr := [k.toNat], sr := [b.toNat] }
      0 [a.toNat, d.toNat]) ∧
  (∀ (c : Bool) (k : BitVec 3) (b a d : BitVec 5),
    let V := VSrc.vec b
    ArithTraps (.vaddVV c k b a d) c .ab k V a d sameNumber ∧ ArithTraps (.vaddVI c k b a d) c .ab k (.imm b) a d sameNumber ∧
    ArithTraps (.vmulhVV c k b a d) c .ab k V a d integerPair ∧ ArithTraps (.vdivVV c k b a d) c .b k V a d sameNumber ∧
    ArithTraps (.vandVV c k b a d) c .ab k V a d patternPair ∧ ArithTraps (.vshlVV c k b a d) c .ab k V a d integerPair ∧
    ArithTraps (.vldexpVV c k b a d) c .ab k V a d scalePair ∧ ArithTraps (.vsgnVV c k b a d) c .ab k V a d sameFloat) ∧
  (∀ (c : Bool) (q k f z : BitVec 3) (m : BitVec 2) (h : BitVec 4) (ty b a d : BitVec 5) (s : State) (cv : Convoy),
    let keep := BitVec.ofNat 64 s.vstart
    let ofTag := fun r : Nat => (s.vtag r).toNat
    s.hart.tact = false →
    (let t0 := elTy (s.vtag a.toNat)
     ∀ e ∈ s.lanes k.toNat (s.nOf (typeWidth (s.vtype a.toNat))),
       s.issues { c := c, cls := some .ab, vr := [a.toNat], vw := [d.toNat], kr := [k.toNat] } cv → s.spanOk → d ≠ a →
       s.cleanFor [a.toNat] [k.toNat] → isPlaneType (s.vtype a.toNat) = true → VTag.sc (s.vtag a.toNat) = false →
       ty.toNat ∈ [2, 6, 11, 12] → isReserved t0 (s.elem a.toNat t0 e) = true →
       (∀ e' ∈ s.lanes k.toNat (s.nOf (typeWidth (s.vtype a.toNat))), e' < e → isReserved t0 (s.elem a.toNat t0 e') = false) →
       StopsAt (.vcvt c k ty a d) s 0x0D (a.zeroExtend 64) d.toNat (plain ty.toNat) e) ∧
    (let rs := [a.toNat, b.toNat]
     let pays := (rs.filter fun r => VTag.pay (s.vtag r)).map (· + 1)
     let i := Instr.vmergeLo c b a d
     s.issues { c := c, cls := some .mp, cross := true, whole := true, vr := rs ++ pays,
                vw := if pays ≠ [] ∧ d.toNat % 2 = 0 then [d.toNat, d.toNat + 1] else [d.toNat] } cv →
     s.legalTypes (rs ++ pays) → s.noScale rs → (∀ r ∈ rs, isSortable (s.vtype r) = true) →
     (∀ r ∈ pays, s.vtype r = s.vtype (pays.headD 0)) →
     (1 < s.span → TrapsKeeping i s 0x12 s.hart.csr.span 0) ∧
     (s.span ≤ 1 →
       (∀ r, rs.find? (fun r => !VTag.s (s.vtag r)) = some r → TrapsKeeping i s 0x0E (BitVec.ofNat 64 r) 0) ∧
       ((∀ r ∈ rs, VTag.s (s.vtag r) = true) →
         let agree := VTag.type (s.vtag b.toNat) = VTag.type (s.vtag a.toNat) ∧
           VTag.dir (s.vtag b.toNat) = VTag.dir (s.vtag a.toNat) ∧ VTag.pay (s.vtag b.toNat) = VTag.pay (s.vtag a.toNat)
         (¬ agree → TrapsKeeping i s 0x0F (BitVec.ofNat 64 (ofTag a.toNat + ofTag b.toNat * 2 ^ 32)) 0) ∧
         (agree → pays ≠ [] → d.toNat % 2 = 1 → TrapsKeeping i s 0x0F (BitVec.ofNat 64 (ofTag a.toNat)) 0)))) ∧
    (let i := Instr.zmovv c k d a m z
     s.issues { c := c, cls := some .mp, vw := [d.toNat, d.toNat + 1], kr := [k.toNat], sr := [a.toNat], zs := [z.toNat] } cv →
     ((s.tile z).ranked = true ∨ 127 < (s.rs a).toNat → TrapsKeeping i s 0x11 s.hart.csr.vl keep) ∧
     ((s.tile z).ranked = false → (s.rs a).toNat ≤ 127 → ∀ n, s.hart.mq.find? (·.1 == z.toNat) = some (z.toNat, n) →
       TrapsKeeping i s 0x10 (BitVec.ofNat 64 (z.toNat + n * 256)) keep)) ∧
    (let ty := elTy (s.vtag d.toNat)
     let at_ := fun e : Nat => s.rs a + (if ty.w = 4 then BitVec.ofNat 64 (e / 2) else
       BitVec.ofNat 64 e * (if b = 0 then BitVec.ofNat 64 (ty.w / 8) else s.rs b))
     ∀ e, (s.lanes k.toNat (s.nOf ty.w)).head? = some e →
       s.issues { c := c, cls := some .ls, vw := [d.toNat], kr := [k.toNat],
                  sr := a.toNat :: (if b = 0 then [] else [b.toNat]) } cv → s.spanOk → s.cleanFor [] [k.toNat] →
       s.legalTypes [d.toNat] → isPlaneType (s.vtype d.toNat) = false → (b = 0 ∨ s.vtype d.toNat ≠ 15) →
       (at_ e).toNat % elemBytes ty.w = 0 → tokenCovers (s.hart.token q) q (at_ e) (elemBytes ty.w) = false →
       StopsAt (.vld c q k b a d) s 0x08 (BitVec.ofNat 64 (bits (at_ e) 0 52 + q.toNat * 2 ^ 56)) d.toNat ty e) ∧
    (let i := Instr.srd c f d
     let reason := fun n : Nat => BitVec.ofNat 64 (f.toNat + n * 256)
     s.issues { c := c, cls := some .ls, vw := [d.toNat] } cv → s.legalTypes [d.toNat] →
     (s.hart.f[f.toNat] = none → TrapsKeeping i s 0x15 (reason 1) keep) ∧
     (∀ x, s.hart.f[f.toNat] = some x →
       (x.writes = true → TrapsKeeping i s 0x15 (reason 2) keep) ∧
       (x.writes = false → typeWidth (s.vtype d.toNat) ≠ x.width → TrapsKeeping i s 0x15 (reason 3) keep))) ∧
    (let i := Instr.tld c k b h d
     let reason := fun n : Nat => BitVec.ofNat 64 (h.toNat + n * 256)
     s.issues { c := c, cls := some .ls, vw := [d.toNat], kw := [k.toNat], sr := originRegs s h b } cv → s.legalTypes [d.toNat] →
     (s.hart.h[h.toNat] = none → TrapsKeeping i s 0x16 (reason 1) keep) ∧
     (∀ r, s.hart.h[h.toNat] = some r →
       (32 < b.toNat + Handle.rank r → TrapsKeeping i s 0x16 (reason 3) keep) ∧
       (b.toNat + Handle.rank r ≤ 32 → s.vtype d.toNat ≠ Handle.etype r →
         TrapsKeeping i s 0x0B (BitVec.ofNat 64 (s.vtype d.toNat + Handle.etype r * 2 ^ 8)) keep))))

/-- R89: the conditions of a convoy. An instruction that takes no pipe closes the convoy; one that heads a convoy always joins. Any
other joins exactly where a member is before it that can be joined (1), fewer than four are (2), a pipe of its class is free (3),
no register it writes has been read or written by a member, s0 and k0 apart (4), and, where it is cross-group, no vector register
it reads has been written by one (5); an instruction that pipe A or B serves takes A where it is free. The number
of the first that fails is given (log 86), and a convoy joined has its pipe and its registers besides. -/
def Obligations.ConvoyConditions : Prop :=
  ∀ (cv : Convoy) (u : VUse),
    (u.cls = none → joinConvoy cv u = .ok .closed) ∧
    ∀ p, u.cls = some p →
      ((u.c = false ∨ cv.fresh = true) →
        ∃ cv', joinConvoy cv u = .ok cv' ∧ cv'.size = 1 ∧ cv'.joinable = true ∧ cv'.fresh = false ∧
          cv'.pipes = [match p with | .ls => Pipe.ls | .ab => .a | .b => .b | .mp => .mp] ∧
          (∀ r < 32, (cv'.vread.getLsbD r = true ↔ r ∈ u.vr ++ u.reads) ∧
            (cv'.vwritten.getLsbD r = true ↔ r ∈ u.vw ++ u.writes) ∧
            (cv'.sread.getLsbD r = true ↔ r ≠ 0 ∧ r ∈ u.sr) ∧ (cv'.swritten.getLsbD r = true ↔ r ≠ 0 ∧ r ∈ u.sw)) ∧
          ∀ r < 8, (cv'.kread.getLsbD r = true ↔ r ≠ 0 ∧ r ∈ u.kr) ∧ (cv'.kwritten.getLsbD r = true ↔ r ≠ 0 ∧ r ∈ u.kw)) ∧
      (u.c = true → cv.fresh = false →
        let serves : Pipe → Prop := fun x =>
          match p with
          | .ls => x = .ls
          | .ab => x = .a ∨ x = .b
          | .b => x = .b
          | .mp => x = .mp
        let clash := (∃ r < 32, r ∈ u.vw ++ u.writes ∧ (cv.vread.getLsbD r = true ∨ cv.vwritten.getLsbD r = true)) ∨
          (∃ r < 8, r ≠ 0 ∧ r ∈ u.kw ∧ (cv.kread.getLsbD r = true ∨ cv.kwritten.getLsbD r = true)) ∨
          ∃ r < 32, r ≠ 0 ∧ r ∈ u.sw ∧ (cv.sread.getLsbD r = true ∨ cv.swritten.getLsbD r = true)
        let crossed := u.cross = true ∧ ∃ r < 32, r ∈ u.vr ++ u.reads ∧ cv.vwritten.getLsbD r = true
        (cv.joinable = false → joinConvoy cv u = .error 1) ∧
        (cv.joinable = true →
          (4 ≤ cv.size → joinConvoy cv u = .error 2) ∧
          (cv.size < 4 →
            ((∀ x, serves x → x ∈ cv.pipes) → joinConvoy cv u = .error 3) ∧
            ((∃ x, serves x ∧ x ∉ cv.pipes) →
              (clash → joinConvoy cv u = .error 4) ∧
              (¬ clash → crossed → joinConvoy cv u = .error 5) ∧
              (¬ clash → ¬ crossed → ∃ cv' x, joinConvoy cv u = .ok cv' ∧ serves x ∧ x ∉ cv.pipes ∧ cv'.pipes = x :: cv.pipes ∧
                (p = .ab → Pipe.a ∉ cv.pipes → x = .a) ∧
                cv'.size = cv.size + 1 ∧ cv'.joinable = true ∧ cv'.fresh = false ∧
                (∀ r < 32,
                  (cv'.vread.getLsbD r = true ↔ cv.vread.getLsbD r = true ∨ r ∈ u.vr ++ u.reads) ∧
                  (cv'.vwritten.getLsbD r = true ↔ cv.vwritten.getLsbD r = true ∨ r ∈ u.vw ++ u.writes) ∧
                  (cv'.sread.getLsbD r = true ↔ cv.sread.getLsbD r = true ∨ (r ≠ 0 ∧ r ∈ u.sr)) ∧
                  (cv'.swritten.getLsbD r = true ↔ cv.swritten.getLsbD r = true ∨ (r ≠ 0 ∧ r ∈ u.sw))) ∧
                ∀ r < 8,
                  (cv'.kread.getLsbD r = true ↔ cv.kread.getLsbD r = true ∨ (r ≠ 0 ∧ r ∈ u.kr)) ∧
                  (cv'.kwritten.getLsbD r = true ↔ cv.kwritten.getLsbD r = true ∨ (r ≠ 0 ∧ r ∈ u.kw)))))))

/-- R268, R320, R321: a poisoned source element stops VADD at that element: POISON names the register, VSTART the element, the
elements before it are written and none after it, and vd has its new tag. R26, R131, R315: where a turn ends between two elements,
the elements before it are written and VSTART is that element, the tag of vd stays until the instruction stops there for a pre-emption
or completes, and the instruction that goes on does the elements left, to the result of one that was not interrupted. A VCVT in place
to another TYPE is not left midway: it completes in that turn (R392, log 100). A tag that holds TYPE alone is log 60. -/
def Obligations.PoisonedElementStops : Prop :=
  (∀ (c : Bool) (k : BitVec 3) (b a d : BitVec 5) (s : State) (cv : Convoy) (x : Nat),
    let t0 := s.vtype a.toNat
    let n := s.nOf (typeWidth t0)
    let sum := fun e =>
      let p := s.elem a.toNat (plain t0) e
      let q := s.elem b.toNat (plain t0) e
      if isFp t0 then fpAdd (fmtOf t0) s.rm p q else wrapped t0 (intOf t0 p + intOf t0 q)
    let before := (s.lanes k.toNat n).filter (· < x)
    let upTo := fun t : State => t.hart.csr.vstart = BitVec.ofNat 64 x ∧ Tagged t d.toNat (typeTag t0) ∧
      Flagged s t before sum ∧
      ∀ e, e < 65536 * s.span / typeWidth t0 → t.elem d.toNat (plain t0) e =
        if e ∈ before then (sum e).code % 2 ^ typeWidth t0 else s.elem d.toNat (plain t0) e
    s.issues (useOf c .ab k a d (.vec b)) cv → s.spanOk → s.hart.tact = false → s.legalTypes [a.toNat, b.toNat] →
    s.noScale [a.toNat, b.toNat] → sameNumber t0 (some (s.vtype b.toNat)) = true → (s.v b.toNat).poison = 0 →
    (k ≠ 0 → (s.mask k.toNat).poison = 0) →
    (x ∈ s.lanes k.toNat n → (s.v a.toNat).elemPoisoned s.span (plain t0) x = true →
      (∀ e ∈ before, (s.v a.toNat).elemPoisoned s.span (plain t0) e = false) →
      ∃ t, exec (.vaddVV c k b a d) s = .next t ∧ t.hart.csr.tcause = 0x13 ∧
        t.hart.csr.tval = 0x8000000000000000 + a.zeroExtend 64 ∧ t.hart.csr.tpc = s.hart.pc &&& ~~~3 ∧ upTo t) ∧
    ((s.v a.toNat).poison = 0 → s.vstart < x → x < n →
      ∃ t w, exec (.vaddVV c k b a d) { s with stopAt := some x } = .next t ∧ t.hart.pc = s.hart.pc ∧
        t.hart.convoy = s.hart.convoy ∧ t.hart.csr.retired = s.hart.csr.retired ∧ t.vtag d.toNat = s.vtag d.toNat ∧
        t.hart.csr.vdirty = s.hart.csr.vdirty ∧ upTo (setHart t t.hart.stopBetween) ∧
        Frame { v := [d.toNat], csr := [0x001, 0x003, 0x004] } { s with stopAt := some x } t ∧
        exec (.vaddVV c k b a d) { t with stopAt := none } = .next w ∧ Completed s w cv ∧ Tagged w d.toNat (typeTag t0) ∧
        Flagged s w (s.lanes k.toNat n) sum ∧
        (∀ e, e < 65536 * s.span / typeWidth t0 → w.elem d.toNat (plain t0) e =
          if e ∈ s.lanes k.toNat n then (sum e).code % 2 ^ typeWidth t0 else s.elem d.toNat (plain t0) e) ∧
        Frame { v := [d.toNat], csr := vectorCsrs } s w)) ∧
  ∀ (c : Bool) (k : BitVec 3) (ty a : BitVec 5) (s : State) (cv : Convoy) (x : Nat),
    let t0 := s.vtype a.toNat
    let n := s.nOf (typeWidth t0)
    let res := fun e => converted ty.toNat s.rm false (s.exactElem a.toNat e)
    s.issues { c := c, cls := some .ab, vr := [a.toNat], vw := [a.toNat], kr := [k.toNat] } cv → s.spanOk →
    s.cleanFor [a.toNat] [k.toNat] → isPlaneType t0 = false → t0 ≠ 0 → VTag.sc (s.vtag a.toNat) = false →
    1 ≤ ty.toNat → ty.toNat ≤ 15 → ty.toNat ≠ t0 → typeWidth ty.toNat = typeWidth t0 → s.vstart < x → x < n →
    ∃ t, exec (.vcvt c k ty a a) { s with stopAt := some x } = .next t ∧ Completed s t cv ∧
      Tagged t a.toNat (typeTag ty.toNat) ∧ Flagged s t (s.lanes k.toNat n) res ∧
      (∀ e, e < 65536 * s.span / typeWidth t0 → t.elem a.toNat (plain ty.toNat) e =
        if e ∈ s.lanes k.toNat n then (res e).code % 2 ^ typeWidth t0 else s.elem a.toNat (plain t0) e) ∧
      Frame { v := [a.toNat], csr := vectorCsrs } s { t with stopAt := none }

/-! ### Vector memory, sorted runs, tiles and ranked lists -/

/-- R217-R221: the strided, indexed and lane-memory loads and stores and the vector atomics: each completes where every active
element has a place in storage of this package, and moves exactly those elements. -/
def Obligations.VectorMemoryAccess : Prop :=
  ∀ (c : Bool) (q k : BitVec 3) (b a d : BitVec 5),
    let strideSrc := a.toNat :: (if b = 0 then [] else [b.toNat])
    let own := fun s : State => s.nOf (elTy (s.vtag d.toNat)).w
    let both := fun s : State => s.nOf (max (elTy (s.vtag d.toNat)).w (typeWidth (s.vtype b.toNat)))
    let unit := fun s : State => s.legalTypes [d.toNat] ∧ isPlaneType (s.vtype d.toNat) = false ∧ (s.vtype d.toNat = 15 → b = 0)
    let stores := fun (ok : State → Prop) (s : State) => ok s ∧ s.movables [d.toNat]
    let idx := fun s : State => s.legalTypes [d.toNat] ∧ isPlaneType (s.vtype d.toNat) = false ∧ s.vtype d.toNat ≠ 15 ∧
      isUnsigned (s.vtype b.toNat) = true
    VectorLoads (.vld c q k b a d) { c := c, cls := some .ls, vw := [d.toNat], kr := [k.toNat], sr := strideSrc } unit
      k.toNat d.toNat own (fun s w e => s.strided q a b w false e) ∧
    VectorStores (.vst c q k b a d) { c := c, cls := some .ls, vr := [d.toNat], kr := [k.toNat], sr := strideSrc } (stores unit)
      k.toNat d.toNat own (fun s w e => s.strided q a b w true e) ∧
    VectorLoads (.vldx c q k b a d)
      { c := c, cls := some .ls, vr := [b.toNat], vw := [d.toNat], kr := [k.toNat], sr := [a.toNat] } idx
      k.toNat d.toNat both (fun s w e => s.indexed q a b w false e) ∧
    VectorStores (.vstx c q k b a d) { c := c, cls := some .ls, vr := [d.toNat, b.toNat], kr := [k.toNat], sr := [a.toNat] }
      (stores idx) k.toNat d.toNat both (fun s w e => s.indexed q a b w true e) ∧
    VectorLoads (.lmld c k b a d)
      { c := c, cls := some .ls, vr := [b.toNat], vw := [d.toNat], kr := [k.toNat], sr := [a.toNat] } idx
      k.toNat d.toNat both (fun s w e => s.inLane a b w e) ∧
    VectorStores (.lmst c k b a d) { c := c, cls := some .ls, vr := [d.toNat, b.toNat], kr := [k.toNat], sr := [a.toNat] }
      (stores idx) k.toNat d.toNat both (fun s w e => s.inLane a b w e) ∧
    VectorAtomics (.vamoAdd c q k b a d) c q k b a d (fun _ x v => x + v) ∧
    VectorAtomics (.vamoAnd c q k b a d) c q k b a d (fun _ x v => x &&& v) ∧
    VectorAtomics (.vamoOr c q k b a d) c q k b a d (fun _ x v => x ||| v) ∧
    VectorAtomics (.vamoXor c q k b a d) c q k b a d (fun _ x v => x ^^^ v) ∧
    VectorAtomics (.vamoMin c q k b a d) c q k b a d (fun _ x v => if x.toInt ≤ v.toInt then x else v) ∧
    VectorAtomics (.vamoMax c q k b a d) c q k b a d (fun _ x v => if x.toInt ≤ v.toInt then v else x) ∧
    VectorAtomics (.vamoMinu c q k b a d) c q k b a d (fun _ x v => if x.toNat ≤ v.toNat then x else v) ∧
    VectorAtomics (.vamoMaxu c q k b a d) c q k b a d (fun _ x v => if x.toNat ≤ v.toNat then v else x)

/-- R164-R175: the sorted-run instructions: what each writes, with the tag it writes; VSORT's order is the stable one; runs that
are in order merge into one that is in order and holds the same items. A payload partner keeps its own scale fields (log 45); the
payload of vb does not bound VINTER (log 63). -/
def Obligations.SortedRuns : Prop :=
  (∀ (t : Nat) (dir : Bool) (xs ys : List Item) (n : Nat), xs.length + ys.length < n →
    let inOrder := fun l : List Item => l.Pairwise fun x y => isAhead t dir y.key x.key = false
    (mergeRuns t dir n xs ys).Perm (xs ++ ys) ∧ (inOrder xs → inOrder ys → inOrder (mergeRuns t dir n xs ys))) ∧
  ∀ (c x y p : Bool) (k q : BitVec 3) (r b a d : BitVec 5),
    let pa := fun s : State => if VTag.pay (s.vtag a.toNat) then [a.toNat + 1] else []
    let pab := fun s : State => pa s ++ if VTag.pay (s.vtag b.toNat) then [b.toNat + 1] else []
    let len := fun (s : State) (v : BitVec 5) (n : Nat) => min (VTag.len (s.vtag v.toNat)) n
    let items := fun (s : State) (v : BitVec 5) (fromA : Bool) (n : Nat) =>
      s.itemsOf v.toNat (VTag.pay (s.vtag v.toNat)) fromA (len s v n)
    let merge := fun (s : State) (n : Nat) =>
      let xs := items s a true n
      let ys := items s b false n
      mergeRuns (s.vtype a.toNat) (VTag.dir (s.vtag a.toNat)) (xs.length + ys.length + 1) xs ys
    let Merges := fun (i : Instr) (sw : List (BitVec 5)) (from_ : Nat → Nat) =>
      SortedWrites i c [a.toNat, b.toNat] [a.toNat, b.toNat] pab (fun s => !(pab s).isEmpty) d sw (fun s n =>
        let m := ((merge s n).drop (from_ n)).take n
        (VTag.dir (s.vtag a.toNat), m, m.countP (·.fromA)))
    SortedWrites (.vsort c x p a d) c [a.toNat] [] (fun _ => if p then [a.toNat + 1] else []) (fun _ => p) d []
      (fun s n => (x, (s.itemsOf a.toNat p true n).mergeSort fun u v => !isAhead (s.vtype a.toNat) x v.key u.key, 0)) ∧
    Merges (.vmergeLo c b a d) [] (fun _ => 0) ∧ Merges (.vmergeHi c b a d) [] (fun n => n) ∧
    Merges (.vmergec c r b a d) [r] (fun _ => 0) ∧
    SortedWrites (.vinter c b a d) c [a.toNat, b.toNat] [a.toNat, b.toNat] pa (fun s => !(pa s).isEmpty) d []
      (fun s n => (VTag.dir (s.vtag a.toNat), matchedItems (items s a true n) ((items s b false n).map (·.key)), 0)) ∧
    SortedWrites (.vuniq c a d) c [a.toNat] [a.toNat] pa (fun s => !(pa s).isEmpty) d []
      (fun s n => (VTag.dir (s.vtag a.toNat), firstItems (items s a true n), 0)) ∧
    SortedWrites (.vsrev c a d) c [a.toNat] [a.toNat] pa (fun s => !(pa s).isEmpty) d []
      (fun s n => (!VTag.dir (s.vtag a.toNat), (items s a true n).reverse, 0)) ∧
    Ranks (.vrankLb c b a d) c b a d isAhead ∧
    Ranks (.vrankUb c b a d) c b a d (fun t dir key probe => !isAhead t dir probe key) ∧
    Ranks (.vpart c b a d) c b a d (fun t _ key probe => !isAhead t false probe key) ∧
    (∀ (s : State) (cv : Convoy),
      s.issues { c := c, cls := some .mp, cross := true, whole := true, vr := [a.toNat], sw := [d.toNat] } cv →
      s.spanOk → s.span = 1 → s.cleanFor [a.toNat] [] → s.noScale [a.toNat] → isSortable (s.vtype a.toNat) = true →
      let w := if VTag.pay (s.vtag a.toNat) then max (typeWidth (s.vtype a.toNat)) (elTy (s.vtag (a.toNat + 1))).w
        else typeWidth (s.vtype a.toNat)
      ∃ t g, exec (.vchks c x a d) s = .next t ∧ Completed s t cv ∧ t.holds d (BitVec.ofNat 64 g) ∧
        LongestOrdered (s.vtype a.toNat) x
          ((List.range (s.nOf w)).map (s.elem a.toNat (plain (s.vtype a.toNat)))) g ∧
        Frame { s := [d], csr := [0x001], known := true } s t) ∧
    (∀ (s : State) (cv : Convoy),
      let t0 := s.vtype d.toNat
      let t1 := s.vtype (d.toNat + 1)
      let w := typeWidth t0
      let n := s.nOf (if p then max w (typeWidth t1) else w)
      let at_ := fun (v : BitVec 5) (w e : Nat) =>
        (s.keyAt s.hart.home q (s.rs v + BitVec.ofNat 64 (e * w / 8)) (elemBytes w) false).map fun key => (key, if w = 4 then e % 2 else 0)
      let loaded := fun (v : BitVec 5) (j t e : Nat) => if s.vstart ≤ e ∧ e < n then
        valueAt s.mem (typeWidth t) ((at_ v (typeWidth t) e).getD (0, 0)) else s.elem (d.toNat + j) (plain t) e
      let bound := if y then some ((s.rs r).toNat % 2 ^ w) else none
      let v := verifyRun t0 x bound ((List.range n).map (loaded a 0 t0))
      s.issues { c := c, cls := some .ls, vw := if p then [d.toNat, d.toNat + 1] else [d.toNat], sw := [r.toNat],
                 sr := a.toNat :: (if p then [a.toNat + 1] else []) ++ (if y then [r.toNat] else []) } cv →
      s.spanOk → s.span = 1 → (s.v d.toNat).poison = 0 → s.settled → s.noScale [d.toNat] → isSortable t0 = true →
      (p = true → t1 ≠ 0 ∧ isPlaneType t1 = false ∧ a.toNat < 31) →
      (∀ e, s.vstart ≤ e → e < n → (∃ z, at_ a w e = some z ∧ poisoned s z.1 (elemBytes w) = false) ∧
        (p = true → ∃ z, at_ (a + 1) (typeWidth t1) e = some z ∧ poisoned s z.1 (elemBytes (typeWidth t1)) = false)) →
      ∃ t, exec (.vlds c q y x p r a d) s = .next t ∧ Completed s t cv ∧ t.holds r v.1 ∧
        Tagged t d.toNat (if v.2.1 then sortedTag (VTag.unsorted (s.vtag d.toNat)) x p v.2.2 n
          else VTag.unsorted (s.vtag d.toNat)) ∧
        (∀ e, e < 65536 / w → t.elem d.toNat (plain t0) e = loaded a 0 t0 e) ∧
        (p = true → ∀ e, e < 65536 / typeWidth t1 → t.elem (d.toNat + 1) (plain t1) e = loaded (a + 1) 1 t1 e) ∧
        Frame { s := [r], v := if p then [d.toNat, d.toNat + 1] else [d.toNat], csr := [0x001, 0x002], known := true } s t) ∧
    (∀ (s : State) (cv : Convoy),
      let rs := [d.toNat, a.toNat, d.toNat + 1, a.toNat + 1]
      let tv := s.vtype d.toNat
      let ti := s.vtype (d.toNat + 1)
      let v1 := fun e => s.elem d.toNat (plain tv) e
      let v2 := fun e => s.elem a.toNat (plain tv) e
      let i1 := fun e => s.elem (d.toNat + 1) (plain ti) e
      let i2 := fun e => s.elem (a.toNat + 1) (plain ti) e
      let on := fun e => e ∈ s.lanes k.toNat (s.nOf (max (typeWidth tv) (typeWidth ti))) ∧
        (orderedKey tv (v1 e) < orderedKey tv (v2 e) ∨ (v1 e = v2 e ∧ i2 e < i1 e))
      s.issues { c := c, cls := some .mp, vr := rs, vw := rs, kr := [k.toNat] } cv → s.spanOk → s.cleanFor rs [k.toNat] →
      s.noScale rs → d.toNat % 2 = 0 → a.toNat % 2 = 0 → d ≠ a → s.vtype a.toNat = tv → s.vtype (a.toNat + 1) = ti →
      isSortable tv = true → isInt ti = true →
      ∃ t, exec (.vcmx c k a d) s = .next t ∧ Completed s t cv ∧ (∀ g ∈ rs, Tagged t g (VTag.unsorted (s.vtag g))) ∧
        (∀ e, e < 65536 * s.span / max (typeWidth tv) (typeWidth ti) →
          (on e → t.elem d.toNat (plain tv) e = v2 e ∧ t.elem a.toNat (plain tv) e = v1 e ∧
            t.elem (d.toNat + 1) (plain ti) e = i2 e ∧ t.elem (a.toNat + 1) (plain ti) e = i1 e) ∧
          (¬ on e → t.elem d.toNat (plain tv) e = v1 e ∧ t.elem a.toNat (plain tv) e = v2 e ∧
            t.elem (d.toNat + 1) (plain ti) e = i1 e ∧ t.elem (a.toNat + 1) (plain ti) e = i2 e)) ∧
        Frame { v := rs, csr := [0x001, 0x002] } s t)

/-- R192-R206: the numeric tile operations: outer products, ZCLR, ZWAIT, the moves between lines and vector registers, the
conversions and the line statistics; each operation that writes a tile enters the matrix queue. That an operation acts when it
enters is log 42, the flags in corners log 43, ZMOVZ log 19, ZPOP's reserved codes log 64. -/
def Obligations.TileOperations : Prop :=
  ∀ (c : Bool) (k : BitVec 3) (b a d : BitVec 5) (m : BitVec 2) (z : BitVec 3) (s : State) (cv : Convoy),
    let col := m == 1
    let line := (s.rs a).toNat
    let tile := s.tile z
    let readable := tile.ranked = false ∧ s.tileIdle z
    let clean := fun (l : List Nat) => ∀ x ∈ l, lineBad tile col line x = false
    (∀ ranked : Bool, s.issues { needsVl := false, zs := [z.toNat] } cv →
      ∃ t, exec (.zclr ranked z) s = .next t ∧ Completed s t cv ∧ Queued s t z ∧
        t.tile z = { Tile.zero with ranked := ranked } ∧ Frame { z := [z.toNat], csr := [0x001] } s t) ∧
    (s.issues { needsVl := false, zs := [z.toNat], sw := [a.toNat] } cv →
      ∃ t, exec (.zwait a z) s = .next t ∧ Completed s t cv ∧ t.tileIdle z ∧ t.tile z = tile ∧
        t.holds a (BitVec.ofNat 64 ((if tile.ranked then 1 else 0) + (match tile.kind with | .none => 0 | .fp => 2 | .int => 4) +
          (if tile.ovf then 8 else 0) + (if tile.poison = 0 then 0 else 16))) ∧
        Frame { s := [a], z := [z.toNat], csr := [0x001], known := true } s t) ∧
    (∀ (scaled : Bool) (r : Nat) (kind : TileKind),
      let rs := [a.toNat, b.toNat]
      let u : VUse := { c := c, cls := some .mp, cross := scaled, whole := true, vr := rs,
                        reads := if scaled then rs.flatMap (scaleUse s) else [], kr := [k.toNat], zs := [z.toNat] }
      let n := s.nOf (32 / r)
      s.issues u cv → s.spanOk → s.cleanFor (u.vr ++ u.reads) u.kr → s.legalTypes rs →
      (scaled = false → s.noScale rs) → (scaled = true → kind = .fp ∧ ∀ x ∈ rs, s.scaled x) →
      productPair (s.vtype a.toNat) (s.vtype b.toNat) = some (r, kind) → (tile.kind = .none ∨ tile.kind = kind) →
      tile.ranked = false → n ≤ 128 * r →
      ∃ t, exec (if scaled then .zops c k b a z else .zop c k b a z) s = .next t ∧ Completed s t cv ∧ Queued s t z ∧
        ProductOf s t z k.toNat a.toNat b.toNat r n kind scaled ∧ Frame { z := [z.toNat], csr := [0x001] } s t) ∧
    (let rs := [a.toNat, b.toNat]
     s.issues { c := c, cls := some .mp, whole := true, vr := rs, kr := [k.toNat], zs := [z.toNat] } cv → s.spanOk →
      s.cleanFor rs [k.toNat] → (∀ x ∈ rs, isPlaneType (s.vtype x) = true) → s.noScale rs → tile.kind ≠ .fp →
      tile.ranked = false → s.nOf 16 ≤ 8192 →
      (let reserved := fun (x : BitVec 5) (e : Nat) => isReserved (elTy (s.vtag x.toNat)) (s.elem x.toNat (elTy (s.vtag x.toNat)) e)
       ∀ e < s.nOf 16, (s.active k.toNat (e / 64) = true → reserved a e = false) ∧ reserved b e = false) →
      ∃ t, exec (.zpop c k b a z) s = .next t ∧ Completed s t cv ∧ Queued s t z ∧
        ProductOf s t z k.toNat a.toNat b.toNat 64 (s.nOf 16) .int false ∧ Frame { z := [z.toNat], csr := [0x001] } s t) ∧
    (let l := s.lanes k.toNat (min 128 (s.nOf 64))
     let hi := if tile.kind = .int then 4 else 8
     s.issues { c := c, cls := some .mp, vw := [d.toNat, d.toNat + 1], kr := [k.toNat], sr := [a.toNat], zs := [z.toNat] } cv →
      s.spanOk → s.cleanFor [] [k.toNat] → readable → line ≤ 127 → clean l →
      ∃ t, exec (.zmovv c k d a m z) s = .next t ∧ Completed s t cv ∧ Tagged t d.toNat (typeTag 8) ∧
        Tagged t (d.toNat + 1) (typeTag hi) ∧
        (∀ e, e < 65536 * s.span / 64 →
          t.elem d.toNat (plain 8) e = (if e ∈ l then lineElem tile col line e % 2 ^ 64 else s.elem d.toNat (plain 8) e) ∧
          t.elem (d.toNat + 1) (plain hi) e =
            (if e ∈ l then lineElem tile col line e / 2 ^ 64 else s.elem (d.toNat + 1) (plain hi) e)) ∧
        Frame { v := [d.toNat, d.toNat + 1], csr := [0x001, 0x002] } s t) ∧
    (let n := min 128 (s.nOf 64)
     let kind : TileKind := if s.vtype (d.toNat + 1) = 4 then .int else .fp
     s.issues { c := c, cls := some .mp, whole := true, vr := [d.toNat, d.toNat + 1], kr := [k.toNat], sr := [a.toNat],
                zs := [z.toNat] } cv →
      s.spanOk → s.cleanFor [d.toNat, d.toNat + 1] [k.toNat] → s.vtype d.toNat = 8 → s.vtype (d.toNat + 1) ∈ [4, 8] →
      s.noScale [d.toNat, d.toNat + 1] → (tile.kind = .none ∨ tile.kind = kind) → tile.ranked = false → line ≤ 127 →
      ∃ t, exec (.zmovz c k d a m z) s = .next t ∧ Completed s t cv ∧ Queued s t z ∧ (t.tile z).kind = kind ∧
        (t.tile z).ovf = tile.ovf ∧ (∀ y x, y < 128 → x < 128 → lineElem (t.tile z) col y x =
          if y = line ∧ x < n ∧ s.active k.toNat x then
            s.elem d.toNat (plain 8) x + s.elem (d.toNat + 1) (plain 8) x % 2 ^ 16 * 2 ^ 64
          else lineElem tile col y x) ∧
        Frame { z := [z.toNat], csr := [0x001] } s t) ∧
    (∀ sc : Bool,
      let t0 := s.vtype d.toNat
      let l := s.lanes k.toNat (min 128 (s.nOf (typeWidth t0)))
      let scale := if sc then (s.rs (a + 1)).toNat % 2 ^ 32 else 0x3F800000
      let r := fun e => tileConvert t0 s.rm (tile.kind == .fp || scale != 0x3F800000)
        (if scale = 0x3F800000 then lineVal tile col line e else (lineVal tile col line e).mul (fp32.val scale))
      s.issues { c := c, cls := some .mp, vw := [d.toNat], kr := [k.toNat],
                 sr := a.toNat :: (if sc then [a.toNat + 1] else []), zs := [z.toNat] } cv →
      s.spanOk → s.cleanFor [] [k.toNat] → s.legalTypes [d.toNat] → t0 ≤ 15 → readable → line ≤ 127 → clean l →
      (sc = true → a.toNat < 31) →
      ∃ t, exec (if sc then .zcvtSc c k d a m z else .zcvt c k d a m z) s = .next t ∧ Completed s t cv ∧
        Tagged t d.toNat (typeTag t0) ∧
        (∀ e, e < 65536 * s.span / typeWidth t0 → t.elem d.toNat (plain t0) e =
          if e ∈ l then (r e).code % 2 ^ typeWidth t0 else s.elem d.toNat (plain t0) e) ∧
        Flagged s t l r ∧ Frame { v := [d.toNat], csr := vectorCsrs } s t) ∧
    (let l := s.lanes k.toNat (min 128 (s.nOf 32))
     let entry := fun (x j : Nat) => if tile.kind = .fp then (⟨lineElem tile col x j, 0, false⟩ : FRes)
       else sumRound ea80 0 [lineVal tile col x j]
     let stats := fun x => lineStats ((List.range line).map (entry x))
     let single := fun (v : FRes) => (valToFp fp32 0 false (ea80.val v.code)).code % 2 ^ 32
     let flags := fun (v : FRes) => (valToFp fp32 0 false (ea80.val v.code)).flags ||| v.flags
     s.issues { c := c, cls := some .mp, vw := [d.toNat, d.toNat + 1, d.toNat + 2], kr := [k.toNat], sr := [a.toNat],
                zs := [z.toNat] } cv →
      s.spanOk → s.cleanFor [] [k.toNat] → readable → 1 ≤ line → line ≤ 128 →
      (∀ x ∈ l, ∀ j < line, lineBad tile col x j = false) →
      ∃ t, exec (.zrowstat c k d a m z) s = .next t ∧ Completed s t cv ∧ (∀ j < 3, Tagged t (d.toNat + j) (typeTag 10)) ∧
        (∀ e ∈ l, t.elem d.toNat (plain 10) e = single (stats e).1 ∧ t.elem (d.toNat + 1) (plain 10) e = single (stats e).2.1 ∧
          t.elem (d.toNat + 2) (plain 10) e = single (stats e).2.2) ∧
        (∀ j e, j < 3 → e < 65536 * s.span / 32 → e ∉ l → t.elem (d.toNat + j) (plain 10) e = s.elem (d.toNat + j) (plain 10) e) ∧
        t.hart.csr.vflags = s.hart.csr.vflags ||| (flagsOf l fun e =>
          ⟨0, flags (stats e).1 ||| flags (stats e).2.1 ||| flags (stats e).2.2, false⟩).zeroExtend 64 ∧
        Frame { v := [d.toNat, d.toNat + 1, d.toNat + 2], csr := vectorCsrs } s t) ∧
    (∀ (y x : Bool) (p : BitVec 4),
      let n := p.toNat + 1
      let tag := planeTag (if x then 18 else if n = 1 then 17 else 16) n
      let scale := if b = 0 then 0x3F800000 else (s.rs b).toNat % 2 ^ 32
      let l := s.lanes k.toNat (s.nOf (max (typeWidth (s.vtype a.toNat)) 16))
      let r := fun e => planeConvert (elTy tag) y s.rm ((s.exactElem a.toNat e).1.mul (fp32.val scale))
      s.issues { c := c, cls := some .ab, vr := [a.toNat], vw := [d.toNat], reads := scaleUse s a.toNat, kr := [k.toNat],
                 sr := [b.toNat] } cv →
      s.spanOk → s.cleanFor (a.toNat :: scaleUse s a.toNat) [k.toNat] → s.vtype a.toNat ∈ [1, 2, 10] → s.scaled a.toNat →
      (∀ e ∈ l, r e ≠ none) → d ≠ a →
      ∃ t, exec (.pcvt c y x p k b a d) s = .next t ∧ Completed s t cv ∧ Tagged t d.toNat tag ∧
        (∀ e, e < 65536 * s.span / 16 → t.elem d.toNat (elTy tag) e =
          if e ∈ l then ((r e).getD ⟨0, 0, false⟩).code % 2 ^ n else s.elem d.toNat (elTy tag) e) ∧
        Flagged s t l (fun e => (r e).getD ⟨0, 0, false⟩) ∧ Frame { v := [d.toNat], csr := vectorCsrs } s t)

/-- R176-R188: the ranked-list instructions: ZRCFG empties every list, the pushes keep each list's best K, ZRST stores a list's
words, ZRMERGE takes a stored list in, the pushes and ZRMERGE publish a threshold that improves in the shared word of a tile that has
one, and ZRREAD, ZRHDR and ZRTH read a list out. The model's choice are these: a push reads the shared word at each pair, one of the
reads R181 allows (log 44); an entry of a list that is poisoned already is compared by its bits and keeps its poison, and nothing
traps (log 87); an operation acts when it enters the queue (log 42); the flags and VSTART in corners (log 43). -/
def Obligations.RankedLists : Prop :=
  ∀ (c : Bool) (k q z : BitVec 3) (m b a : BitVec 5),
    Pushes (.zrpush c k a z) c k none a z ∧ Pushes (.zrpushL c k b a z) c k (some b) a z ∧
    ∀ (s : State) (cv : Convoy),
      (let w := s.rs a
       let sh := bit w 15
       s.issues { needsVl := false, whole := true, zs := [z.toNat], sr := a.toNat :: (if sh then [b.toNat] else []) } cv →
        rankedWordOk w = true → (s.tile z).ranked = true →
        (sh = true → (s.keyAt s.hart.home q (s.rs b) 8 true).isSome = true) →
        ∃ t cfg, exec (.zrcfg q b a z) s = .next t ∧ Completed s t cv ∧ Queued s t z ∧ cfg.word = w ∧
          (t.tile z).rankedAs cfg ∧ (∀ l < cfg.lists, t.listOf z cfg l = ⟨⟨0, 0, false⟩, []⟩) ∧
          (sh = true → cfg.saddr = s.rs b ∧ cfg.token = q ∧ some cfg.site = (s.keyAt s.hart.home q (s.rs b) 8 true).map Site.key) ∧
          Frame { z := [z.toNat], csr := [0x001] } s t) ∧
      ∀ cfg : RankedConfig, (s.tile z).rankedAs cfg → s.hart.csr.zlist.toNat < cfg.lists →
        let zl := s.hart.csr.zlist.toNat
        let x := s.listOf z cfg zl
        let clean := ∀ e ∈ x.entries, e.bad = false
        (∀ keys, s.issues { needsVl := false, whole := true, zs := [z.toNat], sr := [a.toNat] } cv → clean →
          s.settled → s.memoryOk → (s.rs a).toNat % 64 = 0 → (s.hart.token q).w = true →
          tokenCovers (s.hart.token q) q (s.rs a) (32 + 16 * cfg.k) = true →
          s.wordsAt q (s.rs a) (4 + 2 * cfg.k) keys true → keys.Pairwise (fun x y => x + 8 ≤ y ∨ y + 8 ≤ x) →
          (∀ y ∈ keys, plainKey y 8) →
          ∃ t, exec (.zrst q a z) s = .next t ∧ Completed s t cv ∧ t.tile z = s.tile z ∧
            (∀ j < keys.length, loadWord t (keys.getD j 0) = BitVec.ofNat 64 ((storedList cfg x).getD j 0)) ∧
            Frame { z := [z.toNat], csr := [0x001], access := true, mem := fun y => ∃ g ∈ keys, g ≤ y ∧ y < g + 8 } s t) ∧
        (∀ keys key, s.issues { needsVl := false, whole := true, zs := [z.toNat], sr := [a.toNat] } cv →
          (cfg.sh = true → s.sharedAt cfg key) → s.settled → (s.rs a).toNat % 64 = 0 →
          let word := fun j => loadWord s (keys.getD j 0)
          let n := bits (word 0) 16 11
          tokenCovers (s.hart.token q) q (s.rs a) (32 + 16 * n) = true → s.wordsAt q (s.rs a) (4 + 2 * n) keys false →
          (∀ y ∈ keys, poisoned s y 8 = false) → storedHeaderOk cfg (word 0) (word 2) (word 3) = true →
          let sum := (word 1).toNat + bits (word 2) 0 16 * 2 ^ 64
          let h := addSum x.head cfg.kt (ea80.val sum) (int80 sum)
          let es := ((List.range n).filter fun j => bit (word (5 + 2 * j)) 15).map fun j =>
            (⟨bits (word (4 + 2 * j)) 0 32, bits (word (4 + 2 * j)) 32 32, true, bits (word (5 + 2 * j)) 0 15, false⟩ : Entry)
          let entries := es.foldl (fun l e => (insertEntry cfg.smallest e l).take cfg.k) x.entries
          ∃ t, exec (.zrmerge q a z) s = .next t ∧ Completed s t cv ∧ Queued s t z ∧ (t.tile z).rankedAs cfg ∧
            t.listOf z cfg zl = ⟨{ h with ovf := h.ovf || bit (word 0) 31, len := entries.length }, entries⟩ ∧
            (∀ l < cfg.lists, l ≠ zl → t.listOf z cfg l = s.listOf z cfg l) ∧
            (cfg.sh = true → loadWord t key =
              BitVec.ofNat 64 (sharedAfter cfg x (t.listOf z cfg zl) (loadWord s key).toNat)) ∧
            Frame { z := [z.toNat], csr := [0x001], access := cfg.sh,
                    mem := fun y => cfg.sh = true ∧ key ≤ y ∧ y < key + 8 } s t) ∧
        (s.tileIdle z →
          (let n := s.nOf 32
           let kt := keyType cfg.kt
           s.issues { whole := true, vw := [a.toNat, a.toNat + 1], kw := [m.toNat], zs := [z.toNat] } cv → s.spanOk →
            (∀ e ∈ x.entries.take n, e.bad = false) →
            ∃ t, exec (.zrread m a z) s = .next t ∧ Completed s t cv ∧ Tagged t a.toNat (typeTag kt) ∧
              Tagged t (a.toNat + 1) (typeTag 7) ∧
              (∀ e < n, t.elem a.toNat (plain kt) e = keyOf cfg.kt (((x.entries.map (·.okey)).getD e (sentinelOkey cfg.kt cfg.smallest))) ∧
                t.elem (a.toNat + 1) (plain 7) e = (x.entries.map (·.index)).getD e (2 ^ 32 - 1)) ∧
              (∀ e, n ≤ e → (e < 65536 * s.span / typeWidth kt → t.elem a.toNat (plain kt) e = s.elem a.toNat (plain kt) e) ∧
                (e < 65536 * s.span / 32 → t.elem (a.toNat + 1) (plain 7) e = s.elem (a.toNat + 1) (plain 7) e)) ∧
              (m ≠ 0 → ∀ e < 131072, (t.mask m.toNat).bits.getLsbD e = decide (e < min n x.entries.length)) ∧
              Frame { v := [a.toNat, a.toNat + 1], k := if m = 0 then [] else [m.toNat], csr := [0x001, 0x002] } s t) ∧
          (s.issues { needsVl := false, whole := true, sw := (List.range 4).map (a.toNat + ·), zs := [z.toNat] } cv → clean →
            a.toNat + 3 < 32 →
            ∃ t, exec (.zrhdr a z) s = .next t ∧ Completed s t cv ∧
              t.holds a (BitVec.ofNat 64 (x.entries.length + cfg.k * 2 ^ 16 + cfg.kt * 2 ^ 27 +
                (if cfg.smallest then 2 ^ 30 else 0) + (if x.head.ovf then 2 ^ 31 else 0) + (if cfg.sh then 2 ^ 32 else 0))) ∧
              t.holds (a + 1) (thresholdKey cfg x) ∧ t.holds (a + 2) (listSums cfg x).sel ∧ t.holds (a + 3) (listSums cfg x).out ∧
              t.hart.csr.vflags = s.hart.csr.vflags ||| (listSums cfg x).flags.zeroExtend 64 ∧
              t.hart.csr.vstat = (if (listSums cfg x).sat then s.hart.csr.vstat ||| 2 else s.hart.csr.vstat) ∧
              Frame { s := [a, a + 1, a + 2, a + 3], csr := [0x001, 0x003, 0x004], known := true } s t) ∧
          (s.issues { needsVl := false, whole := true, sw := [a.toNat], zs := [z.toNat] } cv →
            (x.entries.length = cfg.k → ∀ e ∈ x.entries.getLast?, e.bad = false) →
            ∃ t, exec (.zrth a z) s = .next t ∧ Completed s t cv ∧ t.holds a (thresholdKey cfg x) ∧
              Frame { s := [a], csr := [0x001], known := true } s t))

/-- R207, R222-R228: THSET and THGET move a record, TLD and TST move a row of a handle, TRELAYOUT begins a relayout and TWAIT
ends one, and ZLD and ZST move a block between a tile and a handle (R248, R295 for what the engine's accesses leave in the caches).
What the engine of a relayout does late is log 28, that the tile holds a block from the step in which ZLD enters the queue log 42, the
flags of ZLD and ZST log 43. -/
def Obligations.TensorHandles : Prop :=
  ∀ (c tr : Bool) (q k z : BitVec 3) (b a d : BitVec 5) (h : BitVec 4) (s : State) (cv : Convoy) (keys : List Nat) (r : Handle),
    (s.issues { needsVl := false, whole := true, sr := [a.toNat] } cv → s.settled → (s.rs a).toNat % 64 = 0 →
      tokenCovers (s.hart.token q) q (s.rs a) 64 = true →
      (s.wordsAt q (s.rs a) 8 keys false → (∀ y ∈ keys, poisoned s y 8 = false) →
        Handle.ok (recordOf (keys.map (loadWord s))) = true →
        ∃ t, exec (.thset q a h) s = .next t ∧ Completed s t cv ∧
          t.handle h = some (recordOf (keys.map (loadWord s))) ∧ Frame { h := [h.toNat], csr := [0x001] } s t) ∧
      (s.wordsAt q (s.rs a) 8 keys true → wordsApart keys → (s.hart.token q).w = true → s.handle h = some r → s.memoryOk →
        ∃ t, exec (.thget q a h) s = .next t ∧ Completed s t cv ∧ t.handle h = some r ∧
          (∀ j < 8, loadWord t (keys.getD j 0) = recWord r j) ∧
          Frame { csr := [0x001], access := true, mem := inWords keys } s t)) ∧
    (let ty := elTy (s.vtag d.toNat)
     let coords := fun e => tensorCoords s r b e
     let first := (s.rs (b + BitVec.ofNat 5 (r.rank - 1))).toNat
     let vl := if first < r.extent (r.rank - 1) ∧ r.extent (r.rank - 1) < first + s.nOf ty.w
       then BitVec.ofNat 64 (r.extent (r.rank - 1) - first) else s.hart.csr.vl
     let n := min vl.toNat (s.nOf ty.w)
     let at_ := fun e => s.tensorAt r (s.coreOf ty.w e) (coords e) false
     s.issues { c := c, cls := some .ls, vw := [d.toNat], kw := [k.toNat], sr := originRegs s h b } cv → s.spanOk →
      s.settled → s.tensorFits h b d r →
      (∀ e, s.vstart ≤ e → e < n → inExtents r.extents (coords e) = true →
        ∃ p, at_ e = some p ∧ poisoned s p.1 (elemBytes ty.w) = false) →
      ∃ t, exec (.tld c k b h d) s = .next t ∧ Completed s t cv ∧ t.hart.csr.vl = vl ∧
        Tagged t d.toNat (VTag.unsorted (s.vtag d.toNat)) ∧
        (∀ e, e < 65536 * s.span / ty.w → t.elem d.toNat ty e =
          if s.vstart ≤ e ∧ e < n then
            (if inExtents r.extents (coords e) = true then valueAt s.mem ty.w ((at_ e).getD (0, 0)) else 0)
          else s.elem d.toNat ty e) ∧
        (k ≠ 0 → ∀ e < 131072, (t.mask k.toNat).bits.getLsbD e =
          (decide (e < n) && if s.vstart ≤ e then inExtents r.extents (coords e) else (s.mask k.toNat).bits.getLsbD e)) ∧
        Frame { v := [d.toNat], k := if k = 0 then [] else [k.toNat], csr := [0x000, 0x001, 0x002] } s t) ∧
    (let ty := elTy (s.vtag d.toNat)
     let at_ := fun e => s.tensorAt r (s.coreOf ty.w e) (tensorCoords s r b e) true
     let l := (s.lanes k.toNat (s.nOf ty.w)).filter fun e => inExtents r.extents (tensorCoords s r b e)
     s.issues { c := c, cls := some .ls, vr := [d.toNat], kr := [k.toNat], sr := originRegs s h b } cv → s.spanOk →
      s.cleanFor [d.toNat] [k.toNat] → s.settled → s.memoryOk → s.tensorFits h b d r → s.movables [d.toNat] →
      s.tableStays r (tensorCoords s r b) l at_ →
      (∀ e ∈ l, ∃ p, at_ e = some p ∧ plainKey p.1 (elemBytes ty.w)) →
      ∃ t, exec (.tst c k b h d) s = .next t ∧ Completed s t cv ∧
        (∀ e ∈ l, ∀ p, at_ e = some p → (∀ e' ∈ l, e < e' → ∀ p', at_ e' = some p' → placesApart ty.w p p') →
          valueAt t.mem ty.w p = s.elem d.toNat ty e) ∧
        Frame { csr := [0x001], access := true,
                mem := fun x => ∃ e ∈ l, ∃ p, at_ e = some p ∧ p.1 ≤ x ∧ x < p.1 + elemBytes ty.w } s t) ∧
    (s.issues { needsVl := false, whole := true, sr := [a.toNat, b.toNat] } cv → relayoutOperands s h b a = .ok r →
      s.relayoutFits r q a b → s.quiet 6 → s.memoryOk → s.linesOfMain s.hart.home →
      s.wordsAt q r.tstab (tableBytes r / 8) keys true → wordsApart keys →
      ∃ t job, exec (.trelayout q b a h) s = .next t ∧ Completed s t cv ∧
        t.handle h = some (relaid r (s.rs a) (s.rs b) q) ∧ t.relayouts = s.relayouts ++ [job] ∧
        job.record = relaid r (s.rs a) (s.rs b) q ∧ job.asid = s.hart.asid ∧ job.isle = isleOf s.hart.home ∧
        job.finished = [] ∧ job.moving = none ∧ job.promoted = [] ∧
        (∀ y ∈ keys, (∀ x, y ≤ x → x < y + 8 → ¬ s.dirtyAt s.hart.home x) → loadWord t y = 0) ∧
        Frame { h := [h.toNat], csr := [0x001], access := true,
                mem := fun x => inWords keys x ∨ s.dirtyAt s.hart.home x } s t) ∧
    (s.issues { needsVl := false, whole := true } cv →
      ((∀ x, s.handle h = some x → x.rly = false) →
        ∃ t, exec (.twait h) s = .next t ∧ Completed s t cv ∧ Frame { csr := [0x001] } s t) ∧
      (s.handle h = some r → r.rly = true → s.linesOfMain s.hart.home → s.memoryOk →
        (∀ u < unitCount r.extents, ∃ key, deviceSite s s.hart.home s.hart.asid s.hart.user .load (tableWordAddr r u) 8 =
          some (.key key, s) ∧ bits (loadWord s key) (2 * (u % 32)) 2 = 2) →
        ∃ t, exec (.twait h) s = .next t ∧ Completed s t cv ∧ t.handle h = some (settledHandle r) ∧
          (∀ l ∈ t.l1d, l.core ≠ s.hart.home) ∧
          Frame { h := [h.toNat], csr := [0x001], access := true, mem := s.dirtyAt s.hart.home } s t)) ∧
    ∀ blk : TileBlock, tileBlock s b h tr = .ok blk → s.settled →
      (s.tile z).ranked = false →
      (let et := blk.handle.etype
       let w := typeWidth et
       let value := fun i j => valueAt s.mem w ((s.blockAt blk false i j).getD (0, 0))
       let form := fun i j => if isInt et then (⟨wrapTo 80 (intOf et (value i j)), 0, false⟩ : FRes)
         else sumRound ea80 0 [(fmtOf et).val (value i j)]
       let l := (List.range (blk.m * blk.n)).filter fun e =>
         inExtents blk.handle.extents (blk.coords (e / blk.n) (e % blk.n))
       s.issues { needsVl := false, whole := true, zs := [z.toNat] } cv →
        ((s.tile z).kind = .none ∨ (s.tile z).kind = handleKind blk.handle) →
        (∀ i j, i < blk.m → j < blk.n → inExtents blk.handle.extents (blk.coords i j) = true →
          ∃ p, s.blockAt blk false i j = some p ∧ poisoned s p.1 (elemBytes w) = false) →
        ∃ t, exec (.zld b h tr z) s = .next t ∧ Completed s t cv ∧ Queued s t z ∧ (t.tile z).kind = handleKind blk.handle ∧
          (t.tile z).ovf = (s.tile z).ovf ∧
          (∀ i j, i < 128 → j < 128 → (t.tile z).elem i j =
            if i < blk.m ∧ j < blk.n then
              (if inExtents blk.handle.extents (blk.coords i j) = true then (form i j).code else 0)
            else (s.tile z).elem i j) ∧
          t.hart.csr.vflags = s.hart.csr.vflags ||| (flagsOf l fun e => form (e / blk.n) (e % blk.n)).zeroExtend 64 ∧
          Frame { z := [z.toNat], csr := [0x001, 0x003] } s t) ∧
      (let et := blk.handle.etype
       let w := typeWidth et
       let at_ := fun e => s.blockAt blk true (e / blk.n) (e % blk.n)
       let l := (List.range (blk.m * blk.n)).filter fun e =>
         decide (s.vstart ≤ e) && inExtents blk.handle.extents (blk.coords (e / blk.n) (e % blk.n))
       let res := fun e => tileConvert et s.rm ((s.tile z).kind == .fp) ((s.tile z).val (e / blk.n) (e % blk.n))
       s.issues { needsVl := false, zs := [z.toNat] } cv → s.tileIdle z → s.memoryOk →
        s.tableStays blk.handle (fun e => blk.coords (e / blk.n) (e % blk.n)) l at_ →
        (∀ e ∈ l, (s.tile z).bad (e / blk.n) (e % blk.n) = false ∧ ∃ p, at_ e = some p ∧ plainKey p.1 (elemBytes w)) →
        ∃ t, exec (.zst b h tr z) s = .next t ∧ Completed s t cv ∧ t.tile z = s.tile z ∧
          (∀ e ∈ l, ∀ p, at_ e = some p → (∀ e' ∈ l, e < e' → ∀ p', at_ e' = some p' → placesApart w p p') →
            valueAt t.mem w p = (res e).code % 2 ^ w) ∧
          Flagged s t l res ∧
          Frame { csr := [0x001, 0x003, 0x004], access := true,
                  mem := fun x => ∃ e ∈ l, ∃ p, at_ e = some p ∧ p.1 ≤ x ∧ x < p.1 + elemBytes w } s t)

/-- R213-R215, R256: VPROBE and VPROBE.FF pin the pages of a range that is mapped throughout and set A on them and D on
those that are writable (log 71 for a range of mixed pages); at a page that is not mapped VPROBE posts a page-fault record to the
mailbox of its home Isle and waits for the service of the fault, and VPROBE.FF pins what comes before it;
VUNPIN makes a token dead and leaves the streams that used it while it was live unconfigured. -/
def Obligations.ProbeTokens : Prop :=
  ∀ (ff : Bool) (b a : BitVec 5) (q : BitVec 3) (s : State),
    let i : Instr := if ff then .vprobeFf b a q else .vprobe b a q
    let sd := if ff then [b] else []
    let s0 := s.beforeProbe q
    let base := (s.rs a).toNat
    let len := (s.rs b).toNat
    let found := probePages (base + len) (len / 4096 + 2) base ⟨[], true⟩ s0
    (s.probes b a q →
      (∀ p s1, found = .ok (.all p) s1 →
        ∃ t, exec i s = .next t ∧ retiredAt s t (s.hart.pc + 4) ∧
          t.hart.token q = ⟨true, p.w, s.rs a, s.rs b, p.pins⟩ ∧ (ff = true → t.holds b (s.rs b)) ∧
          Frame { s := sd, q := [q.toNat] } s1 t) ∧
      (∀ l, s.memoryOk → walk s0 (isleOf s.hart.home) s.hart.asid base = some l →
        pteAllows l.pte s.hart.user .load = true → pageMigrates s l.pa l.size = false → base % l.size + len ≤ l.size →
        let w := pteAllows l.pte s.hart.user .store
        ∃ t, exec i s = .next t ∧ retiredAt s t (s.hart.pc + 4) ∧
          t.hart.token q = ⟨true, w, s.rs a, s.rs b, [⟨base / l.size * l.size, l.pa, l.size⟩]⟩ ∧
          loadWord t l.key = l.pte ||| (if w then 0xC0 else 0x40) ∧
          Frame { s := sd, q := [q.toNat], access := true, mem := inWords [l.key] } s t) ∧
      (∀ va p s1, found = .ok (.unmapped va p) s1 →
        if ff then
          let n := BitVec.ofNat 64 (va - base)
          ∃ t, exec i s = .next t ∧ retiredAt s t (s.hart.pc + 4) ∧ t.holds b n ∧
            t.hart.token q = (if n = 0 then Token.dead else ⟨true, p.w, s.rs a, n, p.pins⟩) ∧
            Frame { s := [b], q := [q.toNat] } s1 t
        else ∃ t n, exec i s = .next t ∧ t.hart.st = .swapped ∧ t.hart.pc = s.hart.pc ∧
          t.hart.waits = .fault (isleOf s.hart.home) n (BitVec.ofNat 64 va) ∧ t.hart.token q = Token.dead ∧
          t.hart.csr.retired = s.hart.csr.retired ∧
          (s.memoryOk → PostedBy s1 t (isleOf s.hart.home % 8)
            ⟨noteRecord 0x01 s.hart.name.1 s.hart.asid.toNat (bits s.hart.csr.hartid 0 11) (BitVec.ofNat 64 va)
              (q.zeroExtend 64), bit s.ctl.mode 0, some s.hart.name⟩))) ∧
    (s.unpoisoned [a, b] → s.settled → (∀ f, ¬ s.streamsThrough q f) → s.rs b = 0 →
      ∃ t, exec i s = .next t ∧ retiredAt s t (s.hart.pc + 4) ∧ t.hart.token q = Token.dead ∧
        Frame { q := [q.toNat], access := true } s t) ∧
    (s.unpoisoned [a, b] → s.settled → (∀ f, ¬ s.streamsThrough q f) → s.hart.tact = false → s.rs b ≠ 0 →
      probeRangeBad (s.rs a) (s.rs b) = true →
      ∃ t, exec i s = .next t ∧ Entered s0 t 0x07 (s.rs a) s.hart.pc 0) ∧
    (s.settled →
      ∃ t, exec (.vunpin q) s = .next t ∧ retiredAt s t (s.hart.pc + 4) ∧ t.hart.token q = Token.dead ∧
        t = { s with hart := t.hart } ∧
        (∀ n : Fin 8, t.hart.f[n] = s.hart.f[n].filter fun f => !((s.hart.token q).live && streamUses s.hart f q)) ∧
        Frame { q := [q.toNat], f := List.range 8, access := true } s t)

/-- R189, R190, R208-R211: GTSCFG gives the hart its groups and the first item, which the other members of the gang do not see
before a GBAR's release; GTSNEXT hands the items out one by one; and
VROUTE gives each token, in index order, the first of its choices that has room, below its capacity. That its counters are reached
through a token of W = 0 too is log 65. -/
def Obligations.SchedulerAndRouting : Prop :=
  ∀ (k : BitVec 3) (b a d : BitVec 5) (q : BitVec 3) (s : State) (cv : Convoy),
    (∀ (g : Gang) (keys : List Nat),
      let n := bits (s.rs b) 0 16
      let gs := (recordsOf n (keys.map (loadWord s))).map groupRec
      s.issues { needsVl := false, whole := true, sr := [a.toNat, b.toNat] } cv → s.settled →
      bits (s.rs b) 16 48 = 0 → (s.rs a).toNat % 64 = 0 → (n = 0 ∨ tokenCovers (s.hart.token q) q (s.rs a) (64 * n) = true) →
      s.wordsAt q (s.rs a) (8 * n) keys false → (∀ y ∈ keys, poisoned s y 8 = false) →
      (∀ x ∈ gs, x.2 = true ∧ 1 ≤ x.1.tm ∧ x.1.tm ≤ 128 ∧ 1 ≤ x.1.tn ∧ x.1.tn ≤ 128) →
      (gs.map fun x => x.1.items).sum < 2 ^ 32 → findGang s s.hart.name.1 = some g →
      ∃ t g', exec (.gtscfg q b a) s = .next t ∧ Completed s t cv ∧ g'.groupsOf s.hart.name.2 = (gs.map (·.1), 0) ∧
        (∀ m, m ≠ s.hart.name.2 → g'.groupsOf m = g.groupsOf m) ∧ { g' with newGroups := g.newGroups } = g ∧
        Frame { csr := [0x001] } (setGang s g') t) ∧
    (∀ g : Gang,
      let member := s.hart.name.2
      let groups := (g.groupsOf member).1
      let next := (g.groupsOf member).2
      let before := fun n => ((groups.take n).map GroupRec.items).sum
      a.toNat + 3 < 32 → findGang s s.hart.name.1 = some g →
      s.issues { needsVl := false, whole := true, sw := (List.range 4).map (a.toNat + ·) } cv →
      (∀ (n : Nat) (r : GroupRec), groups[n]? = some r → before n ≤ next → next < before n + r.items →
        let i := next - before n
        let row := i / r.chunks / r.cols * r.tm
        let col := i / r.chunks % r.cols * r.tn
        let chunk := i % r.chunks
        let first := if r.chunks = 1 then 0 else chunk * r.kc
        let last := if r.chunks = 1 then r.k else min r.k ((chunk + 1) * r.kc)
        ∃ t g', exec (.gtsnext a) s = .next t ∧ Completed s t cv ∧ t.holds a (BitVec.ofNat 64 n) ∧
          t.holds (a + 1) (BitVec.ofNat 64 (row + col * 2 ^ 32)) ∧ t.holds (a + 2) (BitVec.ofNat 64 (first + last * 2 ^ 32)) ∧
          t.holds (a + 3) (BitVec.ofNat 64 (min r.tm (r.m - row) + min r.tn (r.n - col) * 2 ^ 16 +
            (if chunk = 0 then 2 ^ 32 else 0) + (if chunk + 1 = r.chunks then 2 ^ 33 else 0))) ∧
          g'.groupsOf member = (groups, next + 1) ∧
          Frame { s := [a, a + 1, a + 2, a + 3], csr := [0x001], known := true } (setGang s g') t) ∧
      (before groups.length ≤ next →
        ∃ t, exec (.gtsnext a) s = .next t ∧ Completed s t cv ∧ t.holds a 0x8000000000000000 ∧ t.holds (a + 1) 0 ∧
          t.holds (a + 2) 0 ∧ t.holds (a + 3) 0 ∧ Frame { s := [a, a + 1, a + 2, a + 3], csr := [0x001], known := true } s t)) ∧
    (∀ key : Nat → Nat,
      let par := s.rs (b + 1)
      let nexp := bits par 16 16
      let regs := (List.range (bits par 0 4)).map (a.toNat + ·)
      let l := s.lanes k.toNat (s.nOf 32)
      let choices := fun e => (regs.map fun r => s.elem r (plain 6) e).filter fun x => decide (x < nexp)
      let used := fun x => bits (loadWord s (key x)) 0 32
      let cap := fun x => bits (loadWord s (key x)) 32 32
      let out := routeTokens cap choices l used
      let regOf := fun e => (out.1.find? fun p => p.1 == e).bind (·.2)
      let touched := fun x => ∃ e ∈ l, x ∈ choices e
      s.issues { vr := regs, vw := [d.toNat, d.toNat + 1], kr := [k.toNat], kw := [k.toNat],
                 sr := [b.toNat, b.toNat + 1] } cv → s.spanOk → s.cleanFor regs [k.toNat] → s.settled → s.memoryOk →
      routeParamsOk par = true → s.noScale regs → (∀ r ∈ regs, s.vtype r = 6) → k ≠ 0 → b.toNat < 31 → (∀ r ∈ regs, r ≠ d.toNat + 1) →
      (∀ e ∈ l, ∀ x ∈ choices e, s.keyAt (s.coreOf 16 e) (BitVec.ofNat 3 (bits par 8 3)) (s.rs b + BitVec.ofNat 64 (8 * x)) 8 false =
        some (key x) ∧ plainKey (key x) 8 ∧ poisoned s (key x) 8 = false) →
      (∀ x y, touched x → touched y → x ≠ y → key x + 8 ≤ key y ∨ key y + 8 ≤ key x) →
      ∃ t, exec (.vroute k b a d) s = .next t ∧ Completed s t cv ∧ Tagged t d.toNat (typeTag 6) ∧
        Tagged t (d.toNat + 1) (typeTag 7) ∧
        (∀ e, e < 65536 * s.span / 16 → t.elem d.toNat (plain 6) e =
          if e ∈ l then ((regOf e).map (·.1)).getD 0xFFFF else s.elem d.toNat (plain 6) e) ∧
        (∀ e, e < 65536 * s.span / 32 → t.elem (d.toNat + 1) (plain 7) e =
          if e ∈ l then ((regOf e).map (·.2)).getD 0 else s.elem (d.toNat + 1) (plain 7) e) ∧
        (∀ e < s.nOf 32, (t.mask k.toNat).bits.getLsbD e =
          if e ∈ l then (regOf e).isSome else (s.mask k.toNat).bits.getLsbD e) ∧
        t.hart.csr.vstat = (if l.any fun e => (regOf e).isNone then s.hart.csr.vstat ||| 1 else s.hart.csr.vstat) ∧
        (∀ x, touched x → loadWord t (key x) = BitVec.ofNat 64 (out.2 x + cap x * 2 ^ 32)) ∧
        (∀ e p, regOf e = some p → p.2 < cap p.1) ∧
        Frame { v := [d.toNat, d.toNat + 1], k := [k.toNat], csr := [0x001, 0x002, 0x004], access := true,
                mem := fun x => ∃ y, touched y ∧ key y ≤ x ∧ x < key y + 8 } s t)

/-- R230-R234, R273, R281: SCFG, SRD, SWR and SAVAIL on streams, CPY's start of a transfer, after a store of the hart that it
meets, and VXLATE. The stores of a write stream are performed in their order, and no byte but theirs changes, nor any but dirty bytes
of the L1D (R278). The checks of SCFG with EN = 0 are log 68,
the fault VXLATE.FF keeps log 69, the remaining corners of streams and transfers logs 13 and 37. -/
def Obligations.StreamsAndCopies : Prop :=
  ∀ (c x : Bool) (q r k f : BitVec 3) (b a d : BitVec 5) (s : State) (cv : Convoy),
    (let ctl := s.rs b
     let new : Stream :=
       { base := s.rs a, stride := s.rs (a + 1), avl := s.rs (a + 2), ctl := ctl, token := q, position := 0, buf := [], moved := 0 }
     let n := new.width / 8
     let at_ := fun i : Nat => (new.base.toNat : Int) + i * (if new.stride = 0 then (n : Int) else new.stride.toInt)
     s.issues { needsVl := false, whole := true, sr := [a.toNat, a.toNat + 1, a.toNat + 2, b.toNat] } cv → a.toNat + 2 < 32 →
      (∀ old, s.stream f = some old → old.writes = true → old.buf = []) → streamWordOk s f new = .ok () →
      (bit ctl 6 = false →
        ∃ t, exec (.scfg q b a f) s = .next t ∧ Completed s t cv ∧ t.stream f = none ∧
          Frame { f := [f.toNat], csr := [0x001] } s t) ∧
      (bit ctl 6 = true →
        (new.hmode = false → new.width = 4 → new.avl ≠ 0 →
          tokenCovers (s.hart.token q) q new.base ((new.avl.toNat + 1) / 2) = true) →
        (new.hmode = false → new.width ≠ 4 → new.base.toNat % n = 0 ∧ new.stride.toNat % n = 0 ∧
          ∀ i < new.avl.toNat, 0 ≤ at_ i ∧ at_ i < 2 ^ 64 ∧ tokenCovers (s.hart.token q) q (BitVec.ofInt 64 (at_ i)) n = true) →
        ∃ t, exec (.scfg q b a f) s = .next t ∧ Completed s t cv ∧ t.stream f = some new ∧
          Frame { f := [f.toNat], csr := [0x001] } s t)) ∧
    (∀ y : Stream,
      let ty := elTy (s.vtag d.toNat)
      let n := min s.hart.csr.vl.toNat (min (streamCounter s.hart y) (y.avl.toNat - y.position.toNat))
      s.stream f = some y → s.legalTypes [d.toNat] → isPlaneType (s.vtype d.toNat) = false → s.vtype d.toNat ≤ 15 →
      typeWidth (s.vtype d.toNat) = y.width → s.spanOk → (0 < streamCounter s.hart y ∨ y.position = y.avl) →
      (y.writes = false → s.issues { c := c, cls := some .ls, vw := [d.toNat] } cv →
        (∀ e, s.vstart ≤ e → e < n → (y.buf.getD e ⟨0, true, none, 0⟩).poison = false ∧
          ∃ p, streamSite s y (streamCore s y (y.position.toNat + e)) e false = .ok p s) →
        ∃ t, exec (.srd c f d) s = .next t ∧ Completed s t cv ∧ t.hart.csr.vl = BitVec.ofNat 64 n ∧
          Tagged t d.toNat (VTag.unsorted (s.vtag d.toNat)) ∧
          (∀ e, e < 65536 * s.span / ty.w → t.elem d.toNat ty e =
            if s.vstart ≤ e ∧ e < n then (y.buf.getD e ⟨0, true, none, 0⟩).value.toNat % 2 ^ ty.w else s.elem d.toNat ty e) ∧
          t.stream f = some { y with position := y.position + BitVec.ofNat 64 n, buf := y.buf.drop n } ∧
          Frame { v := [d.toNat], f := [f.toNat], csr := [0x000, 0x001, 0x002] } s t) ∧
      (y.writes = true → s.issues { c := c, cls := some .ls, vr := [d.toNat] } cv → s.cleanFor [d.toNat] [] →
        s.movables [d.toNat] → s.hart.order = .prompt → s.hart.transfers = [] →
        (∀ (i : Fin 8) (g : Stream), s.hart.f[i] = some g → g.writes = true → g.buf ≠ [] → i.val = f.toNat) →
        (y.buf = [] ∨ y.moved.toNat + y.buf.length = y.position.toNat + s.vstart) →
        ∀ key nib : Nat → Nat,
        (∀ e, s.vstart ≤ e → e < n → ∃ a, streamSite s y (s.coreOf ty.w e) e true = .ok (.key (key e), a, nib e) s) →
        let items := ((List.range n).filter fun e => decide (s.vstart ≤ e)).map fun e =>
          (⟨BitVec.ofNat 64 (s.elem d.toNat ty e), false, some (.key (key e)), nib e⟩ : StreamItem)
        let m := elemBytes y.width
        let apart := (y.buf ++ items).Pairwise fun u v => ∀ p ∈ u.site, ∀ q ∈ v.site, p.meets m q m = false
        (apart → ∃ t, exec (.swr c f d) s = .next t ∧ Completed s t cv ∧ t.hart.csr.vl = BitVec.ofNat 64 n ∧
          t.stream f = some { y with
            position := y.position + BitVec.ofNat 64 n, buf := y.buf ++ items
            moved := if y.buf = [] ∧ s.vstart < n then y.position + BitVec.ofNat 64 s.vstart else y.moved } ∧
          Frame { f := [f.toNat], csr := [0x000, 0x001] } s t) ∧
        ((y.hmode = true → ∀ h, s.handle (BitVec.ofNat 4 y.hnum) = some h → Handle.rly h = false) →
          (∀ u ∈ y.buf, ∃ k, u.site = some (.key k)) → s.memoryOk →
          ∃ t g done, exec (.swr c f d) s = .next t ∧ Completed s t cv ∧ t.hart.csr.vl = BitVec.ofNat 64 n ∧
            t.stream f = some g ∧ g.position = y.position + BitVec.ofNat 64 n ∧ y.buf ++ items = done ++ g.buf ∧
            (∀ (i : Nat) (u : StreamItem) (k : Nat), done[i]? = some u → u.site = some (.key k) → plainKey k m →
              (∀ (j : Nat) (v : StreamItem), i < j → done[j]? = some v → ∀ p ∈ v.site, p.meets m (.key k) m = false) →
              (∀ x, k ≤ x → x < k + m → ¬ s.dirtyAt s.hart.home x) →
              valueAt t.mem y.width (k, u.nib) = u.value.toNat % 2 ^ y.width) ∧
            Frame { f := [f.toNat], csr := [0x000, 0x001], access := true,
                    mem := fun x => (∃ u ∈ y.buf ++ items, ∃ k, u.site = some (.key k) ∧ k ≤ x ∧ x < k + m) ∨
                      s.dirtyAt s.hart.home x } s t))) ∧
    (∀ y : Stream, s.stream f = some y → s.issues { needsVl := false, whole := true, sw := [d.toNat] } cv →
      ∃ t, exec (.savail b f d) s = .next t ∧ Completed s t cv ∧
        t.holds d (if b = 0 then BitVec.ofNat 64 (streamCounter s.hart y) else y.position) ∧
        ((if y.writes then y.buf = [] else y.buf.length = stripSize s.hart y.width ∨ y.moved = y.avl) →
          Frame { s := [d], csr := [0x001], known := true } s t)) ∧
    (∀ from_ dest : Nat → Nat,
      let src := s.rs a
      let dst := s.rs d
      let len := (s.rs b).toNat
      let off := fun i : Nat => BitVec.ofNat 64 (8 * i)
      let words := (List.range (len / 8)).filter fun i => decide (8 * s.vstart ≤ i)
      let apart := fun g : Segment =>
        (∀ tr ∈ s.hart.transfers, transferTouches tr g.src 8 true = false ∧ transferTouches tr g.dst 8 false = false) ∧
        ∀ (n : Fin 8) (y : Stream), s.hart.f[n] = some y → streamMeets y g.src 8 = false ∧ streamMeets y g.dst 8 = false
      s.issues { needsVl := false, sr := [d.toNat, a.toNat, b.toNat] } cv → src.toNat % 8 = 0 → dst.toNat % 8 = 0 → len % 8 = 0 →
      len < 2 ^ 40 → (len = 0 ∨ (s.hart.token r).w = true) →
      (∀ i < (len + 63) / 64, s.vstart ≤ i →
        tokenCovers (s.hart.token q) q (src + off (8 * i)) (min 64 (len - 64 * i)) = true ∧
        tokenCovers (s.hart.token r) r (dst + off (8 * i)) (min 64 (len - 64 * i)) = true) →
      (∀ i < len / 8, tokenSite s s.hart.home q (src + off i) 8 false true = .ok (.key (from_ i)) ∧
        tokenSite s s.hart.home r (dst + off i) 8 true true = .ok (.key (dest i))) →
      (∀ i ∈ words, apart ⟨.key (from_ i), .key (dest i)⟩) →
      (s.hart.order = .prompt →
        ∃ t, exec (.cpy q r b a d) s = .next t ∧ Completed s t cv ∧ t = { s with hart := t.hart } ∧
          (words = [] → t.hart.transfers = s.hart.transfers) ∧
          (words ≠ [] → ∃ tr : Transfer, t.hart.transfers = s.hart.transfers ++ [tr] ∧ tr.tags = [] ∧ tr.home = s.hart.home ∧
            tr.segs = words.map fun i => ⟨.key (from_ i), .key (dest i)⟩) ∧
          Frame { csr := [0x001], access := true } s t) ∧
      (∀ (y z : Bool) (at_ n v x : Nat), s.hart.order = ⟨y, z, [], [.store at_ n v x], []⟩ → 0 < n → plainKey at_ n → s.memoryOk →
        (∃ i ∈ words, (from_ i < at_ + n ∧ at_ < from_ i + 8) ∨ (dest i < at_ + n ∧ at_ < dest i + 8)) →
        ∃ t tr, exec (.cpy q r b a d) s = .next t ∧ Completed s t cv ∧ t.hart.order.vector = [] ∧
          readLE t.mem at_ n = v % 2 ^ (8 * n) ∧ t.hart.transfers = s.hart.transfers ++ [tr] ∧
          Frame { csr := [0x001], access := true, mem := fun x => at_ ≤ x ∧ x < at_ + n } s t)) ∧
    (∀ key : Nat → Nat,
      let par := s.rs (b + 1)
      let lb := bits par 0 4
      let n := s.nOf 64
      let token := s.elem a.toNat (plain 7)
      let inTable := fun e => decide (token e / 2 ^ lb < bits par 32 32)
      let entry := fun e => if inTable e then readLE s.mem (key e) 4 else 0xFFFFFFFF
      let fault := fun e => entry e == 0xFFFFFFFF
      let value := fun e => if fault e then 0
        else ((s.rs (b + 2)).toNat + (entry e * 2 ^ lb + token e % 2 ^ lb) * bits par 16 16) % 2 ^ 64
      s.issues { vr := [a.toNat], vw := [d.toNat], kw := [k.toNat], sr := [b.toNat, b.toNat + 1, b.toNat + 2] } cv → s.spanOk →
      b.toNat + 2 < 32 → s.cleanFor [a.toNat] [] → xlateWordOk par = true → s.vtype a.toNat = 7 → d ≠ a →
      s.settled →
      (∀ e, s.vstart ≤ e → e < n → inTable e = true →
        tokenSite s (s.coreOf 64 e) q (s.rs b + BitVec.ofNat 64 (4 * (token e / 2 ^ lb))) 4 false false = .ok (.key (key e)) ∧
        poisoned s (key e) 4 = false) →
      ∃ t, exec (.vxlate q x k b a d) s = .next t ∧ Completed s t cv ∧ Tagged t d.toNat (typeTag 8) ∧
        (∀ e, e < 65536 * s.span / 64 →
          t.elem d.toNat (plain 8) e = if s.vstart ≤ e ∧ e < n then value e else s.elem d.toNat (plain 8) e) ∧
        (k ≠ 0 → ∀ e < n, (t.mask k.toNat).bits.getLsbD e =
          if s.vstart ≤ e then fault e else (s.mask k.toNat).bits.getLsbD e) ∧
        (x = true → t.hart.csr.vl = (((if k = 0 ∧ 0 < min s.vstart n then s.hart.xlateFault else none).or
          ((List.range n).find? fun e => if s.vstart ≤ e then fault e
            else decide (k ≠ 0) && (s.mask k.toNat).bits.getLsbD e)).map (BitVec.ofNat 64)).getD s.hart.csr.vl) ∧
        t.hart.xlateFault = none ∧
        Frame { v := [d.toNat], k := if k = 0 then [] else [k.toNat], csr := if x then [0x000, 0x001, 0x002] else [0x001, 0x002] }
          s t)

/-- R235, R236: PFXLOOK attaches the nodes it reaches, PFXINS keeps the pages that exist and adds the others, PFXDET detaches, and
PFXEVICT removes nodes that nothing holds; what each writes to its buffer and to sd. The corners of the walk are log 36. -/
def Obligations.PrefixStore : Prop :=
  ∀ (q : BitVec 3) (b a d : BitVec 5) (s : State) (cv : Convoy) (keys : List Nat),
    let tree := bits (s.rs (b + 1)) 0 16
    let maxf := bits (s.rs (b + 1)) 32 16
    let n := s.nOf 32
    let ids := (List.range n).map fun e => BitVec.ofNat 32 (s.elem a.toNat (plain 3) e)
    let pages := (List.range (n / 16)).map fun j => (ids.drop (16 * j)).take 16
    let result := fun (status len : Nat) => BitVec.ofNat 64 (status * 2 ^ 56 + len)
    let changes : Touched :=
      { s := [d], csr := [0x001], access := true
        mem := fun x => (∃ y ∈ keys, y ≤ x ∧ x < y + 4) ∨ s.dirtyAt s.hart.home x }
    let Ends := fun (i : Instr) (t : State) => exec i s = .next t ∧ Completed s t cv
    let quietly : Touched := { changes with mem := s.dirtyAt s.hart.home }
    (s.prefixFits .look q b a d keys cv →
      ∃ t path m, Ends (.pfxlook q b a d) t ∧ s.reached tree ids path m ∧ t.holds d (result 0 m) ∧ t.atoll = counted s path ∧
        bufferHolds s t keys (path.map (·.page)) ∧ Frame changes s t) ∧
    (s.prefixFits .insert q b a d keys cv → (∀ y ∈ keys, poisoned s y 4 = false) → ∃ path, s.adopted tree pages path ∧
      (atollNodes < s.atoll.length + (n / 16 - path.length) → path.length < n / 16 →
        ∃ t, Ends (.pfxins q b a d) t ∧ t.holds d (result 3 (16 * path.length)) ∧ t.atoll = s.atoll ∧ Frame quietly s t) ∧
      (s.atoll.length + (n / 16 - path.length) ≤ atollNodes →
        ∃ t new, Ends (.pfxins q b a d) t ∧ t.holds d (result 0 (16 * path.length)) ∧
          t.atoll = counted s path ++ new ∧ path.length + new.length = n / 16 ∧
          (∀ j x, new[j]? = some x → x.tree = tree ∧ x.count = 1 ∧ pages[path.length + j]? = some x.tokens ∧
            (path.length + j < keys.length → x.page = BitVec.ofNat 32 (readLE s.mem (keys.getD (path.length + j) 0) 4)) ∧
            x.parent = if j = 0 then path.getLast?.map (·.id) else (new[j - 1]?).map (·.id)) ∧
          (s.atoll.length + new.length ≤ atollNodes - atollNodes / 16 → Frame quietly s t))) ∧
    (s.prefixFits .detach q b a d keys cv →
      ∃ t path m, s.reached tree ids path m ∧
        (let on := if m ≠ n ∧ m % 16 ≠ 0 then path.dropLast else path
         let held := on.filter fun x => x.count != 0
         Ends (.pfxdet q b a d) t ∧ t.holds d (result (if m = n ∧ held.length = on.length then 0 else 2) held.length) ∧
          t.atoll = (s.atoll.map fun x => if (held.map (·.id)).contains x.id then { x with count := x.count - 1 } else x) ∧
          Frame quietly s t)) ∧
    (s.prefixFits .evict q b a d keys cv →
      (n = 0 → bit s.ctl.mode 1 = true →
        ∃ t, Ends (.pfxevict q b a d) t ∧ t.holds d (result 2 0) ∧ t.atoll = s.atoll ∧ Frame quietly s t) ∧
      (n = 0 → bit s.ctl.mode 1 = false →
        ∃ t gone, Ends (.pfxevict q b a d) t ∧ Removed s t gone ∧ t.holds d (result 0 gone.length) ∧ gone.length ≤ maxf ∧
          (∀ x ∈ gone, x.tree = tree) ∧
          (gone.length = maxf ∨ ∀ y ∈ t.atoll, y.tree = tree → removable t y = false) ∧
          (∀ x, gone[0]? = some x → ∀ y ∈ s.atoll, y.tree = tree → removable s y = true → x.attached ≤ y.attached) ∧
          bufferHolds s t keys (gone.map (·.page)) ∧ Frame changes s t) ∧
      (0 < n → ∃ path, s.adopted tree pages path ∧
        (n % 16 ≠ 0 ∨ path.length < n / 16 →
          ∃ t, Ends (.pfxevict q b a d) t ∧ t.holds d (result 2 0) ∧ t.atoll = s.atoll ∧ Frame quietly s t) ∧
        (n % 16 = 0 → path.length = n / 16 → ∀ x ∈ path.getLast?,
          (removable s x = false →
            ∃ t, Ends (.pfxevict q b a d) t ∧ t.holds d (result 1 0) ∧ t.atoll = s.atoll ∧ Frame quietly s t) ∧
          (removable s x = true →
            ∃ t gone, Ends (.pfxevict q b a d) t ∧ Removed s t gone ∧ t.holds d (result 0 gone.length) ∧
              gone = path.reverse.take gone.length ∧ 0 < gone.length ∧
              (∀ y, path.reverse[gone.length]? = some y → removable t y = false) ∧
              bufferHolds s t keys (gone.map (·.page)) ∧ Frame changes s t))))

/-- R237, R238: PBAY opens or closes a bay and zeroes its counts; PSEND delivers its parcels within the module in the order of their
elements, each to the next slot of its bay, with the bytes its source held before, or to the count of the dropped, and gives both
counts. That a destination word which names the module's own NODE with LOCAL = 0 stays in the module is log 35. -/
def Obligations.Parcels : Prop :=
  (∀ (q : BitVec 3) (b a : BitVec 5) (s : State) (cv : Convoy) (off : Nat),
    let w := s.rs b
    let core := s.hart.home
    let slots := bits w 16 16
    s.issues { needsVl := false, whole := true, sr := [a.toNat, b.toNat] } cv → bayWordOk w = true → (s.rs a).toNat % 64 = 0 →
    bayOffset s q (s.rs a) (64 + slots * (64 * 2 ^ bits w 8 4)) = some off → bayTaken s core (bits w 0 6) = false →
    s.settled → s.memoryOk →
    ∃ t, exec (.pbay q b a) s = .next t ∧ Completed s t cv ∧
      findBay t core (bits w 0 6) = (if slots = 0 then none
        else some ⟨core, bits w 0 6, BitVec.ofNat 32 s.hart.name.1, s.hart.name.2, off, slots, bits w 8 4⟩) ∧
      (∀ c n, (c, n) ≠ (core, bits w 0 6) → findBay t c n = findBay s c n) ∧
      readLE t.mem (coreKey core off) 16 = 0 ∧
      Frame { csr := [0x001], access := true, mem := fun x => coreKey core off ≤ x ∧ x < coreKey core off + 16 } s t) ∧
  ∀ (q k : BitVec 3) (b a d : BitVec 5) (s : State) (cv : Convoy) (from_ : Nat → Nat → Nat),
    let len := (s.rs d).toNat
    let l := (List.range (s.nOf 64)).filter (s.active k.toNat)
    let dest := fun e => BitVec.ofNat 64 (s.elem a.toNat (plain 8) e)
    let src := fun e => BitVec.ofNat 64 (s.elem b.toNat (plain 8) e)
    s.issues { engine := true, whole := true, vr := [a.toNat, b.toNat], kr := [k.toNat], sr := [d.toNat], sw := [d.toNat] } cv →
    s.spanOk → s.cleanFor [a.toNat, b.toNat] [k.toNat] → parcelLengthOk (s.rs d) = true → s.vtype a.toNat = 8 → s.vtype b.toNat = 8 →
    s.settled → s.hart.psend = none → s.memoryOk →
    (∀ e ∈ l, (src e).toNat % 64 = 0 ∧ tokenCovers (s.hart.token q) q (src e) len = true ∧ destOk (dest e) = true ∧
      destLocal s (dest e) = true ∧ ∀ j < len / 8, tokenSite s (s.coreOf 64 e) q (src e + BitVec.ofNat 64 (8 * j)) 8 false true =
        .ok (.key (from_ e j))) →
    (∃ t n m, exec (.psend q k b a d) s = .next t ∧ Completed s t cv ∧ n + m = l.length ∧
      t.holds d (BitVec.ofNat 64 (n + m * 2 ^ 32)) ∧ t.hart.psend = none ∧ t.bays = s.bays ∧
      Frame { s := [d], csr := [0x001], access := true, mem := s.inBay } s t) ∧
    (∀ y, (∀ e ∈ l, findBay s (destCore (dest e)) (destBay (dest e)) = some y) →
      let at_ := coreKey y.core y.off
      let arrived := (loadWord s at_).toNat
      let taken := if len ≤ y.slotBytes then min l.length (y.slots - arrived) else 0
      arrived + l.length < 2 ^ 64 →
      ∃ t, exec (.psend q k b a d) s = .next t ∧ t.holds d (BitVec.ofNat 64 (taken + (l.length - taken) * 2 ^ 32)) ∧
        loadWord t at_ = loadWord s at_ + BitVec.ofNat 64 taken ∧
        loadWord t (at_ + 8) = loadWord s (at_ + 8) + BitVec.ofNat 64 (l.length - taken) ∧
        ∀ i < taken, ∀ j < len / 8,
          loadWord t (at_ + 64 + (arrived + i) * y.slotBytes + 8 * j) = loadWord s (from_ (l.getD i 0) j)) ∧
    ((∀ e ∈ l, findBay s (destCore (dest e)) (destBay (dest e)) = none) →
      ∃ t, exec (.psend q k b a d) s = .next t ∧ t.holds d (BitVec.ofNat 64 (l.length * 2 ^ 32)) ∧ t.mem = s.mem)

/-! ### The device's own steps -/

/-- R24, R121, R122, R127, R248, R291, R295, R312, R317, R326: the events of a hart: WAITW and GBAR are evaluated again,
the hold of PAUSE ends, a watchdog count that has reached WDLIMIT traps or suspends the gang, and the reply to a fault lets VPROBE run again or traps. That a
hart whose WAITW would trap when it is evaluated again wakes and takes the trap at its WAITW is log 66; when the events fall is the
agenda's (log 1), and that a trap waits for a PSEND in flight and what count a suspended hart keeps are log 40. -/
def Obligations.HartEvents : Prop :=
  ∀ (g m : Nat) (s u : State), s.standsAt g m u →
    let woken : HartState := if u.hart.tact then .trapped else .ready
    (u.hart.pauseUntil ≤ u.clk → Acts (.pauseExpiry g m) s g m fun t => t = setHart u { u.hart with pauseUntil := 0 }) ∧
    (u.clk < u.hart.pauseUntil → Acts (.pauseExpiry g m) s g m fun t => t = u) ∧
    (gangIssues u u.hart = true → u.hart.stopped = false →
      (∀ (a : Word) (sc : BitVec 4) (c : BitVec 3) (x : Word) (d : BitVec 5) (k : Nat) (u1 : State),
        u.hart.waits = .word a sc c x d → u.settled → u.memoryOk →
        (u.windowKey a 8 k ∧ u1 = u ∨ u.mappedAt a 8 .load k u1 ∧ k < mainBytes) → poisoned u1 k 8 = false →
        (waitHolds c.toNat (loadWord u1 k) x = true → Acts (.waitwWake g m) s g m fun t =>
          t.hart.st = woken ∧ t.hart.waits = .nothing ∧ retiredAt u t (u.hart.pc + 4) ∧ t.holds d (loadWord u1 k) ∧
          (2 ≤ sc.toNat → ∀ l ∈ t.l1d, l.core ≠ u.hart.home) ∧ (7 ≤ sc.toNat → ∀ l ∈ t.rlb, l.isle ≠ isleOf u.hart.home) ∧
          Frame { s := [d], place := true, access := true, mem := u1.dirtyAt u.hart.home } u1 t) ∧
        (waitHolds c.toNat (loadWord u1 k) x = false → Acts (.waitwWake g m) s g m fun t => t = u1)) ∧
      (∀ (a : Word) (sc : BitVec 4) (c : BitVec 3) (x : Word) (d : BitVec 5) (k : Nat), u.hart.waits = .word a sc c x d →
        u.settled → u.memoryOk → u.windowKey a 8 k → poisoned u k 8 = true → Acts (.waitwWake g m) s g m fun t =>
          t.hart.st = woken ∧ t.hart.waits = .nothing ∧ t.hart.pc = u.hart.pc ∧ Frame { place := true } u t) ∧
      (∀ (p : Nat) (x : Gang), u.hart.waits = .barrier p → findGang u u.hart.name.1 = some x → u.memoryOk →
        (x.phase ≠ p → Acts (.gbarWake g m) s g m fun t => t.hart.st = woken ∧ t.hart.waits = .nothing ∧
          retiredAt u t (u.hart.pc + 4) ∧ (∀ l ∈ t.l1d, l.core ≠ u.hart.home) ∧
          Frame { place := true, access := true, mem := u.dirtyAt u.hart.home } u t) ∧
        (x.phase = p → Acts (.gbarWake g m) s g m fun t => t = u)) ∧
      (let limit := u.hart.csr.wdlimit
       let due := u.hart.st = .run ∧ limit ≠ 0 ∧ limit.toNat ≤ u.hart.wdcount
       (due → u.hart.psend = none → u.hart.progress = none → bit u.ctl.mode 2 = false → u.hart.tact = false →
        Acts (.watchdogExpiry g m) s g m fun t => Entered u t 0x14 limit u.hart.pc u.hart.csr.vstart) ∧
       (due → u.hart.psend ≠ none → bit u.ctl.mode 2 = false → Acts (.watchdogExpiry g m) s g m fun t => t = u) ∧
       (∀ x, due → bit u.ctl.mode 2 = true → findGang u u.hart.name.1 = some x →
        Acts (.watchdogExpiry g m) s g m fun t => t.hart.wdcount = 0 ∧ t.hart.expired = true ∧ t.hart.pc = u.hart.pc ∧
          ∃ y, findGang t u.hart.name.1 = some y ∧ y.status = .suspended) ∧
       (¬ due → Acts (.watchdogExpiry g m) s g m fun t => t = u))) ∧
    (∀ (isle n : Nat) (va : Word), u.hart.waits = .fault isle (some n) va →
      let r := replyByte u isle n
      let acquired := fun t : State => (∀ l ∈ t.l1d, l.core ≠ u.hart.home) ∧ t.hart.waits = .nothing ∧ t.hart.pc = u.hart.pc ∧
        Frame { place := true, access := true, mem := u.dirtyAt u.hart.home } u t
      u.memoryOk →
      (r = 0 → Acts (.probeFaultReply g m) s g m fun t => t = u) ∧
      (r ≠ 0 → contextSaved u = true → Acts (.probeFaultReply g m) s g m fun t =>
        t = setHart u { u.hart with waits := if r = 1 then .nothing else .denied va }) ∧
      (r = 1 → contextSaved u = false → Acts (.probeFaultReply g m) s g m fun t =>
        t.hart.st = woken ∧ acquired t) ∧
      (2 ≤ r → contextSaved u = false → u.hart.tact = false → Acts (.probeFaultReply g m) s g m fun t =>
        ∃ w, acquired w ∧ w.hart.st = .run ∧ Entered w t 0x1A va u.hart.pc 0))

/-- R44, R124, R243, R301-R306, R313-R316, R325, R327, R330-R333, R397: the events of the queue: the dependence word is evaluated, a gang is placed with
all its members at one instant, an entry becomes reserving, an entry that stays unplaced is reported, a victim's pre-emption
begins and ends, its members' registers going to their frames, a saved gang is restored with the registers as its frames hold
them, and the requests of a mailbox begin, go on and are finished. The engines take the places
and the victims that the rules choose (log 73 gives the weights of R305), a restore masks the words a register never holds (log 67),
the order of these events is the agenda's (log 1), when the key of a gang is made is log 38, a request that
has begun is remembered (log 39), a placement leaves every vector and mask register zero (log 3), an event goes on while its record
is held back (log 76), a gang whose end waits for a parcel is ending (log 77), the mailbox of a record about a gang is log 85, and an own-core
alias in DADDR of a gang that has never been placed names core 0 of Isle 0 (log 83): of all these the spec says less, and they are
the model's choice. -/
def Obligations.QueueEvents : Prop :=
  (∀ (g : Nat) (s : State) (places : List Place) (victims : List Nat), findGang s g = none →
    ∀ i ∈ [Instr.dependenceEvaluation g, .dependenceRetry g, .dependencePoll g, .gangPlacement g places, .keyReadRetry g places,
      .entryReserving g, .unplaceableReport g, .preemptionGraceExpiry g victims, .preemptionWindowExpiry g victims,
      .gangPreemption g, .contextSaveDone g, .gangRestore g places], exec i s = .next s) ∧
  (∀ (isle : Nat) (s : State),
    let n := isle % 8
    let w := mailboxWord s n 16
    s.memoryOk →
    ((s.isle n).begun = none → findGang s (bits w 0 32) = none →
      ∀ i ∈ [(1, Instr.preqPreempt isle), (2, .preqEnd isle), (3, .preqReserved isle)], bits w 32 2 = i.1 →
        ∃ t, exec i.2 s = .next t ∧ Finished t n 1 ∧ Posted s t n (noteRecord 0x06 (bits w 0 32) 0 0 0 1) false) ∧
    ∀ b, (s.isle n).begun = some b →
      let ended := fun t => Finished t n 0 ∧ (t.isle n).begun = none ∧
        Posted (s.setIsle n { s.isle n with begun := none }) t n (noteRecord 0x06 b.gang b.asid.toNat 0 0 0) false
      ∀ i ∈ [(1, Instr.preqPreempt isle), (2, .preqEnd isle), (3, .preqReserved isle)],
        (b.action ≠ i.1 → exec i.2 s = .next s) ∧
        (b.action = i.1 → findGang s b.gang = none → ∃ t, exec i.2 s = .next t ∧ ended t) ∧
        (b.action = i.1 → b.action ≠ 2 → ∀ x, findGang s b.gang = some x →
          (x.status = .preempting ∨ x.status = .ending → exec i.2 s = .next s) ∧
          (x.status ≠ .preempting → x.status ≠ .ending → ∃ t, exec i.2 s = .next t ∧ ended t))) ∧
  ∀ (g : Nat) (s : State) (x : Gang), findGang s g = some x → g ≠ 0 → s.memoryOk →
    (∀ l ∈ s.l1d, 64 * l.line + 64 ≤ mainBytes) →
    (∀ i ∈ [Instr.dependenceEvaluation g, .dependenceRetry g, .dependencePoll g],
      (x.status ≠ .pending → exec i s = .next s) ∧
      (x.status = .pending → x.dcond ∈ [1, 2, 3] →
        let home := x.home.getD 0
        (∀ k s1, deviceSite s home x.asid true .load x.daddr 8 = some (.key k, s1) → poisoned s1 k 8 = false →
          let w := loadWord s1 k
          let met := (x.dcond = 1 ∧ x.dval.toNat ≤ w.toNat) ∨ (x.dcond = 2 ∧ w = x.dval) ∨ (x.dcond = 3 ∧ w ≠ x.dval)
          (met → ∃ t y, exec i s = .next t ∧ findGang t g = some y ∧ y.status = .queued ∧ y.waitingSince = s.clk ∧
            y.record = x.record ∧ t.mem = s1.mem) ∧
          (¬ met → exec i s = .next s1)) ∧
        (deviceSite s home x.asid true .load x.daddr 8 = none → x.dependNoted = false →
          ∃ t y, exec i s = .next t ∧ findGang t g = some y ∧ y.status = .pending ∧ y.dependNoted = true ∧
            Posted s t x.mailbox (gangNote x 0x04 x.daddr 0) false))) ∧
    (∀ places : List Place,
      let home := ((places.head?).map fun p => p.cores.headD 0).getD 0
      let prepared := (places.flatMap (·.cores)).foldl (prepareCore x.asid) s
      let may := x.status = .queued ∧ x.keyRetryAt ≤ s.clk ∧ draining s = false ∧ places.map (·.member) = List.range x.gsize ∧
        placesChosen s x (fun _ => gangNeeds s x) false places = true
      ∀ i ∈ [Instr.gangPlacement g places, .keyReadRetry g places],
        (¬ may → exec i s = .next s) ∧
        (may → x.rngm = false → ∃ key s1, formKey prepared home x = .ok (some key) s1) ∧
        (∀ key s1, may → formKey prepared home x = .ok (some key) s1 →
          let level := budgetLevel (powerLevel s) x.prio
          ∃ t y, exec i s = .next t ∧ findGang t g = some y ∧ y.status = .resident ∧ y.home = some home ∧ y.key = key ∧
            y.level = level ∧ (∀ p ∈ places, ∃ h ∈ t.parked, PlacedAs t x key level p h) ∧
            (∀ p ∈ places, ∀ c ∈ p.cores, (c, x.asid) ∈ t.resident ∧
              (∀ before, s.resident.find? (fun r => r.1 == c) = some (c, before) → before ≠ x.asid →
                ∀ a, coreKey c 0 ≤ a → a < coreKey c mailboxOff → memRead prepared.mem a = 0))) ∧
        (∀ s1, may → formKey prepared home x = .ok none s1 →
          ∃ t y, exec i s = .next t ∧ findGang t g = some y ∧ y.status = .queued ∧ y.keyRetryAt = s.clk + 2500000 ∧
            Posted s t x.mailbox (gangNote x 0x0F x.caddr 2) false)) ∧
    (let due := ∃ c, x.firstSince = some c ∧ c + 2500000 ≤ s.clk
     let alone := ∀ y ∈ s.gangs, y.prio = x.prio → y.reserving = false
     (due → alone → ∃ t, exec (.entryReserving g) s = .next t ∧ findGang t g = some { x with reserving := true }) ∧
     (¬ (due ∧ alone) → exec (.entryReserving g) s = .next s)) ∧
    (let due := x.eligibleEntry = true ∧ x.reported = false ∧ x.waitingSince + 2500000000 ≤ s.clk ∧ placeable s x = false
     let info := BitVec.ofNat 64 (x.gsize + x.foot * 2 ^ 8 + x.span * 2 ^ 16 + if x.status = .preempted then 2 ^ 20 else 0)
     (due → ∃ t y, exec (.unplaceableReport g) s = .next t ∧ findGang t g = some y ∧ y.reported = true ∧
       Posted s t x.mailbox (gangNote x 0x03 0 info) false) ∧
     (¬ due → exec (.unplaceableReport g) s = .next s)) ∧
    (∀ (v : Gang), ∀ i ∈ [Instr.preemptionGraceExpiry g [v.gid.toNat], .preemptionWindowExpiry g [v.gid.toNat]],
      let may := x.eligibleEntry = true ∧ draining s = false ∧ placeable s x = false ∧
        (x.prio = 7 ∨ ∃ c, x.blockedSince = some c ∧ c + 25000 ≤ s.clk)
      (¬ may → exec i s = .next s) ∧
      (may → findGang s v.gid.toNat = some v → chosenVictims s x [v] = true →
        ∃ t y, exec i s = .next t ∧ findGang t v.gid.toNat = some y ∧ y.status = .preempting ∧ y.windowFrom = some s.clk ∧
          ∀ m, m ∈ y.unsaved ↔ m ∈ gangMembers s v.gid.toNat ∧ m ∉ v.gone)) ∧
    (∀ (m k : Nat) (u : State), x.unsaved = [m] → memberFrame s x m = some k → s.standsAt g m u →
      u.settled → u.hart.psend = none → u.hart.engine = false →
      (x.status ≠ .preempting → exec (.gangPreemption g) s = .next s) ∧
      (x.status = .preempting →
        ∃ t y, exec (.gangPreemption g) s = .next t ∧ findGang t g = some y ∧ y.unsaved = [] ∧ y.status = .preempting ∧
          bit (loadWord t (k + 56)) 0 = true ∧ loadWord t (k + 8) = u.hart.pc &&& ~~~3 ∧
          bits (loadWord t (k + 16)) 0 2 = (match u.hart.st with | .wait => 1 | .swapped => 2 | .trapped => 3 | _ => 0) ∧
          (∀ i : Fin 32, 1 ≤ i.val → loadWord t (k + 0x100 + 8 * i.val) = u.hart.s[i]) ∧
          loadWord t (k + 0x40) = u.hart.csr.vl ∧ loadWord t (k + 0x48) = u.hart.csr.vstart ∧
          (u.hart.progress = none →
            let mapped := fun n => (memRead t.mem (k + 0x30000 + n / 8)).getLsbD (n % 8)
            (∀ i : Fin 32, readLE t.mem (k + 0x200 + 4 * i.val) 4 = u.hart.v[i].tag.toNat ∧
              ∀ j < 8192, mapped (14336 + 8192 * i.val + j) = u.hart.v[i].poison.getLsbD j ∧
                (u.hart.csr.vdirty.getLsbD i.val = true → u.hart.v[i].poison.getLsbD j = false →
                  loadWord t (k + 0x40000 + 65536 * i.val + 8 * j) = u.hart.v[i].data.extractLsb' (64 * j) 64)) ∧
            (∀ i : Fin 8, 1 ≤ i.val → ∀ j < 2048, mapped (2048 * (i.val - 1) + j) = u.hart.k[i].poison.getLsbD j ∧
              (u.hart.k[i].poison.getLsbD j = false →
                loadWord t (k + 0x10000 + 16384 * (i.val - 1) + 8 * j) = u.hart.k[i].bits.extractLsb' (64 * j) 64)) ∧
            (∀ i : Fin 8, ∀ e < 16384, mapped (276480 + 16384 * i.val + e) = u.hart.z[i].poison.getLsbD e ∧
              (u.hart.z[i].poison.getLsbD e = false →
                readLE t.mem (k + 0x240000 + 163840 * i.val + 10 * e) 10 = (u.hart.z[i].elems.extractLsb' (80 * e) 80).toNat)) ∧
            ((∀ y, k ≤ y → y < k + 2 ^ 22 → ¬ u.dirtyAt u.hart.home y) →
              bits (loadWord t k) 0 32 = bits (loadWord s k) 0 32 ||| bits u.hart.csr.vdirty 0 32 ∧
              ∀ i : Fin 32, u.hart.csr.vdirty.getLsbD i.val = false →
                ∀ y < 65536, memRead t.mem (k + 0x40000 + 65536 * i.val + y) = memRead s.mem (k + 0x40000 + 65536 * i.val + y))))) ∧
    (let ms := (gangMembers s g).filter fun m => decide (m ∉ x.gone)
     let done := x.status = .preempting ∧ x.unsaved = [] ∧
       ∀ m ∈ ms, ∃ k, memberFrame s x m = some k ∧ bit (loadWord s (k + 56)) 0 = true
     (¬ done → exec (.contextSaveDone g) s = .next s) ∧
     (done → (s.harts.map Hart.name).Nodup →
       ∃ t y, exec (.contextSaveDone g) s = .next t ∧ findGang t g = some y ∧ y.status = .preempted ∧ y.waitingSince = s.clk ∧
         y.reported = false ∧ ∀ m ∈ ms, ∃ h ∈ t.harts, h.name = (g, m) ∧ h.st = .preempted ∧ h.cores = [])) ∧
    (∀ (p : Place) (k : Nat) (u : State),
      let prepared := p.cores.foldl (prepareCore x.asid) s
      let word := fun i => loadWord prepared (k + i)
      let may := x.status = .preempted ∧ draining s = false ∧ entryMembers s x = [p.member]
      s.standsAt g p.member u → memberFrame s x p.member = some k →
      (¬ may → exec (.gangRestore g [p]) s = .next s) ∧
      (may → frameReady s k = false →
        ∃ t y, exec (.gangRestore g [p]) s = .next t ∧ findGang t g = some y ∧ y.status = .held ∧
          Posted s t x.mailbox (gangNote x 0x02 0 0) true) ∧
      (may → frameReady s k = true → placesChosen s x (frameNeeds s x) true [p] = false → exec (.gangRestore g [p]) s = .next s) ∧
      (may → frameReady s k = true → placesChosen s x (frameNeeds s x) true [p] = true → bits (word 16) 0 2 = 0 →
        ∃ t y v, exec (.gangRestore g [p]) s = .next t ∧ findGang t g = some y ∧ y.status = .resident ∧
          t.standsAt g p.member v ∧ v.hart.st = .ready ∧ v.hart.cores = p.cores ∧ v.hart.slot = p.slot ∧
          v.hart.pc = word 8 &&& ~~~3 ∧ (∀ i : Fin 32, v.hart.s[i] = if i.val = 0 then 0 else word (0x100 + 8 * i.val)) ∧
          v.hart.csr.vl = BitVec.ofNat 64 (min (word 0x40).toNat (u.hart.csr.vlmaxc.toNat / 4)) ∧
          v.hart.csr.vstart = word 0x48 ∧ v.hart.csr.vdirty = 0 ∧ v.hart.csr.vflags = word 0x50 &&& 0x1F ∧
          v.hart.csr.retired = word 0x68 ∧
          (bits (word (0x40 + 8 * 21)) 0 2 ≠ 3 → bits (word (0x40 + 8 * 21)) 2 2 ≠ 3 →
            v.hart.csr.priv = word (0x40 + 8 * 21) &&& 0x1F) ∧
          (let mapped := fun n => (memRead prepared.mem (k + 0x30000 + n / 8)).getLsbD (n % 8)
           (∀ i : Fin 32,
             let tag := BitVec.ofNat 32 (readLE prepared.mem (k + 0x200 + 4 * i.val) 4)
             v.hart.v[i].tag = (if tagOk tag i.val (bits (word 0) 42 6) = true then tag else 0) ∧
             ∀ j < 8192, v.hart.v[i].data.extractLsb' (64 * j) 64 =
                 (if bit (word 0) i.val then word (0x40000 + 65536 * i.val + 8 * j) else 0) ∧
               (prepared.memPoison = [] → v.hart.v[i].poison.getLsbD j = mapped (14336 + 8192 * i.val + j))) ∧
           v.hart.k[0] = MaskReg.zero ∧
           (∀ i : Fin 8, 1 ≤ i.val → ∀ j < 2048,
             v.hart.k[i].bits.extractLsb' (64 * j) 64 = word (0x10000 + 16384 * (i.val - 1) + 8 * j) ∧
             (prepared.memPoison = [] → v.hart.k[i].poison.getLsbD j = mapped (2048 * (i.val - 1) + j))) ∧
           ∀ i : Fin 8, ∀ e < 16384,
             (v.hart.z[i].elems.extractLsb' (80 * e) 80).toNat = readLE prepared.mem (k + 0x240000 + 163840 * i.val + 10 * e) 10 ∧
             v.hart.z[i].poison.getLsbD e = mapped (276480 + 16384 * i.val + e)))) ∧
    ∀ isle : Nat,
      let n := isle % 8
      let w := mailboxWord s n 16
      let act := bits w 32 2
      let record := fun stat => noteRecord 0x06 g x.asid.toNat 0 0 (BitVec.ofNat 64 stat)
      let began := fun t => (t.isle n).begun = some ⟨act, g, x.asid⟩
      bits w 0 32 = g → (s.isle n).begun = none →
      (act ≠ 1 → exec (.preqPreempt isle) s = .next s) ∧ (act ≠ 2 → exec (.preqEnd isle) s = .next s) ∧
      (act ≠ 3 → exec (.preqReserved isle) s = .next s) ∧
      (act = 1 → x.status = .held → ∃ t, exec (.preqPreempt isle) s = .next t ∧ Finished t n 2 ∧ Posted s t n (record 2) false) ∧
      (act = 1 → x.status ∈ [.pending, .queued, .preempted] →
        ∃ t, exec (.preqPreempt isle) s = .next t ∧ Finished t n 0 ∧ Posted s t n (record 0) false) ∧
      (act = 1 → x.status = .preempting → ∃ t, exec (.preqPreempt isle) s = .next t ∧ began t ∧
        t = s.setIsle n { s.isle n with begun := some ⟨1, g, x.asid⟩ }) ∧
      (act = 1 → x.status ∈ [.resident, .suspended] → (assignFrames s x).2 = 0 →
        ∃ t y, exec (.preqPreempt isle) s = .next t ∧ findGang t g = some y ∧ y.status = .preempting ∧
          y.windowFrom = x.windowFrom ∧ began t) ∧
      (act = 1 → x.status ∈ [.resident, .suspended] → (assignFrames s x).2 ≠ 0 →
        ∃ t y, exec (.preqPreempt isle) s = .next t ∧ findGang t g = some y ∧ y.status = x.status ∧ Finished t n 2) ∧
      (act = 2 → (s.harts.map Hart.name).Nodup →
        ((∀ h ∈ s.harts, h.name.1 = g → h.settled = true) → (∀ m, remoteWritesPending s g m = false) →
          ∃ t, exec (.preqEnd isle) s = .next t ∧ Finished t n 0 ∧ findGang t g = none ∧ (∀ h ∈ t.parked, h.name.1 ≠ g) ∧
            (x.caddr = 0 → Posted s t n (record 0) false)) ∧
        ((∃ h ∈ s.harts, h.name.1 = g ∧ h.st ≠ .exited ∧ h.psend ≠ none) →
          ∃ t y, exec (.preqEnd isle) s = .next t ∧ findGang t g = some y ∧ y.status = .ending ∧ began t)) ∧
      (act = 3 → ∃ t, exec (.preqReserved isle) s = .next t ∧ Finished t n 2 ∧ Posted s t n (record 2) false)

/-- R226, R227, R230, R231, R238, R248, R252, R257, R263-R265, R295, R297: the events of memory: a migration request is posted or
refused, a migration starts and copies its chunks without changing a byte, an invalidation drops translations and counts pinned
pages, and the engines of relayouts, streams, transfers and parcels do their work. The order of these acts is the agenda's (log 1),
the data of a region stay one copy while it moves (log 12), and a request refused at its start is dropped and a unit of a relayout
takes four acts of the engine (log 28). -/
def Obligations.MemoryEvents : Prop :=
  (∀ (isle region v : Nat) (s : State), region < 2 ^ 21 → v < 16 →
    let n := isle % 8
    let e := regionEntry s region
    let exposed := region < exposedRegions
    ∀ x ∈ [(Instr.mreqRehash isle region v, MigrationKind.rehash v, mreqWord region 0 v,
             exposed ∧ versionConfigured s v = true ∧ e.version ≠ v ∧ e.slot.isHbm = true),
           (.mreqMoveHbm isle region, .toHbm, mreqWord region 1 0, exposed ∧ e.slot.isHbm = false),
           (.mreqMoveLpddr isle region, .toLpddr, mreqWord region 2 0, exposed ∧ e.slot.isHbm = true)],
      (x.2.2.2 → ∃ t, exec x.1 s = .next t ∧ (t.isle n).mreq = x.2.2.1 ∧ t.mem = s.mem ∧
        t.migrations = (s.migrations.filter fun y => y.region != region || y.kind == .repair) ++ [⟨region, x.2.1⟩]) ∧
      (¬ x.2.2.2 → ∃ t, exec x.1 s = .next t ∧ (t.isle n).mreq = x.2.2.1 ∧ t.migrations = s.migrations ∧ t.mem = s.mem ∧
        (t.isle n).rejects = (s.isle n).rejects + 1)) ∧
  (∀ (region : Nat) (s : State),
    let e := regionEntry s region
    ((s.isle e.slot.isle).rhthr = 0 → exec (.rowMissRehash region) s = .next s) ∧
    ((s.isle e.slot.isle).rhthr ≠ 0 → region < exposedRegions → e.slot.isHbm = true → e.version < 16 →
      (∃ v < 16, v ≠ e.version ∧ versionConfigured s v = true) →
      ∃ t v, exec (.rowMissRehash region) s = .next t ∧ v ≠ e.version ∧ versionConfigured s v = true ∧
        t = { s with
          migrations := (s.migrations.filter fun y => y.region != region || y.kind == .repair) ++ [⟨region, .rehash v⟩] }) ∧
    (∀ q, (s.migrations.find? fun y => decide (y.region = region)) = some q →
      (e.migration.isSome = true ∨ (requestRefused s q = false ∧ regionPinned s region = true) →
        exec (.migrationStart region) s = .next s) ∧
      (e.migration = none → requestRefused s q = true →
        exec (.migrationStart region) s = .next { s with migrations := s.migrations.erase q }) ∧
      (e.migration = none → requestRefused s q = false → regionPinned s region = false → migrationTarget s e q.kind = none →
        exec (.migrationStart region) s = .next s) ∧
      (∀ slot v, e.migration = none → requestRefused s q = false → regionPinned s region = false →
        migrationTarget s e q.kind = some (slot, v) →
        ∃ t, exec (.migrationStart region) s = .next t ∧ t.mem = s.mem ∧ t.migrations = s.migrations.erase q ∧
          regionEntry t region = { e with migration := some ⟨slot, v, [], none, [], decide (q.kind = .repair)⟩ } ∧
          slot ∉ s.sparesTaken ∧ slot ∉ t.sparesFreed ∧ (q.kind = .toHbm → slot.isHbm = true) ∧
          (q.kind = .toLpddr → slot.isHbm = false ∧ slot.isle = e.slot.isle) ∧ (∀ w, q.kind = .rehash w → v = w) ∧
          (q.kind ≠ .toHbm → q.kind ≠ .toLpddr → slot.isHbm = e.slot.isHbm ∧ slot.isle = e.slot.isle))) ∧
    (∀ m chunk, e.migration = some m →
      let copied := { m with done := m.done ++ [chunk], moving := none }
      let last := ∀ c < 64, c ∈ copied.done
      ∃ t, exec (.migrationChunk region chunk) s = .next t ∧ t.mem = s.mem ∧ t.memPoison = s.memPoison ∧
        (m.moving = none → nextChunk m = some chunk →
          regionEntry t region = { e with migration := some { m with moving := some chunk } }) ∧
        (m.moving = some chunk → ¬ last → regionEntry t region = { e with migration := some copied }) ∧
        (m.moving = some chunk → last →
          regionEntry t region = { e with slot := m.target, version := m.version, migration := none } ∧
          (e.slot ∈ t.sparesTaken ↔ m.retire = true)) ∧
        (m.moving ≠ some chunk → (m.moving ≠ none ∨ nextChunk m ≠ some chunk) → nextChunk m ≠ none →
          regionEntry t region = e))) ∧
  (∀ (isle : Nat) (value : Word) (s : State),
    let c := s.isle isle
    let asid := BitVec.ofNat 12 (bits value 0 12)
    let first := bits c.iva 12 40
    let from_ := bits c.start 12 40
    let old := BitVec.ofNat 12 (bits c.icmd 0 12)
    let pins := (s.harts.filter fun h => h.asid == old).flatMap hartPins ++
      (s.relayouts.filter fun r => r.asid == old).flatMap relayoutPins
    (c.done = false → exec (.icmdInvalidate isle value) s = .next s) ∧
    (c.done = true → ∃ t, exec (.icmdInvalidate isle value) s = .next t ∧ (t.isle isle).done = false ∧
      (t.isle isle).icmd = value &&& 0xFFFFFFFFFFF ∧ (t.isle isle).start = c.iva ∧ t.mem = s.mem ∧
      ∀ e, e ∈ t.stc ↔ e ∈ s.stc ∧ ¬ (e.asid = asid ∧ e.va < (first + bits value 12 32) * 4096 ∧ first * 4096 < e.va + e.size)) ∧
    (c.done = true → exec (.invalidationDone isle) s = .next s) ∧
    (c.done = false → ∃ t, exec (.invalidationDone isle) s = .next t ∧ (t.isle isle).done = true ∧ t.mem = s.mem ∧
      (t.isle isle).pinned = BitVec.ofNat 32 ((List.range (bits c.icmd 12 32)).countP fun j => pins.any fun p =>
        decide (p.va / 4096 ≤ from_ + j) && decide (from_ + j < (p.va + p.size + 4095) / 4096)))) ∧
  (∀ (i u : Nat) (r : Relayout) (s : State) (table : Nat),
    let h : Handle := r.record
    let w := typeWidth h.etype
    let l := unitCoords h.layout h.extents u
    let newAt := fun x => let a := elementAddress h.base w (layoutOffset h.layout h.extents x)
      match engineSite s (64 * r.isle) r.newPins a.1 with
      | some (.key k) => some (k, a.2)
      | _ => none
    let oldAt := fun x => let a := elementAddress h.oldBase w (layoutOffset h.oldLayout h.extents x)
      match engineSite s (64 * r.isle) r.oldPins a.1 with
      | some (.key k) => some (k, a.2)
      | _ => none
    let old := fun x =>
      let o := (oldAt x).getD (0, 0)
      if inExtents h.extents x = true then (valueAt s.mem w o, poisoned s o.1 (elemBytes w)) else (0, false)
    let state := fun (t : State) (v : Nat) => bits (loadWord t table) (2 * (u % 32)) 2 = v ∧
      ∀ j < 32, j ≠ u % 32 → bits (loadWord t table) (2 * j) 2 = bits (loadWord s table) (2 * j) 2
    (s.relayouts[i]? = none → exec (.relayoutUnit i) s = .next s) ∧
    (s.relayouts[i]? = some r → tableKey s r u = some (.key table) → s.memoryOk →
      (r.moving = none → nextUnit r = some u →
        (∀ p rest, r.promoted = p :: rest → p ∉ r.finished → u = p) ∧
        ((∀ p ∈ r.promoted, p ∈ r.finished) → u < unitCount h.extents ∧ ∀ j < unitCount h.extents, j ∉ r.finished → u ≤ j) ∧
        ∃ t, exec (.relayoutUnit i) s = .next t ∧ state t 1 ∧
          t.relayouts[i]? = some { r with moving := some u, fetched := [], copied := false } ∧
          ∀ x, (x < table ∨ table + 8 ≤ x) → memRead t.mem x = memRead s.mem x) ∧
      (r.moving = some u → r.fetched = [] → l ≠ [] → (∀ x ∈ l, inExtents h.extents x = true → ∃ o, oldAt x = some o) →
        ∃ t, exec (.relayoutUnit i) s = .next t ∧ t = { s with relayouts := t.relayouts } ∧
          t.relayouts[i]? = some { r with fetched := l.map old, asked := none }) ∧
      (r.moving = some u → r.fetched.length = l.length → r.copied = false →
        (∀ x ∈ l, ∃ p, newAt x = some p ∧ plainKey p.1 (elemBytes w)) →
        ∃ t, exec (.relayoutUnit i) s = .next t ∧ t.relayouts[i]? = some { r with copied := true } ∧
          (∀ (j : Nat) (x : List Nat) (p : Nat × Nat), l[j]? = some x → newAt x = some p →
            (∀ (j' : Nat) (y : List Nat) (p' : Nat × Nat), l[j']? = some y → newAt y = some p' → j ≠ j' → placesApart w p p') →
            valueAt t.mem w p = (r.fetched.getD j (0, false)).1 % 2 ^ w ∧
            ((r.fetched.getD j (0, false)).2 = true → poisoned t p.1 (elemBytes w) = true)) ∧
          ∀ y, (∀ x ∈ l, ∀ p, newAt x = some p → y < p.1 ∨ p.1 + elemBytes w ≤ y) → memRead t.mem y = memRead s.mem y) ∧
      (r.moving = some u → r.fetched.length = l.length → r.copied = true → engineWritesPending s r.isle = true →
        exec (.relayoutUnit i) s = .next s) ∧
      (r.moving = some u → r.fetched.length = l.length → r.copied = true → engineWritesPending s r.isle = false →
        let r' := { r with finished := r.finished ++ [u], moving := none, fetched := [], copied := false }
        ∃ t, exec (.relayoutUnit i) s = .next t ∧
          (nextUnit r' ≠ none → state t 2 ∧ t.relayouts[i]? = some r') ∧
          (nextUnit r' = none → t.relayouts = s.relayouts.eraseIdx i ∧ (h.ccnt = 0 → state t 2) ∧
            ∀ c off, h.ccnt ≠ 0 → bits h.ccnt 52 12 = 0 → inWindow h.ccnt = true →
              windowPlace s (64 * r.isle) h.ccnt = .core c off →
              (coreKey c off + 8 ≤ table ∨ table + 8 ≤ coreKey c off) →
              state t 2 ∧ loadWord t (coreKey c off) = loadWord s (coreKey c off) + 1)))) ∧
  (∀ (g m f n : Nat) (s u : State) (y : Stream) (place : Nat → Nat × Nat), s.standsAt g m u →
    (hf : f < 8) → u.hart.f[f] = some y →
    (y.writes = false → u.settled → y.moved.toNat ≤ y.avl.toNat →
      (y.hmode = true → ∀ h, u.handle (BitVec.ofNat 4 y.hnum) = some h → Handle.rly h = false) →
      let left := min (stripSize u.hart y.width - y.buf.length) (y.avl.toNat - y.moved.toNat)
      let word := fun j => streamWord u y (y.moved.toNat + j)
      (∀ j < left, ∃ q a, streamElement u y (y.moved.toNat + j) false = .ok (q, a, (place j).2) u ∧
        tokenSite u (streamCore u y (y.moved.toNat + j)) q a (elemBytes y.width) false false = .ok (.key (place j).1)) →
      Acts (.streamFetch g m f n) s g m fun t => t = { u with hart := t.hart } ∧ ∃ c ≤ left,
        t.hart = { u.hart with f := u.hart.f.set f (some { y with
          buf := y.buf ++ (List.range c).map fun j => ⟨BitVec.ofNat 64 (valueAt u.mem y.width (place j)),
            poisoned u (place j).1 (elemBytes y.width), none, 0⟩
          moved := y.moved + BitVec.ofNat 64 c }) } ∧
        (0 < c → c < left → word (c - 1) ≠ word c) ∧ (0 < n → y.buf = [] → 0 < left → 0 < c) ∧
        (n ≠ 0 → (∀ j < left, word j ≠ word (j + 1)) → c = min n left)) ∧
    (y.writes = true → u.memoryOk →
      let c := min n y.buf.length
      let item := fun j => y.buf.getD j ⟨0, true, none, 0⟩
      (∀ j < c, (item j).site = some (.key (place j).1) ∧ (item j).nib = (place j).2 ∧ (place j).2 < 2 ∧
        plainKey (place j).1 (elemBytes y.width)) →
      (∀ i j, i < j → j < c → placesApart y.width (place i) (place j)) →
      (∀ x, u.dirtyAt u.hart.home x → ∀ j < c, x / 64 ≠ (place j).1 / 64) →
      Acts (.streamWriteDrain g m f n) s g m fun t =>
        t.hart.f[f] = some { y with buf := y.buf.drop c, moved := y.moved + BitVec.ofNat 64 c } ∧
        (∀ j < c, valueAt t.mem y.width (place j) = (item j).value.toNat % 2 ^ y.width) ∧
        ∀ x, (∀ j < c, x < (place j).1 ∨ (place j).1 + elemBytes y.width ≤ x) → memRead t.mem x = memRead u.mem x)) ∧
  (∀ (g m : Nat) (s u : State), s.standsAt g m u → (g = 0 ∨ findGang s g ≠ none) →
    (∀ (tr : Transfer) (rest : List Transfer) (ps : List (Nat × Nat)), u.hart.transfers = tr :: rest →
      (tr.tags ≠ [] → Acts (.engineTransferComplete g m) s g m fun t => t = u) ∧
      (tr.tags = [] → tr.segs = ps.map (fun p => ⟨.key p.1, .key p.2⟩) → u.hart.order = .prompt → u.memoryOk →
        wordsApart (ps.map (·.2)) → (∀ x, u.dirtyAt tr.home x → ∀ p ∈ ps, x / 64 ≠ p.2 / 64) →
        (∀ p ∈ ps, p.2 % 8 = 0 ∧ plainKey p.2 8) →
        Acts (.engineTransferComplete g m) s g m fun t => t.hart.transfers = rest ∧
          (∀ p ∈ ps, loadWord t p.2 = loadWord u p.1 ∧ (poisoned u p.1 8 = true → poisoned t p.2 8 = true)) ∧
          (∀ x, ¬ inWords (ps.map (·.2)) x → memRead t.mem x = memRead u.mem x) ∧
          ∀ l ∈ t.l1d, l.core = tr.home → ∀ p ∈ ps, l.line ≠ p.2 / 64))) ∧
  (∀ (g m : Nat) (s u : State) (p : PsendState), s.standsAt g m u → u.hart.psend = some p →
    (p.pending ≠ [] → Acts (.psendComplete g m) s g m fun t => t = u) ∧
    (p.pending = [] → Acts (.psendComplete g m) s g m fun t => retiredAt u t (u.hart.pc + 4) ∧ t.hart.psend = none ∧
      t.hart.csr.vstart = 0 ∧ t.holds p.rd (BitVec.ofNat 64 (p.delivered + p.dropped * 2 ^ 32)) ∧
      Frame { s := [p.rd], csr := [0x001], access := true } u t)) ∧
  ∀ (core line : Nat) (s : State),
    (l1dFind s core line = none → exec (.l1dEviction core line) s = .next s) ∧
    (∀ l, l1dFind s core line = some l → s.memoryOk →
      ∃ t, exec (.l1dEviction core line) s = .next t ∧ l1dFind t core line = none ∧
        (∀ c n, (c, n) ≠ (core, line) → l1dFind t c n = l1dFind s c n) ∧
        ∀ x, memRead t.mem x = if 64 * line ≤ x ∧ x < 64 * line + 64 ∧ l.dirty.getLsbD (x - 64 * line) = true then
          l.data.extractLsb' (8 * (x - 64 * line)) 8 else memRead s.mem x) ∧
    exec (.remoteLineExpiry core line) s =
      .next { s with rlb := s.rlb.filter fun l => !(decide (l.isle = core) && decide (l.line = line)) }

/-- R325, R355-R361, R363-R373: notifications held back, errors and repairs, power, and the stages of start: what each event of
the device as a whole does. The order of these events is the agenda's (log 1); the layout of a location is log 21, the mailbox of a
record log 24, the spare a region takes log 25, what a trip keeps log 26, the SPDM codes and layouts log 27, a discarded write log 70,
the code of a word of storage log 74; an event acts while its record is held back (log 76). -/
def Obligations.ModuleEvents : Prop :=
  (∀ (isle : Nat) (s : State), s.memoryOk → isle < 8 →
    ((s.isle isle).heldNotes = [] ∨ ringHasRoom s isle = false → exec (.notificationDelivery isle) s = .next s) ∧
    (∀ n rest, (s.isle isle).heldNotes = n :: rest → ringHasRoom s isle = true →
      let index := (mailboxWord s isle 0).toNat % 512
      let va := n.record.extractLsb' 64 64
      let gid := (n.record.extractLsb' 32 32).toNat
      let waits := fun g : Gang => findGang s gid = some g ∧ n.record.extractLsb' 0 8 = 2 ∧ n.hart ≠ none ∧ g.status = .held ∧ g.fpol = 0
      (∀ g, waits g → gid ≠ 0 → g.caddr = 0 → (s.harts.map Hart.name).Nodup →
        (∀ h ∈ s.harts, h.name.1 = gid → h.settled = true ∧ h.order = .prompt ∧ remoteWritesPending s h.name.1 h.name.2 = false) →
        (∀ l ∈ s.l1d, 64 * l.line + 64 ≤ mainBytes) →
        ∃ t, exec (.notificationDelivery isle) s = .next t ∧ findGang t gid = none ∧ (∀ h ∈ t.parked, h.name.1 ≠ gid) ∧
          readLE t.mem (coreKey (isle * 64) (noteOff index)) 32 = n.record.toNat) ∧
      ((∀ g, ¬ waits g) → ∃ t, exec (.notificationDelivery isle) s = .next t ∧ (t.isle isle).heldNotes = rest ∧
        readLE t.mem (coreKey (isle * 64) (noteOff index)) 32 = n.record.toNat ∧
        mailboxWord t isle 0 = mailboxWord s isle 0 + 1 ∧ (n.toHost = false → t.sent = s.sent) ∧
        (n.toHost = true → canSend s = true → ∃ m, t.sent = m :: s.sent ∧ m.typ = 6) ∧
        (n.hart ≠ some s.hart.name → t.hart = s.hart) ∧
        (n.hart = some s.hart.name → n.record.extractLsb' 0 8 = 1 → s.hart.waits = .fault isle none va →
          t.hart = { s.hart with waits := .fault isle (some index) va })))) ∧
  (∀ (errors : List (Nat × BitVec 8)) (group : Bool) (s : State), s.memoryOk →
    (∀ b p, b < 72 → secDed [(b, p)] = .corrected ∧ ∀ b' p', b' < 72 → b ≠ b' → secDed [(b, p), (b', p')] = .double) ∧
    (∀ (pa : Nat),
      let k := pa / 64 * 64
      let word := withErrors (rsEncode ((List.range 64).map fun i => (memRead s.mem (k + i)).toNat)) errors
      let loc := lineLocation s k (if group then errorGroup errors else none)
      (mainBytes < k + 64 ∨ poisoned s k 64 = true → exec (.scrub (.line pa) group errors) s = .next s) ∧
      (k + 64 ≤ mainBytes → poisoned s k 64 = false →
        (∀ c, rsDecode word = some c → ∃ t, exec (.scrub (.line pa) group errors) s = .next t ∧
          readLE t.mem k 64 = (c.take 64).foldr (fun b n => b + 256 * n) 0 % 2 ^ 512 ∧ poisoned t k 64 = false ∧
          t.rasEvents = s.rasEvents ++ (if c = word then [] else [⟨loc, s.clk, true⟩])) ∧
        (rsDecode word = none → ∃ t, exec (.scrub (.line pa) group errors) s = .next t ∧ poisoned t k 64 = true ∧
          t.rasEvents = s.rasEvents ++ [⟨loc, s.clk, false⟩] ∧
          (underRepair s loc = true →
            Posted s t (locIsle loc % 8) (noteRecord 0x09 0 0 0 loc (BitVec.ofNat 64 k)) true)))) ∧
    (∀ (core off : Nat), coreOffMapped off = true →
      let k := coreKey core (off / 8 * 8)
      let array := if off < 0x1000000 then 0 else if off < 0x1100000 then 1 else 2
      plainKey k 8 → poisoned s k 8 = false → secDed errors = .double →
        ∃ t, exec (.scrub (.region core off) group errors) s = .next t ∧ poisoned t k 8 = true ∧
          t.rasEvents = s.rasEvents ++ [⟨coreLocation core array (off % 2 ^ 24 / 4096), s.clk, false⟩]) ∧
    ∀ (core slot r n c : Nat),
      let slotOf := s.hart.slot = slot ∧ s.hart.cores.findIdx? (· == core) = some c ∧ c < 8
      ∀ x ∈ [(StoragePlace.vector core slot r n, locWord 2 (core * 4 + slot % 4),
               fun t : State => slotOf → ∀ i : Fin 32, i.val = r → n < 1024 →
                 t.hart.v[i] = { s.hart.v[i] with poison := s.hart.v[i].poison ||| BitVec.ofNat 8192 (2 ^ (1024 * c + n)) }),
             (.mask core slot r n, coreLocation core 3 (((slot * 8 + r) * 2048 + n) / 512),
               fun t => slotOf → ∀ i : Fin 8, i.val = r → n < 2048 →
                 t.hart.k[i] = { s.hart.k[i] with poison := s.hart.k[i].poison ||| BitVec.ofNat 2048 (2 ^ n) }),
             (.tile core slot r n, coreLocation core 4 (((slot * 8 + r) * 16384 + n) / 512),
               fun t => slotOf → ∀ i : Fin 8, i.val = r → n < 16384 →
                 t.hart.z[i] = { s.hart.z[i] with poison := s.hart.z[i].poison ||| BitVec.ofNat 16384 (2 ^ n) }),
             (.scalar core slot r, coreLocation core 5 ((slot * 32 + r) / 512),
               fun t => slotOf → 0 < r → r < 32 → t.hart.sPoison = s.hart.sPoison ||| BitVec.ofNat 32 (2 ^ r)),
             (.l1d core r n, coreLocation core 6 ((r % 1024 * 8 + n) / 512),
               fun t => ∀ l ∈ s.l1d, l.core = core → l.line = r → n < 8 →
                 { l with poison := l.poison ||| BitVec.ofNat 8 (2 ^ n) } ∈ t.l1d),
             (.strip core slot r n, coreLocation core 7 (((slot * 8 + r) * 1024 + n) / 512),
               fun t => slotOf → ∀ (i : Fin 8) (f : Stream), i.val = r → s.hart.f[i] = some f →
                 ∃ g, t.hart.f[i] = some g ∧ g.buf.length = f.buf.length ∧
                   ∀ (j : Nat) (y : StreamItem), f.buf[j]? = some y →
                     let p := Machine.slotOf s.hart.cores.length f.width j
                     g.buf[j]? = some { y with poison := y.poison || decide (p.1 = c ∧ p.2 * f.width / 64 = n) }),
             (.icache core n, coreLocation core 8 (n / 4096 % 32),
               fun t => ∀ w ∈ t.icache, (w.core, w.key) ≠ (core, n)),
             (.stc core n, coreLocation core 9 (n / 4096 % 16),
               fun t => ∀ e ∈ t.stc, (e.core, e.va) ≠ (core, n)),
             (.engine core n, coreLocation core 10 (n / 512), fun t => t.hart = s.hart),
             (.lane core n, locWord 3 (core * 2 ^ 5 + n % 32), fun t => t.hart = s.hart)],
        let loc := x.2.1
        let events := s.rasEvents ++ [⟨loc, s.clk, true⟩]
        let inWindow := fun e : RasEvent => e.location = loc ∧ s.clk < e.at_ + rasWindow s
        let last := (∃ e ∈ events, inWindow e ∧ e.correctable = false) ∨
          rasCount s ≤ (events.countP fun e => decide (inWindow e) && e.correctable)
        (secDed errors = .clean → exec (.scrub x.1 group errors) s = .next s) ∧
        (secDed errors = .corrected →
          (¬ last ∨ underRepair s loc = true → exec (.scrub x.1 group errors) s = .next { s with rasEvents := events }) ∧
          (last → underRepair s loc = false →
            ∃ t, exec (.scrub x.1 group errors) s = .next t ∧ t.rasEvents = events ∧
              Posted s t (locIsle loc % 8) (noteRecord 0x07 0 0 0 loc (BitVec.ofNat 64 (locCode loc)))
                (bit s.ctl.mode 3 || decide (repairAction s loc = some .retireCore)) ∧
              (repairAction s loc = none → t.repairs = s.repairs) ∧
              (repairAction s loc ≠ none → ∃ n, t.repairs = s.repairs ++
                [⟨loc, if bit s.ctl.mode 3 then .proposed else .approved, locIsle loc % 8, n⟩]))) ∧
        (secDed errors = .double → ∃ t, exec (.scrub x.1 group errors) s = .next t ∧ x.2.2 t ∧
          t.rasEvents = s.rasEvents ++ [⟨loc, s.clk, false⟩])) ∧
  (∀ (loc : Word) (s : State) (j : RepairJob), (s.repairs.find? fun j => j.location == loc) = some j → j.location = loc →
    (s.repairs.map (·.location)).Nodup → s.memoryOk →
    let stage := fun (t : State) (x : RepairStage) => ∃ y, (t.repairs.find? fun j => j.location == loc) = some y ∧ y.stage = x
    (j.stage = .proposed → exec (.repair loc) s = .next s ∧ exec (.repairComplete loc) s = .next s) ∧
    (∀ act, j.stage = .approved → repairAction s loc = some act → act ∉ [RepairAction.slotCapacity, .moveRegion] →
      ∃ t, exec (.repair loc) s = .next t ∧ stage t (.started act.code) ∧
        (act = .retireCore → locCore loc ∈ t.retiredCores ∧ ∀ b ∈ t.bays, b.core ≠ locCore loc) ∧
        (act = .spareLane → locCore loc ∈ t.lanesUsed) ∧ (act = .spareRow ∨ act = .spareGroup → loc ∈ t.sparesUsed)) ∧
    (j.stage = .approved → repairAction s loc = some .slotCapacity →
      (slotTaken s (locCore loc) (locSlot loc) = true → exec (.repair loc) s = .next s) ∧
      (slotTaken s (locCore loc) (locSlot loc) = false →
        ∃ t, exec (.repair loc) s = .next t ∧ stage t (.started 2) ∧ slotCap t (locCore loc) (locSlot loc) =
          (match slotCap s (locCore loc) (locSlot loc) with | 32 => 24 | 24 => 16 | _ => 0))) ∧
    (∀ r, j.stage = .approved → repairAction s loc = some .moveRegion → regionAt s (locStorage loc) = some r →
      let e := regionEntry s r
      ∃ t, exec (.repair loc) s = .next t ∧ stage t (.started 5) ∧
        (e.migration = none → ⟨r, .repair⟩ ∈ t.migrations) ∧
        ∀ m, e.migration = some m → regionEntry t r = { e with migration := some { m with retire := true } }) ∧
    (∀ n, j.stage = .proposed → j.index = some n →
      let r := replyByte s j.isle n
      (r = 0 → exec (.repairApproval loc) s = .next s) ∧
      (r = 1 → ∃ t, exec (.repairApproval loc) s = .next t ∧ stage t .approved) ∧
      (2 ≤ r → ∃ t, exec (.repairApproval loc) s = .next t ∧ ∀ y ∈ t.repairs, y.location ≠ loc)) ∧
    (∀ code, j.stage = .started code → repairOver s loc code = true → j.isle < 8 →
      ∃ t, exec (.repairComplete loc) s = .next t ∧ (∀ y ∈ t.repairs, y.location ≠ loc) ∧
        (∀ e ∈ t.rasEvents, e.location ≠ loc) ∧
        Posted s t j.isle (noteRecord 0x08 0 0 0 loc (BitVec.ofNat 64 code)) (bit s.ctl.mode 3))) ∧
  (∀ (watts degrees : Nat) (s : State),
    let limit := bits s.ctl.power 16 16
    let level := powerLevel s
    let low := if watts * 10 < limit * 9 then s.lowPowerMs + 1 else 0
    let lowers := 100 ≤ low ∧ bits s.ctl.power 2 2 < level
    let hot := 95 ≤ degrees ∨ (s.thermalHot = true ∧ 90 ≤ degrees)
    let due := 10 ≤ s.highPowerMs ∨ 110 ≤ s.hottest
    (s.clk < s.measuredAt + 2500000 → exec (.powerMeasurement watts) s = .next s) ∧
    (s.measuredAt + 2500000 ≤ s.clk → ∃ t, exec (.powerMeasurement watts) s = .next t ∧ t.watts = watts ∧
      t.measuredAt = s.clk ∧ t.highPowerMs = (if 4200 < watts then s.highPowerMs + 1 else 0) ∧
      (s.thermalHot = true → powerLevel t = level ∧ t.lowPowerMs = low) ∧
      (s.thermalHot = false → limit < watts → powerLevel t = min 3 (level + 1) ∧ t.lowPowerMs = 0) ∧
      (s.thermalHot = false → watts ≤ limit → lowers → powerLevel t = level - 1 ∧ t.lowPowerMs = 0) ∧
      (s.thermalHot = false → watts ≤ limit → ¬ lowers → powerLevel t = level ∧ t.lowPowerMs = low)) ∧
    (∃ t, exec (.thermalHold degrees) s = .next t ∧ t.hottest = degrees ∧ (t.thermalHot = true ↔ hot) ∧
      (hot → powerLevel t = 3) ∧ (¬ hot → powerLevel t = level)) ∧
    (¬ due → exec .powerTrip s = .next s) ∧
    (due → ∃ t, exec .powerTrip s = .next t ∧ t.ctl.stage = 0x500 ∧ t.hart = Hart.none ∧ t.parked = [] ∧ t.gangs = [] ∧
      t.mem = [] ∧ t.clk = s.clk ∧ t.thermalHot = s.thermalHot) ∧
    (∃ t, exec .powerGood s = .next t ∧ t = { State.reset with agenda := s.agenda, freeCtr := s.freeCtr })) ∧
  (∀ (s : State) (failed : Bool) (vs : List HashVersion) (image : Nat) (starts : List HartStart),
    let failure := imageFailure s (coreKey 0 0) 1
    let training := Instr.memoryTraining failed vs image starts
    (stageNum s ≠ 0 → exec .bootgo s = .next s) ∧
    (stageNum s = 0 → ∃ t, exec .bootgo s = .next t ∧
      t.ctl.stage = (if failure = 0 then 1 else BitVec.ofNat 64 (failure * 256)) ∧ (failure ≠ 0 → t.parked = s.parked) ∧
      (failure = 0 → ∃ h, t.parked = h :: s.parked ∧ h.st = .ready ∧ h.cores = [1] ∧ h.slot = 3 ∧ h.cur = 2 ∧ h.csr.gangid = 0 ∧
        h.pc = 0x000F000000000100 + loadWord s (coreKey 0 0 + 8))) ∧
    (stageNum s ≠ 1 → exec training s = .next s) ∧
    (stageNum s = 1 → supervised s = false → (imageFailure s image 2 ≠ 0 ∨ starts.map (·.isle) ≠ List.range 8) →
      exec training s = .next s) ∧
    (stageNum s = 1 → supervised s = false → imageFailure s image 2 = 0 → starts.map (·.isle) = List.range 8 →
      ∃ t, exec training s = .next t ∧ t.ctl = s.ctl ∧
        t.supervisorMeasure = Config.sha384 (storedBytes s image (256 + bits (loadWord s image) 32 32)) ∧
        ∀ x ∈ starts, ∃ h ∈ t.parked, h.st = .ready ∧ h.cur = 1 ∧ h.cores = [64 * x.isle] ∧ h.slot = 3 ∧ h.pc = x.pc &&& ~~~3 ∧
          h.csr.tvec = x.tvec &&& ~~~3) ∧
    (stageNum s = 1 → supervised s = true → ∃ t, exec training s = .next t ∧
      t.ctl.stage = (if failed then 0x402 else 2) ∧ t.regions = [] ∧ t.parked = s.parked ∧
      t.supervisorMeasure = s.supervisorMeasure ∧ (failed = true → t.hashVersions = []) ∧
      ∀ v ∈ t.hashVersions, v ∈ vs ∧ 1 ≤ v.version ∧ v.version ≤ 15 ∧ v.rows.length = 15) ∧
    (∃ t, exec .serviceReady s = .next t ∧
      t.ctl.stage = if stageNum s = 2 ∧ bits s.ctl.stage 8 8 = 0 then 3 else s.ctl.stage) ∧
    ((∀ g ∈ s.gangs, g.placed = true → g.prio = 7 ∨ g.status = .held) →
      exec .drainRequest s = .next { s with ctl := { s.ctl with drain := 1 } }) ∧
    (∀ x : Gang, s.gangs = [x] → x.status = .resident → x.prio ≠ 7 → (assignFrames s x).2 = 0 →
      ∃ t y, exec .drainRequest s = .next t ∧ t.ctl = { s.ctl with drain := 1 } ∧ t.gangs = [y] ∧
        y.status = .preempting ∧ y.windowFrom = some s.clk) ∧
    (exec .drainRelease s = .next { s with ctl := { s.ctl with drain := 0 } })) ∧
  ∀ (i : Fin 4) (value : Word) (s : State),
    exec (.seedWrite i.val value) s = .next { s with ctl := { s.ctl with seed := s.ctl.seed.set i value, seedv := 0 } } ∧
    (let Ctl := fun (off : Nat) (c : ModuleCtl) => exec (.controlRegisterWrite off value) s = .next { s with ctl := c }
     Ctl 0x000 (if value.toNat < 4096 then { s.ctl with node := value } else s.ctl) ∧
     Ctl 0x008 (if value.toNat < 4096 then { s.ctl with host := value } else s.ctl) ∧
     Ctl 0x010 (if bits value 56 8 = 0 ∧ bits value 0 6 = 0 then { s.ctl with ctbase := value } else s.ctl) ∧
     Ctl 0x018 (if value.toNat < 1024 then { s.ctl with ctcnt := value } else s.ctl) ∧
     Ctl 0x020 (if value.toNat < 64 then { s.ctl with mode := value } else s.ctl) ∧
     Ctl 0x060 (if value.toNat < 2 then { s.ctl with seedv := value } else s.ctl) ∧
     Ctl 0x068 (if value.toNat < 2 ^ 24 ∧ bits value 8 16 ≠ 0 ∧ bits value 0 8 ≠ 0 then { s.ctl with ras := value } else s.ctl) ∧
     Ctl 0x100 (if bit s.ctl.spdmctl 13 = false ∧ value.toNat < 2 ^ 14 then { s.ctl with spdmctl := value } else s.ctl)) ∧
    (let codes := [(0x84, Instr.getVersion), (0xE1, .getCapabilities), (0xE3, .negotiateAlgorithms), (0x81, .getDigests),
        (0x82, .getCertificate), (0x83, .challenge), (0xE0, .getMeasurements)]
     let request := spdmRequest s
     let code := (request.getD 1 0).toNat
     let number := fun j => (request.getD j 0).toNat + 256 * (request.getD (j + 1) 0).toNat
     let response := (spdmResponse s request).take 4096
     (∀ x ∈ codes,
        let stands := bit s.ctl.spdmctl 13 = true ∧ (code = x.1 ∨ ∀ y ∈ codes, code ≠ y.1)
        (¬ stands → exec x.2 s = .next s) ∧
        (stands → ∃ t, exec x.2 s = .next t ∧ bit t.ctl.spdmctl 13 = false ∧ bit t.ctl.spdmctl 31 = true ∧
          bits t.ctl.spdmctl 16 13 = response.length ∧ bits t.ctl.spdmctl 0 13 = bits s.ctl.spdmctl 0 13 ∧
          (∀ j, (hj : j < response.length) → t.ctl.spdmResp.extractLsb' (8 * j) 8 = response[j]) ∧
          t.freeCtr = s.freeCtr + 1)) ∧
     (code = 0x82 → request.getD 2 0 = 0 → response.drop 8 <+: Config.certificateChain.drop (number 4)) ∧
     (code = 0xE0 → ∀ n : Fin 3, (request.getD 3 0).toNat = n.val + 1 → (response.drop 15).take 48 =
        digestBytes (if n = 0 then Config.bootMeasure else if n = 1 then s.serviceMeasure else s.supervisorMeasure)) ∧
     ((∀ y ∈ codes, code ≠ y.1) → response = [0x12, 0x7F, 7, BitVec.ofNat 8 code]))

/-- R237, R339-R350: the requests of the host and of other modules: what each does to memory, to the Atoll, to the spawn queue and
to the bays, and the reply it gets. The order of arrivals is the agenda's (log 1); the answers the spec leaves open are logs 22, 29, 30
and 31, the corners of the prefix messages log 36. -/
def Obligations.IncomingRequests : Prop :=
  ∀ (m : Message) (s : State), s.memoryOk →
    let n := m.len
    let big := decide (4096 < n)
    ChecksForm (.read m) s m 0 true (m.badLen || m.crosses) ∧
    ChecksForm (.write m) s m 1 true (m.badLen || m.crosses || m.data.length != (n + 7) / 8) ∧
    ChecksForm (.atomic m) s m 2 (decide (m.op ≤ 9)) (big || m.addr.toNat % 8 != 0) ∧
    ChecksForm (.atomicWait m) s m 3 true (big || decide (5 < m.op) || m.addr.toNat % 8 != 0) ∧
    ChecksForm (.spawnMessage m) s m 4 true (big || m.data.length != 8 || m.data.any (·.2)) ∧
    ChecksForm (.parcel m) s m 5 true (m.badLen || n % 64 != 0 || m.data.length != n / 8 || !destOk m.arg0) ∧
    (∀ x ∈ [(Instr.pfxlookMessage m, 16, PrefixOp.look), (.pfxinsMessage m, 17, .insert), (.pfxdetMessage m, 18, .detach),
        (.pfxevictMessage m, 19, .evict)],
      ChecksForm x.1 s m 2 (decide (m.op = x.2.1)) (m.virt || m.addr.toNat % 4 != 0 || m.arg1.toNat % 4 != 0 || n % 4 != 0 || big ||
        !prefixWordOk m.arg0 x.2.2 (n / 4))) ∧
    (m.badOp = true ↔ (9 < m.op ∧ m.op < 16) ∨ 19 < m.op) ∧
    (∀ off, m.virt = false → messageOffset s m.addr = some off → off < 2 ^ 42 → ∀ kind c,
      (2 ≤ stageNum s → off + n ≤ mainBytes → target s m n kind c = .ok (.main off, s)) ∧
      (stageNum s < 2 ∨ mainBytes < off + n → target s m n kind c = .error 1)) ∧
    (isRequest m 0 → m.badLen = false → m.crosses = false →
      (∀ e, target s m n .load true = .error e →
        ∃ t, exec (.read m) s = .next t ∧ t = { s with sent := t.sent } ∧ Replied s t m e 0 [] 0) ∧
      (∀ l s1 k, target s m n .load true = .ok (l, s1) → l.key? = some k →
        ∃ t data, exec (.read m) s = .next t ∧ t = { s1 with sent := t.sent } ∧ Replied s t m 0 0 data n ∧
          data.length = (n + 7) / 8 ∧ ∀ i < n, dataByte data i = memRead s1.mem (k + i))) ∧
    (isRequest m 1 → m.badLen = false → m.crosses = false → m.data.length = (n + 7) / 8 →
      (∀ e, target s m n .store true = .error e →
        ∃ t, exec (.write m) s = .next t ∧ t = { s with sent := t.sent } ∧ Replied s t m e 0 [] 0) ∧
      (∀ l s1 k, target s m n .store true = .ok (l, s1) → l.key? = some k → (∀ i < n, isMailboxKey (k + i) = false) →
        ∃ t, exec (.write m) s = .next t ∧ Replied s t m 0 0 [] 0 ∧ (∀ i < n, memRead t.mem (k + i) = dataByte m.data i) ∧
          ∀ x, (x < k ∨ k + n ≤ x) → memRead t.mem x = memRead s1.mem x)) ∧
    (isRequest m 2 → n ≤ 4096 → m.op ≤ 9 → m.addr.toNat % 8 = 0 → ∀ l s1 k, target s m 8 .store false = .ok (l, s1) → l.key? = some k →
      (poisoned s1 k 8 = true → ∃ t, exec (.atomic m) s = .next t ∧ t.mem = s1.mem ∧ Replied s t m 0 0 [(0, true)] 8) ∧
      (poisoned s1 k 8 = false → plainKey k 8 → ∃ t, exec (.atomic m) s = .next t ∧ Replied s t m 0 (loadWord s1 k) [] 0 ∧
        loadWord t k = messageResult m (loadWord s1 k) ∧ ∀ x, (x < k ∨ k + 8 ≤ x) → memRead t.mem x = memRead s1.mem x)) ∧
    (isRequest m 2 → m.virt = false → m.addr.toNat % 4 = 0 → m.arg1.toNat % 4 = 0 → n % 4 = 0 → n ≤ 4096 →
      ∀ ids buf, prefixIds s m = some (ids, buf) →
      let tree := bits m.arg0 0 16
      let maxf := bits m.arg0 32 16
      let pages := (List.range (ids.length / 16)).map fun j => (ids.drop (16 * j)).take 16
      let result := fun (status len : Nat) => BitVec.ofNat 64 (status * 2 ^ 56 + len)
      let fits := fun o : PrefixOp => prefixWordOk m.arg0 o (n / 4) = true ∧ buf + 4 * o.ids ids.length maxf ≤ mainBytes
      let holds := fun (t : State) (l : List AtollNode) =>
        ∀ j < l.length, readLE t.mem (buf + 4 * j) 4 = ((l.map AtollNode.page).getD j 0).toNat
      (m.op = 16 → fits .look → ∃ t path c, exec (.pfxlookMessage m) s = .next t ∧ s.reached tree ids path c ∧
        Replied s t m 0 (result 0 c) [] 0 ∧ t.atoll = counted s path ∧ holds t path) ∧
      (m.op = 17 → fits .insert → ∃ path, s.adopted tree pages path ∧
        (s.atoll.length + (pages.length - path.length) ≤ atollNodes - atollNodes / 16 →
          ∃ t new, exec (.pfxinsMessage m) s = .next t ∧ Replied s t m 0 (result 0 (16 * path.length)) [] 0 ∧
            t.atoll = counted s path ++ new ∧ path.length + new.length = pages.length ∧
            ∀ j x, new[j]? = some x → x.tree = tree ∧ x.count = 1 ∧ pages[path.length + j]? = some x.tokens ∧
              x.page = BitVec.ofNat 32 (readLE s.mem (buf + 4 * (path.length + j)) 4))) ∧
      (m.op = 18 → fits .detach → ∃ t path c, exec (.pfxdetMessage m) s = .next t ∧ s.reached tree ids path c ∧
        (let on := if c ≠ ids.length ∧ c % 16 ≠ 0 then path.dropLast else path
         let held := on.filter fun x => x.count != 0
         Replied s t m 0 (result (if c = ids.length ∧ held.length = on.length then 0 else 2) held.length) [] 0 ∧
          t.atoll = s.atoll.map fun x => if (held.map (·.id)).contains x.id then { x with count := x.count - 1 } else x)) ∧
      (m.op = 19 → fits .evict → ids = [] → bit s.ctl.mode 1 = true → ∃ t, exec (.pfxevictMessage m) s = .next t ∧
        t.atoll = s.atoll ∧ Replied s t m 0 (result 2 0) [] 0) ∧
      (m.op = 19 → fits .evict → ids = [] → bit s.ctl.mode 1 = false → ∃ t gone, exec (.pfxevictMessage m) s = .next t ∧ Removed s t gone ∧
        Replied s t m 0 (result 0 gone.length) [] 0 ∧ gone.length ≤ maxf ∧ holds t gone ∧
        (gone.length = maxf ∨ ∀ y ∈ t.atoll, y.tree = tree → removable t y = false))) ∧
    (isRequest m 3 → n ≤ 4096 → m.op ≤ 5 → m.addr.toNat % 8 = 0 → ∀ l s1 k, target s m 8 .load false = .ok (l, s1) → l.key? = some k →
      (s.atomicWaits.length < 4096 →
        exec (.atomicWait m) s = .next { s1 with atomicWaits := s1.atomicWaits ++ [⟨m, k, s1.clk⟩] }) ∧
      (4096 ≤ s.atomicWaits.length → ∃ t, exec (.atomicWait m) s = .next t ∧ t = { s1 with sent := t.sent } ∧
        Replied s t m 3 0 [] 0)) ∧
    (isRequest m 4 → n ≤ 4096 → m.data.length = 8 → (∀ w ∈ m.data, w.2 = false) →
      let rec_ := headerOf (m.data.map (·.1))
      let code := recordCode s rec_ false
      (stageNum s < 3 → ∃ t, exec (.spawnMessage m) s = .next t ∧ t.gangs = s.gangs ∧ Replied s t m 3 0 [] 0) ∧
      (3 ≤ stageNum s → code ≠ 0 → ∃ t, exec (.spawnMessage m) s = .next t ∧ t.gangs = s.gangs ∧
        Replied s t m 5 (BitVec.ofNat 64 (2 ^ 63 + code)) [] 0) ∧
      (3 ≤ stageNum s → code = 0 → bits (recWord rec_ 2) 40 2 = 0 → ∃ t x, exec (.spawnMessage m) s = .next t ∧
        Replied s t m 0 (s.newGid.zeroExtend 64) [] 0 ∧ findGang t s.newGid.toNat = some x ∧ x.record = rec_ ∧ x.asid = m.asid ∧
        x.status = .queued ∧ t.gangs.length = s.gangs.length + 1)) ∧
    (isRequest m 5 → m.badLen = false → n % 64 = 0 → m.data.length = n / 8 → destOk m.arg0 = true →
      (stageNum s < 2 → ∃ t, exec (.parcel m) s = .next t ∧ t.mem = s.mem ∧ Replied s t m 1 0 [] 0) ∧
      (2 ≤ stageNum s → findBay s (destCore m.arg0) (destBay m.arg0) = none →
        ∃ t, exec (.parcel m) s = .next t ∧ t.mem = s.mem ∧ Replied s t m 5 0 [] 0) ∧
      (2 ≤ stageNum s → ∀ y, findBay s (destCore m.arg0) (destBay m.arg0) = some y →
        let at_ := coreKey y.core y.off
        let arrived := (loadWord s at_).toNat
        (arrived < y.slots → n ≤ y.slotBytes → ∃ t, exec (.parcel m) s = .next t ∧ Replied s t m 0 0 [] 0 ∧
          loadWord t at_ = loadWord s at_ + 1 ∧
          ∀ j < n / 8, loadWord t (at_ + 64 + arrived * y.slotBytes + 8 * j) = (m.data.map (·.1)).getD j 0) ∧
        (y.slots ≤ arrived ∨ y.slotBytes < n → ∃ t, exec (.parcel m) s = .next t ∧ Replied s t m 5 0 [] 0 ∧
          loadWord t (at_ + 8) = loadWord s (at_ + 8) + 1))) ∧
    ∀ (i : Nat) (w : AtomicWait), s.atomicWaits[i]? = some w →
      let word := loadWord s w.key
      let limit := bits w.msg.arg1 0 32
      let gone := fun t : State => t = { s with sent := t.sent, atomicWaits := s.atomicWaits.eraseIdx i }
      (poisoned s w.key 8 = false → waitMet w.msg.op word w.msg.arg0 →
        ∃ t, exec (.atomicWaitReply i) s = .next t ∧ gone t ∧ Replied s t w.msg 0 word [] 0) ∧
      (poisoned s w.key 8 = true ∨ ¬ waitMet w.msg.op word w.msg.arg0 → exec (.atomicWaitReply i) s = .next s) ∧
      (limit ≠ 0 → w.since + 2500 * limit ≤ s.clk →
        ∃ t, exec (.atomicWaitTimeout i) s = .next t ∧ gone t ∧ Replied s t w.msg 3 word [] 0) ∧
      (limit = 0 ∨ s.clk < w.since + 2500 * limit → exec (.atomicWaitTimeout i) s = .next s)

/-- R295, R343, R345, R351-R353, R362, R397: requests on a connection and answers from outside: an RDMA request goes to RVA + OFFSET
under RKEY, a reply or a timeout completes a request and hands its word to whom waits for it, fills a line of the remote-line buffer
unless that line has been dropped since it was asked for (log 81), or posts the record of the failure, a
peer reaches only what its connection opens, and a failed connection or a lost peer is recorded. The order of arrivals is the agenda's
(log 1); a failed atomic and a peer's misaligned one are log 22, the mailbox of a record log 24, what a failed request leaves log 32,
that a connection's requests leave as messages with ADDR = RVA + OFFSET and ARG1 = RKEY log 79, and that an event acts while its record
is held back log 76. -/
def Obligations.AnswersAndPeers : Prop :=
  ∀ (s : State), s.memoryOk → (s.requests.map (·.tag)).Nodup →
    let others := fun r : Request => s.requests.filter fun x => x.tag != r.tag
    (∀ (typ pa op len isle e : Nat) (a b : Word) (data : List (Word × Bool)) (hart : Option (Nat × Nat)) (r : BitVec 512),
      typ ≤ 1 → isConnection pa = true → connection s (fabricNode pa - 0xC00) = some r →
      ∃ q : Message, (sendRequest s typ pa op len a b data isle hart e).sent = q :: s.sent ∧ q.typ = typ ∧ q.data = data ∧
        bits (q.word 0) 32 12 = fabricNode pa % 4096 ∧ q.addr = recWord r 2 + BitVec.ofNat 64 (fabricOffset pa) ∧
        q.arg1.toNat = bits (recWord r 1) 0 32) ∧
    (∀ m : Message, (m.typ ≠ 7 ∨ findRequest s m.tag = none) → exec (.reply m) s = .next s) ∧
    (∀ (m : Message) (r : Request), m.typ = 7 → findRequest s m.tag = some r →
      let words := if m.status = 0 then m.data else []
      (r.typ ≠ 0 → ∃ t, exec (.reply m) s = .next t ∧ t.requests = others r ∧ (r.report = none → t.mem = s.mem) ∧
        ∀ x ∈ s.hart.remote, x.tag = r.tag →
          let answer := some (m.arg0, decide (m.status ≠ 0) || words.any (·.2))
          { x with answer := answer, lost := decide (m.status ≠ 0) } ∈ t.hart.remote) ∧
      (r.typ ≠ 0 → ∀ n, r.report = some n → (m.status ≠ 0 ∨ ∃ w ∈ m.data, w.2 = true) →
        ∃ t, exec (.reply m) s = .next t ∧ Posted s t (r.isle % 8) n false) ∧
      (r.typ = 0 → ∃ t, exec (.reply m) s = .next t ∧ t.requests = others r ∧
        (∀ x ∈ s.hart.remote, x.tag = r.tag →
          let answer := some (words.getD 0 (0, true))
          { x with answer := answer, lost := decide (m.status ≠ 0) } ∈ t.hart.remote) ∧
        ∀ x ∈ s.hart.transfers, r.tag ∈ x.tags →
          { x with tags := x.tags.filter (· != r.tag), arrived := x.arrived ++ arrivedWords r.addr words } ∈ t.hart.transfers) ∧
      (r.typ = 0 → (∀ h ∈ s.harts, awaits h r.tag = false ∧ (isConnection r.addr = true → transfers h r.tag = false)) →
        engineAwaits s r.tag = false → (r.hart ≠ none ∨ r.len ≠ 8) → r.stale = true →
        ∃ t, exec (.reply m) s = .next t ∧ t.requests = others r ∧ t.rlb = s.rlb) ∧
      (r.typ = 0 → (∀ h ∈ s.harts, awaits h r.tag = false ∧ (isConnection r.addr = true → transfers h r.tag = false)) →
        engineAwaits s r.tag = false → (r.hart ≠ none ∨ r.len ≠ 8) → r.stale = false →
        ∃ t l, exec (.reply m) s = .next t ∧ rlbFind t r.isle r.addr = some l ∧
          ∀ j < 8, l.data.extractLsb' (64 * j) 64 = (words.getD j (0, true)).1 ∧
            l.poison.getLsbD j = (words.getD j (0, true)).2)) ∧
    (∀ (tag : Nat) (r : Request), findRequest s tag = some r →
      (s.clk < r.sentAt + 250000000 → exec (.requestTimeout tag) s = .next s) ∧
      (r.sentAt + 250000000 ≤ s.clk → ∃ t, exec (.requestTimeout tag) s = .next t ∧ t.requests = others r ∧
        (∀ x ∈ s.hart.remote, x.tag = tag → { x with answer := some (0, true), lost := true } ∈ t.hart.remote) ∧
        (r.typ ≠ 0 → ∀ n, r.report = some n → Posted s t (r.isle % 8) n false)) ∧
      (isConnection r.addr = false → ∀ data, exec (.rdmaCompletion tag data) s = .next s) ∧
      (isConnection r.addr = true → ∀ data, ∃ t, exec (.rdmaCompletion tag data) s = .next t ∧ t.requests = others r ∧
        (r.typ ≠ 0 ∨ r.hart ≠ none ∨ data ≠ [] → t.mem = s.mem))) ∧
    (∀ (conn addr n : Nat) (data : List Byte) (words : List Word) (v x : Word),
      let all := [Instr.rdmaWrite conn addr data, .rdmaRead conn addr n, .send conn words, .atomicFetchAdd conn addr v,
        .atomicCompareSwap conn addr x v]
      (peer s conn = none → ∀ i ∈ all, exec i s = .next s) ∧
      (∀ r, peer s conn = some r →
        let nak := fun i : Instr => ∃ t, exec i s = .next t ∧ t = { s with sent := t.sent } ∧ Acknowledged s t conn 2 0 []
        let swaps := fun (i : Instr) (new : Word → Word) =>
          (openTo r addr 8 = false → nak i) ∧
          (openTo r addr 8 = true → (addr % 8 ≠ 0 ∨ poisoned s addr 8 = true) → nak i) ∧
          (openTo r addr 8 = true → addr % 8 = 0 → poisoned s addr 8 = false → ∃ t, exec i s = .next t ∧
            Acknowledged s t conn 0 (loadWord s addr) [] ∧ loadWord t addr = new (loadWord s addr) ∧
            ∀ y, (y < addr ∨ addr + 8 ≤ y) → memRead t.mem y = memRead s.mem y)
        (openTo r addr data.length = false → nak (.rdmaWrite conn addr data)) ∧
        (openTo r addr data.length = true → ∃ t, exec (.rdmaWrite conn addr data) s = .next t ∧
          Acknowledged s t conn 0 0 [] ∧ (∀ i < data.length, memRead t.mem (addr + i) = data.getD i 0) ∧
          ∀ y, (y < addr ∨ addr + data.length ≤ y) → memRead t.mem y = memRead s.mem y) ∧
        (openTo r addr n = false → nak (.rdmaRead conn addr n)) ∧
        (openTo r addr n = true → ∃ t l, exec (.rdmaRead conn addr n) s = .next t ∧ t.mem = s.mem ∧
          Acknowledged s t conn 0 0 l ∧ l.length = (n + 7) / 8 ∧
          ∀ i < n, poisoned s (addr + i / 8 * 8) (min 8 (n - i / 8 * 8)) = false →
            (l.getD (i / 8) 0).extractLsb' (8 * (i % 8)) 8 = memRead s.mem (addr + i)) ∧
        swaps (.atomicFetchAdd conn addr v) (fun w => w + v) ∧
        swaps (.atomicCompareSwap conn addr x v) (fun w => if w = x then v else w) ∧
        (∀ dest rest, words = dest :: rest → ∃ t, exec (.send conn words) s = .next t ∧ Acknowledged s t conn 0 0 [] ∧
          (findBay s (destCore dest) (destBay dest) = none → t.mem = s.mem) ∧
          ∀ y, findBay s (destCore dest) (destBay dest) = some y → (loadWord s (coreKey y.core y.off)).toNat < y.slots →
            8 * rest.length ≤ y.slotBytes → loadWord t (coreKey y.core y.off) = loadWord s (coreKey y.core y.off) + 1))) ∧
    (∀ conn : Nat,
      (connection s conn = none → exec (.connectionError conn) s = .next s) ∧
      (connection s conn ≠ none → ∃ t, exec (.connectionError conn) s = .next t ∧
        ((s.ctl.ctbase &&& 0x00FFFFFFFFFFFFC0).toNat + 64 * conn + 64 ≤ mainBytes →
          (∀ r, connection t conn = some r → connectionValid r = false) ∧
          ((∀ x ∈ s.requests, ¬ (isConnection x.addr = true ∧ fabricNode x.addr = 0xC00 + conn)) →
            Posted s t 0 (noteRecord 0x0E 0 0 0 0 (BitVec.ofNat 64 ((0xC00 + conn) % 4096))) true)) ∧
        ∀ x ∈ t.requests, ¬ (isConnection x.addr = true ∧ fabricNode x.addr = 0xC00 + conn))) ∧
    ∀ node : Nat, ∃ t, exec (.peerLost node) s = .next t ∧
      Posted s t 0 (noteRecord 0x0E 0 0 0 0 (BitVec.ofNat 64 (node % 4096))) true

/-! ### The step, the reset and what every step keeps -/

/-- R78, R113, R242, R244, R295, R309, R317, R320: a step runs the instruction that is decoded from the words at the pc of the hart
that its core selects, and the device, the matrix queue, the caches and the accesses not yet performed act in the turns the agenda
gives them (logs 1, 8), each in a clk of its own (log 9); a hart of no gang issues as PRIO 7 (log 10), a fetch that traps leaves no
trace (log 53), and before the turn every hart that could be selected is held where its next instruction would neither complete nor
trap nor begin (log 54). The hart selected is an eligible one of the core, which has not yielded if another has not, and none of the
others wins against it; one whose instruction could not begin stands as before. Each clk counts in CYCLE, in the age of a hart that
may issue and in the watchdog of one that is RUN. A word is fetched from the core's instruction cache, or from the storage its
address names, and is then in the cache. -/
def Obligations.StepRunsTheDecodedInstruction : Prop :=
  (∀ (s u s1 : State) (prior : Hart) (c : Nat), ((∃ r, s.agenda = .issue c :: r ∧ u = tick 1 { retry s with agenda := r }) ∨
      (s.agenda = [] ∧ u = tick 1 (retry s) ∧ nextCore u = some c)) →
    (selected u c = none → step s = .next u) ∧
    (selected u c = some (prior, s1) →
      (∀ w0 w1 s2, fetchWords s1 = .ok (w0, w1) s2 →
        (∀ i t, decode w0 w1 = .ok i → exec i s2 = .next t → step s = .next (markHeld prior s2 t)) ∧
        (∀ e t, decode w0 w1 = .error e → exec (.illegalInsn (illegalTval w0 w1)) s2 = .next t →
          step s = .next (markHeld prior s2 t))) ∧
      (∀ x s2 t, fetchWords s1 = .trap x s2 → exec .instructionFetchFault (setHart s1 s1.hart.stopBetween) = .next t →
        step s = .next (markHeld prior (setHart s1 s1.hart.stopBetween) t)) ∧
      (∀ s2, fetchWords s1 = .hold s2 → step s = .next (markHeld prior s2 s2)))) ∧
  (∀ (prior : Hart) (s t : State),
    (isHold s t = false → markHeld prior s t = t) ∧
    (isHold s t = true → markHeld prior s t = setHart t (if notBegun s t = true then
      { t.hart with held := true, age := prior.age - 1, yielded := prior.yielded, st := prior.st, wdcount := prior.wdcount }
      else { t.hart with held := true }))) ∧
  (∀ s : State, { retry s with hart := s.hart, parked := s.parked } = s ∧
    (retry s).harts = s.harts.map fun h => { h with held := mayIssue s { h with held := false } && !canIssue s h }) ∧
  (∀ (s u v : State) (h prior : Hart), cursorOn s h = some (prior, u) →
    (∀ i t, fetchInstr u = (some i, v) → exec i v = .next t →
      (canIssue s h = false ↔ isHold v t = true ∧ notBegun u t = true)) ∧
    (fetchInstr u = (none, v) → (canIssue s h = false ↔ notBegun u v = true))) ∧
  (∀ (s : State) (c : Nat) (h : Hart), selectHart s c = some h → h ∈ s.harts ∧ h.home = c ∧ eligible s h = true ∧
    ∀ x ∈ s.harts, x.home = c → eligible s x = true →
      (h.yielded = true → x.yielded = true) ∧ (x.yielded = h.yielded → winsIssue s x h = false)) ∧
  (∀ (s : State) (r : List Turn),
    let u := tick 1 { retry s with agenda := r }
    (s.agenda = [] → nextCore (tick 1 (retry s)) = none → step s = .next (tick 1 (retry s))) ∧
    (∀ i t, s.agenda = .device i :: r → isDeviceStep i = true → exec i (othersAct u) = .next t → step s = .next t) ∧
    (∀ i, s.agenda = .device i :: r → isDeviceStep i = false → step s = .next u) ∧
    (∀ g m, s.agenda = .queueDone g m :: r → step s = .next (queueDone u g m)) ∧
    (∀ c k, s.agenda = .dropIcache c k :: r → step s = .next (dropIcacheWord u c k)) ∧
    (∀ c va, s.agenda = .dropStc c va :: r → step s = .next (dropStcEntry u c va)) ∧
    (∀ g m x y, s.agenda = .lag g m x y :: r → step s = .next (lagHart u g m x y)) ∧
    (∀ g m x i, s.agenda = .perform g m x i :: r → step s = .next (performFor (othersAct u) g m x i)) ∧
    (∀ c e, s.agenda = .part c e :: r →
      (selected u c = none → step s = .next u) ∧
      ∀ prior s1 s2, selected u c = some (prior, s1) →
        (∀ i t, fetchInstr { s1 with stopAt := some e } = (some i, s2) → exec i s2 = .next t →
          step s = .next { markHeld prior s2 t with stopAt := none }) ∧
        (fetchInstr { s1 with stopAt := some e } = (none, s2) → step s = .next (markHeld prior s2 { s2 with stopAt := none }))) ∧
    (∀ n, s.agenda = .idle n :: r → step s = .next (tick n { retry s with agenda := r }))) ∧
  (∀ (n : Nat) (s : State), (tick n s).clk = s.clk + n ∧ (tick n s).mem = s.mem ∧
    (∀ l, l ∈ (tick n s).rlb ↔ l ∈ s.rlb ∧ s.clk + n ≤ l.filled + 25000) ∧
    (tick n s).hart.wdcount = (if s.hart.st = .run ∧ s.hart.expired = false then s.hart.wdcount + n else s.hart.wdcount) ∧
    (s.hart.pauseUntil ≤ s.clk → (tick n s).hart.age = if mayIssue s s.hart = true then s.hart.age + n else s.hart.age)) ∧
  (∀ (s s1 s2 : State) (w0 w1 : BitVec 32),
    (fetchWord s s.hart.pc = .ok w0 s1 → isLongForm w0 = false → fetchWords s = .ok (w0, 0) s1) ∧
    (fetchWord s s.hart.pc = .ok w0 s1 → isLongForm w0 = true → fetchWord s1 (s1.hart.pc + 4) = .ok w1 s2 →
      fetchWords s = .ok (w0, w1) s2)) ∧
  (∀ (s s1 : State) (a : Word) (k : Nat), (s.windowKey a 4 k ∧ s1 = s) ∨ (s.mappedAt a 4 .fetch k s1 ∧ k < mainBytes) →
    let hits := fun x : IcacheWord => decide (x.core = s1.hart.home) && decide (x.key = k)
    let w := BitVec.ofNat 32 (readLE s1.mem k 4)
    (∀ x, s1.icache.find? hits = some x → fetchWord s a = .ok x.word s1) ∧
    (s1.icache.find? hits = none → poisoned s1 k 4 = false → s1.icache.countP (fun x => x.core == s1.hart.home) < 32768 →
      fetchWord s a = .ok w { s1 with icache := ⟨s1.hart.home, k, w⟩ :: s1.icache }))

/-- R78-R84: the words the spec's encodings give for instructions of every family decode to them. -/
def Obligations.DecodeWords : Prop :=
  decode 0x000E6281 0 = .ok (.add 7 6 5) ∧
  decode 0xFFF04202 0 = .ok (.addi 0x7ff8 4 4) ∧
  decode 0x00066287 0 = .ok (.slli 3 6 5) ∧
  decode 0x01CE628A 0 = .ok (.fadd false 7 7 6 5) ∧
  decode 0x0010328D 0 = .ok (.ldW 8 3 5) ∧
  decode 0x01065192 0 = .ok (.stD 16 5 3) ∧
  decode 0x050C3293 0 = .ok (.amoAdd 1 4 6 3 5) ∧
  decode 0xFFFFB096 0 = .ok (.jal 0xffffb 1) ∧
  decode 0x40C29018 0 = .ok (.csrw 0x103 9) ∧
  decode 0x00800019 0 = .ok .tret ∧
  decode 0x0D80001A 0 = .ok (.fenceAll 6) ∧
  decode 0x0C8C329B 0 = .ok (.waitwGeu 6 6 3 5) ∧
  decode 0x240062A0 0 = .ok (.vsetvlX 2 6 5) ∧
  decode 0x00C62221 0 = .ok (.vaddVV false 3 3 2 4) ∧
  decode 0x24062321 0 = .ok (.vwmulVV false 0 3 2 6) ∧
  decode 0x040E5125 0 = .ok (.vcmpLtVV false 0 7 5 2) ∧
  decode 0x0E0012A7 0 = .ok (.kpopc false 1 5) ∧
  decode 0x461A8128 0 = .ok (.vpack4 false true 0 13 8 2) ∧
  decode 0x001884AC 0 = .ok (.vsoft false 0 12 8 9) ∧
  decode 0x520C4443 0 = .ok (.vmergec false 9 6 4 8) ∧
  decode 0x00CC5145 0 = .ok (.zrcfg 3 6 5 2) ∧
  decode 0x028080C5 0 = .ok (.zrpush false 2 8 1) ∧
  decode 0x00924646 0 = .ok (.vroute 2 9 4 12) ∧
  decode 0x000C40D0 0 = .ok (.zop false 0 6 4 1) ∧
  decode 0x46124554 0 = .ok (.pcvt false true false 3 0 9 4 10) ∧
  decode 0x008C5055 0 = .ok (.gtscfg 2 6 5) ∧
  decode 0x000830E0 0 = .ok (.vprobe 4 3 1) ∧
  decode 0x108A3261 0 = .ok (.vld false 1 2 5 3 4) ∧
  decode 0x000C92E3 0 = .ok (.vamoAdd false 0 0 6 9 5) ∧
  decode 0x04D02265 0 = .ok (.tld false 3 8 2 4) ∧
  decode 0x201240E6 0 = .ok (.scfg 2 9 4 1) ∧
  decode 0x108C53E7 0 = .ok (.cpy 1 2 6 5 7) ∧
  decode 0x12924468 0 = .ok (.vxlate 1 true 2 9 4 8) ∧
  decode 0x101042E9 0 = .ok (.pfxlook 1 8 4 5) ∧
  decode 0x124C42EA 0 = .ok (.psend 1 1 6 4 5) ∧
  decode 0x000202FE 0x80000001 = .ok (.liw 5 0x80000001)

/-- R38, R42, R341, R354, R355: right after reset: stage 0, no node and no host, POWER and RAS as the fabric control page says,
no gang, no hart in a slot, every Isle's DONE set and RHTHR 4096; and what every step keeps holds. That unwritten bytes read 0 is
the model's choice (log 2), as are the registers of the cursor context (log 3). -/
def Obligations.ResetValues : Prop :=
  let s := State.reset
  s.ctl.node = 0xFFF ∧ s.ctl.host = 0xFFF ∧ s.ctl.mode = 0 ∧ s.ctl.power = 0x0ED80000 ∧ s.ctl.stage = 0 ∧ s.ctl.bootgo = 0 ∧
  s.ctl.seedv = 0 ∧ s.ctl.ras = 0x1803 ∧ s.ctl.drain = 0 ∧ (∀ i : Fin 8, s.ctl.plx[i] = 0) ∧ s.clk = 0 ∧
  s.gangs = [] ∧ s.bays = [] ∧ s.atoll = [] ∧ (∀ h ∈ s.harts, h.cores = []) ∧ (∀ core, selected s core = none) ∧
  (∀ i : Fin 8, s.isles[i].done = true ∧ s.isles[i].rhthr = 4096 ∧ s.isles[i].mreq = 0 ∧ s.isles[i].pinned = 0) ∧
  (∀ a, memRead s.mem a = 0) ∧ s.memoryOk ∧ s.spansOk

/-- The canonical form of memory (the model's own representation, log 2) is kept by every step: by every instruction and by every
act of the device. -/
def Obligations.StepKeepsMemoryForm : Prop :=
  ∀ s t : State, s.memoryOk → step s = .next t → t.memoryOk

/-- R19, R42, R123, R126: in every step every hart keeps a SPAN that the package has, and VLMAXC as that span says, and every gang
posted asks for such a span. -/
def Obligations.StepKeepsSpans : Prop :=
  ∀ s t : State, s.spansOk → step s = .next t → t.spansOk

/-- No step stops the machine: whatever the state, the next turn answers a next state. The model's reading of R116 and of the
open values (logs 1, 17): every trap is taken and no value stops a run. -/
def Obligations.EveryStepGoesOn : Prop :=
  ∀ s : State, StepSafe s
end

