-- ==== Sys2Proof/Laws/State.lean ====
section
/-!
SUPPORT. What each update of the state leaves: one lemma per field per update, for the updates the meanings are written over.
-/
namespace Sys2Proof.Machine

/-! ### The hart replaced -/

@[simp] theorem setHart_parked (s : State) (h : Hart) : (setHart s h).parked = s.parked := rfl
@[simp] theorem setHart_gangs (s : State) (h : Hart) : (setHart s h).gangs = s.gangs := rfl
@[simp] theorem setHart_nextGid (s : State) (h : Hart) : (setHart s h).nextGid = s.nextGid := rfl
@[simp] theorem setHart_nextPost (s : State) (h : Hart) : (setHart s h).nextPost = s.nextPost := rfl
@[simp] theorem setHart_mem (s : State) (h : Hart) : (setHart s h).mem = s.mem := rfl
@[simp] theorem setHart_memPoison (s : State) (h : Hart) : (setHart s h).memPoison = s.memPoison := rfl
@[simp] theorem setHart_l1d (s : State) (h : Hart) : (setHart s h).l1d = s.l1d := rfl
@[simp] theorem setHart_icache (s : State) (h : Hart) : (setHart s h).icache = s.icache := rfl
@[simp] theorem setHart_stc (s : State) (h : Hart) : (setHart s h).stc = s.stc := rfl
@[simp] theorem setHart_rlb (s : State) (h : Hart) : (setHart s h).rlb = s.rlb := rfl
@[simp] theorem setHart_resident (s : State) (h : Hart) : (setHart s h).resident = s.resident := rfl
@[simp] theorem setHart_isles (s : State) (h : Hart) : (setHart s h).isles = s.isles := rfl
@[simp] theorem setHart_ctl (s : State) (h : Hart) : (setHart s h).ctl = s.ctl := rfl
@[simp] theorem setHart_regions (s : State) (h : Hart) : (setHart s h).regions = s.regions := rfl
@[simp] theorem setHart_sparesTaken (s : State) (h : Hart) : (setHart s h).sparesTaken = s.sparesTaken := rfl
@[simp] theorem setHart_sparesFreed (s : State) (h : Hart) : (setHart s h).sparesFreed = s.sparesFreed := rfl
@[simp] theorem setHart_hashVersions (s : State) (h : Hart) : (setHart s h).hashVersions = s.hashVersions := rfl
@[simp] theorem setHart_migrations (s : State) (h : Hart) : (setHart s h).migrations = s.migrations := rfl
@[simp] theorem setHart_relayouts (s : State) (h : Hart) : (setHart s h).relayouts = s.relayouts := rfl
@[simp] theorem setHart_atoll (s : State) (h : Hart) : (setHart s h).atoll = s.atoll := rfl
@[simp] theorem setHart_atollNext (s : State) (h : Hart) : (setHart s h).atollNext = s.atollNext := rfl
@[simp] theorem setHart_bays (s : State) (h : Hart) : (setHart s h).bays = s.bays := rfl
@[simp] theorem setHart_sent (s : State) (h : Hart) : (setHart s h).sent = s.sent := rfl
@[simp] theorem setHart_nextTag (s : State) (h : Hart) : (setHart s h).nextTag = s.nextTag := rfl
@[simp] theorem setHart_requests (s : State) (h : Hart) : (setHart s h).requests = s.requests := rfl
@[simp] theorem setHart_atomicWaits (s : State) (h : Hart) : (setHart s h).atomicWaits = s.atomicWaits := rfl
@[simp] theorem setHart_serviceMeasure (s : State) (h : Hart) : (setHart s h).serviceMeasure = s.serviceMeasure := rfl
@[simp] theorem setHart_supervisorMeasure (s : State) (h : Hart) : (setHart s h).supervisorMeasure = s.supervisorMeasure := rfl
@[simp] theorem setHart_rasEvents (s : State) (h : Hart) : (setHart s h).rasEvents = s.rasEvents := rfl
@[simp] theorem setHart_repairs (s : State) (h : Hart) : (setHart s h).repairs = s.repairs := rfl
@[simp] theorem setHart_retiredCores (s : State) (h : Hart) : (setHart s h).retiredCores = s.retiredCores := rfl
@[simp] theorem setHart_lanesUsed (s : State) (h : Hart) : (setHart s h).lanesUsed = s.lanesUsed := rfl
@[simp] theorem setHart_slotCaps (s : State) (h : Hart) : (setHart s h).slotCaps = s.slotCaps := rfl
@[simp] theorem setHart_sparesUsed (s : State) (h : Hart) : (setHart s h).sparesUsed = s.sparesUsed := rfl
@[simp] theorem setHart_hottest (s : State) (h : Hart) : (setHart s h).hottest = s.hottest := rfl
@[simp] theorem setHart_thermalHot (s : State) (h : Hart) : (setHart s h).thermalHot = s.thermalHot := rfl
@[simp] theorem setHart_watts (s : State) (h : Hart) : (setHart s h).watts = s.watts := rfl
@[simp] theorem setHart_measuredAt (s : State) (h : Hart) : (setHart s h).measuredAt = s.measuredAt := rfl
@[simp] theorem setHart_lowPowerMs (s : State) (h : Hart) : (setHart s h).lowPowerMs = s.lowPowerMs := rfl
@[simp] theorem setHart_highPowerMs (s : State) (h : Hart) : (setHart s h).highPowerMs = s.highPowerMs := rfl
@[simp] theorem setHart_clk (s : State) (h : Hart) : (setHart s h).clk = s.clk := rfl
@[simp] theorem setHart_agenda (s : State) (h : Hart) : (setHart s h).agenda = s.agenda := rfl
@[simp] theorem setHart_stopAt (s : State) (h : Hart) : (setHart s h).stopAt = s.stopAt := rfl
@[simp] theorem setHart_freeCtr (s : State) (h : Hart) : (setHart s h).freeCtr = s.freeCtr := rfl

@[simp] theorem setHart_hart (s : State) (h : Hart) : (setHart s h).hart = h := rfl

/-! ### Control registers -/

@[simp] theorem modCsr_parked (s : State) (f : Csrs → Csrs) : (s.modCsr f).parked = s.parked := rfl
@[simp] theorem modCsr_gangs (s : State) (f : Csrs → Csrs) : (s.modCsr f).gangs = s.gangs := rfl
@[simp] theorem modCsr_nextGid (s : State) (f : Csrs → Csrs) : (s.modCsr f).nextGid = s.nextGid := rfl
@[simp] theorem modCsr_nextPost (s : State) (f : Csrs → Csrs) : (s.modCsr f).nextPost = s.nextPost := rfl
@[simp] theorem modCsr_mem (s : State) (f : Csrs → Csrs) : (s.modCsr f).mem = s.mem := rfl
@[simp] theorem modCsr_memPoison (s : State) (f : Csrs → Csrs) : (s.modCsr f).memPoison = s.memPoison := rfl
@[simp] theorem modCsr_l1d (s : State) (f : Csrs → Csrs) : (s.modCsr f).l1d = s.l1d := rfl
@[simp] theorem modCsr_icache (s : State) (f : Csrs → Csrs) : (s.modCsr f).icache = s.icache := rfl
@[simp] theorem modCsr_stc (s : State) (f : Csrs → Csrs) : (s.modCsr f).stc = s.stc := rfl
@[simp] theorem modCsr_rlb (s : State) (f : Csrs → Csrs) : (s.modCsr f).rlb = s.rlb := rfl
@[simp] theorem modCsr_resident (s : State) (f : Csrs → Csrs) : (s.modCsr f).resident = s.resident := rfl
@[simp] theorem modCsr_isles (s : State) (f : Csrs → Csrs) : (s.modCsr f).isles = s.isles := rfl
@[simp] theorem modCsr_ctl (s : State) (f : Csrs → Csrs) : (s.modCsr f).ctl = s.ctl := rfl
@[simp] theorem modCsr_regions (s : State) (f : Csrs → Csrs) : (s.modCsr f).regions = s.regions := rfl
@[simp] theorem modCsr_sparesTaken (s : State) (f : Csrs → Csrs) : (s.modCsr f).sparesTaken = s.sparesTaken := rfl
@[simp] theorem modCsr_sparesFreed (s : State) (f : Csrs → Csrs) : (s.modCsr f).sparesFreed = s.sparesFreed := rfl
@[simp] theorem modCsr_hashVersions (s : State) (f : Csrs → Csrs) : (s.modCsr f).hashVersions = s.hashVersions := rfl
@[simp] theorem modCsr_migrations (s : State) (f : Csrs → Csrs) : (s.modCsr f).migrations = s.migrations := rfl
@[simp] theorem modCsr_relayouts (s : State) (f : Csrs → Csrs) : (s.modCsr f).relayouts = s.relayouts := rfl
@[simp] theorem modCsr_atoll (s : State) (f : Csrs → Csrs) : (s.modCsr f).atoll = s.atoll := rfl
@[simp] theorem modCsr_atollNext (s : State) (f : Csrs → Csrs) : (s.modCsr f).atollNext = s.atollNext := rfl
@[simp] theorem modCsr_bays (s : State) (f : Csrs → Csrs) : (s.modCsr f).bays = s.bays := rfl
@[simp] theorem modCsr_sent (s : State) (f : Csrs → Csrs) : (s.modCsr f).sent = s.sent := rfl
@[simp] theorem modCsr_nextTag (s : State) (f : Csrs → Csrs) : (s.modCsr f).nextTag = s.nextTag := rfl
@[simp] theorem modCsr_requests (s : State) (f : Csrs → Csrs) : (s.modCsr f).requests = s.requests := rfl
@[simp] theorem modCsr_atomicWaits (s : State) (f : Csrs → Csrs) : (s.modCsr f).atomicWaits = s.atomicWaits := rfl
@[simp] theorem modCsr_serviceMeasure (s : State) (f : Csrs → Csrs) : (s.modCsr f).serviceMeasure = s.serviceMeasure := rfl
@[simp] theorem modCsr_supervisorMeasure (s : State) (f : Csrs → Csrs) : (s.modCsr f).supervisorMeasure = s.supervisorMeasure := rfl
@[simp] theorem modCsr_rasEvents (s : State) (f : Csrs → Csrs) : (s.modCsr f).rasEvents = s.rasEvents := rfl
@[simp] theorem modCsr_repairs (s : State) (f : Csrs → Csrs) : (s.modCsr f).repairs = s.repairs := rfl
@[simp] theorem modCsr_retiredCores (s : State) (f : Csrs → Csrs) : (s.modCsr f).retiredCores = s.retiredCores := rfl
@[simp] theorem modCsr_lanesUsed (s : State) (f : Csrs → Csrs) : (s.modCsr f).lanesUsed = s.lanesUsed := rfl
@[simp] theorem modCsr_slotCaps (s : State) (f : Csrs → Csrs) : (s.modCsr f).slotCaps = s.slotCaps := rfl
@[simp] theorem modCsr_sparesUsed (s : State) (f : Csrs → Csrs) : (s.modCsr f).sparesUsed = s.sparesUsed := rfl
@[simp] theorem modCsr_hottest (s : State) (f : Csrs → Csrs) : (s.modCsr f).hottest = s.hottest := rfl
@[simp] theorem modCsr_thermalHot (s : State) (f : Csrs → Csrs) : (s.modCsr f).thermalHot = s.thermalHot := rfl
@[simp] theorem modCsr_watts (s : State) (f : Csrs → Csrs) : (s.modCsr f).watts = s.watts := rfl
@[simp] theorem modCsr_measuredAt (s : State) (f : Csrs → Csrs) : (s.modCsr f).measuredAt = s.measuredAt := rfl
@[simp] theorem modCsr_lowPowerMs (s : State) (f : Csrs → Csrs) : (s.modCsr f).lowPowerMs = s.lowPowerMs := rfl
@[simp] theorem modCsr_highPowerMs (s : State) (f : Csrs → Csrs) : (s.modCsr f).highPowerMs = s.highPowerMs := rfl
@[simp] theorem modCsr_clk (s : State) (f : Csrs → Csrs) : (s.modCsr f).clk = s.clk := rfl
@[simp] theorem modCsr_agenda (s : State) (f : Csrs → Csrs) : (s.modCsr f).agenda = s.agenda := rfl
@[simp] theorem modCsr_stopAt (s : State) (f : Csrs → Csrs) : (s.modCsr f).stopAt = s.stopAt := rfl
@[simp] theorem modCsr_freeCtr (s : State) (f : Csrs → Csrs) : (s.modCsr f).freeCtr = s.freeCtr := rfl
@[simp] theorem modCsr_hart_pc (s : State) (f : Csrs → Csrs) : (s.modCsr f).hart.pc = s.hart.pc := rfl
@[simp] theorem modCsr_hart_s (s : State) (f : Csrs → Csrs) : (s.modCsr f).hart.s = s.hart.s := rfl
@[simp] theorem modCsr_hart_sPoison (s : State) (f : Csrs → Csrs) : (s.modCsr f).hart.sPoison = s.hart.sPoison := rfl
@[simp] theorem modCsr_hart_v (s : State) (f : Csrs → Csrs) : (s.modCsr f).hart.v = s.hart.v := rfl
@[simp] theorem modCsr_hart_k (s : State) (f : Csrs → Csrs) : (s.modCsr f).hart.k = s.hart.k := rfl
@[simp] theorem modCsr_hart_z (s : State) (f : Csrs → Csrs) : (s.modCsr f).hart.z = s.hart.z := rfl
@[simp] theorem modCsr_hart_q (s : State) (f : Csrs → Csrs) : (s.modCsr f).hart.q = s.hart.q := rfl
@[simp] theorem modCsr_hart_h (s : State) (f : Csrs → Csrs) : (s.modCsr f).hart.h = s.hart.h := rfl
@[simp] theorem modCsr_hart_f (s : State) (f : Csrs → Csrs) : (s.modCsr f).hart.f = s.hart.f := rfl
@[simp] theorem modCsr_hart_st (s : State) (f : Csrs → Csrs) : (s.modCsr f).hart.st = s.hart.st := rfl
@[simp] theorem modCsr_hart_waits (s : State) (f : Csrs → Csrs) : (s.modCsr f).hart.waits = s.hart.waits := rfl
@[simp] theorem modCsr_hart_cores (s : State) (f : Csrs → Csrs) : (s.modCsr f).hart.cores = s.hart.cores := rfl
@[simp] theorem modCsr_hart_slot (s : State) (f : Csrs → Csrs) : (s.modCsr f).hart.slot = s.hart.slot := rfl
@[simp] theorem modCsr_hart_asid (s : State) (f : Csrs → Csrs) : (s.modCsr f).hart.asid = s.hart.asid := rfl
@[simp] theorem modCsr_hart_convoy (s : State) (f : Csrs → Csrs) : (s.modCsr f).hart.convoy = s.hart.convoy := rfl
@[simp] theorem modCsr_hart_wdcount (s : State) (f : Csrs → Csrs) : (s.modCsr f).hart.wdcount = s.hart.wdcount := rfl
@[simp] theorem modCsr_hart_age (s : State) (f : Csrs → Csrs) : (s.modCsr f).hart.age = s.hart.age := rfl
@[simp] theorem modCsr_hart_yielded (s : State) (f : Csrs → Csrs) : (s.modCsr f).hart.yielded = s.hart.yielded := rfl
@[simp] theorem modCsr_hart_pauseUntil (s : State) (f : Csrs → Csrs) : (s.modCsr f).hart.pauseUntil = s.hart.pauseUntil := rfl
@[simp] theorem modCsr_hart_order (s : State) (f : Csrs → Csrs) : (s.modCsr f).hart.order = s.hart.order := rfl
@[simp] theorem modCsr_hart_written (s : State) (f : Csrs → Csrs) : (s.modCsr f).hart.written = s.hart.written := rfl
@[simp] theorem modCsr_hart_progress (s : State) (f : Csrs → Csrs) : (s.modCsr f).hart.progress = s.hart.progress := rfl
@[simp] theorem modCsr_hart_transfers (s : State) (f : Csrs → Csrs) : (s.modCsr f).hart.transfers = s.hart.transfers := rfl
@[simp] theorem modCsr_hart_mq (s : State) (f : Csrs → Csrs) : (s.modCsr f).hart.mq = s.hart.mq := rfl
@[simp] theorem modCsr_hart_mqSeq (s : State) (f : Csrs → Csrs) : (s.modCsr f).hart.mqSeq = s.hart.mqSeq := rfl
@[simp] theorem modCsr_hart_remote (s : State) (f : Csrs → Csrs) : (s.modCsr f).hart.remote = s.hart.remote := rfl
@[simp] theorem modCsr_hart_covered (s : State) (f : Csrs → Csrs) : (s.modCsr f).hart.covered = s.hart.covered := rfl
@[simp] theorem modCsr_hart_psend (s : State) (f : Csrs → Csrs) : (s.modCsr f).hart.psend = s.hart.psend := rfl
@[simp] theorem modCsr_hart_engine (s : State) (f : Csrs → Csrs) : (s.modCsr f).hart.engine = s.hart.engine := rfl
@[simp] theorem modCsr_hart_xlateFault (s : State) (f : Csrs → Csrs) : (s.modCsr f).hart.xlateFault = s.hart.xlateFault := rfl
@[simp] theorem modCsr_hart_held (s : State) (f : Csrs → Csrs) : (s.modCsr f).hart.held = s.hart.held := rfl
@[simp] theorem modCsr_hart_expired (s : State) (f : Csrs → Csrs) : (s.modCsr f).hart.expired = s.hart.expired := rfl
@[simp] theorem modCsr_hart_stopped (s : State) (f : Csrs → Csrs) : (s.modCsr f).hart.stopped = s.hart.stopped := rfl

@[simp] theorem modCsr_hart_csr (s : State) (f : Csrs → Csrs) : (s.modCsr f).hart.csr = f s.hart.csr := rfl

/-! ### An instruction retired -/

@[simp] theorem countRetired_parked (s : State)  : (s.countRetired).parked = s.parked := rfl
@[simp] theorem countRetired_gangs (s : State)  : (s.countRetired).gangs = s.gangs := rfl
@[simp] theorem countRetired_nextGid (s : State)  : (s.countRetired).nextGid = s.nextGid := rfl
@[simp] theorem countRetired_nextPost (s : State)  : (s.countRetired).nextPost = s.nextPost := rfl
@[simp] theorem countRetired_mem (s : State)  : (s.countRetired).mem = s.mem := rfl
@[simp] theorem countRetired_memPoison (s : State)  : (s.countRetired).memPoison = s.memPoison := rfl
@[simp] theorem countRetired_l1d (s : State)  : (s.countRetired).l1d = s.l1d := rfl
@[simp] theorem countRetired_icache (s : State)  : (s.countRetired).icache = s.icache := rfl
@[simp] theorem countRetired_stc (s : State)  : (s.countRetired).stc = s.stc := rfl
@[simp] theorem countRetired_rlb (s : State)  : (s.countRetired).rlb = s.rlb := rfl
@[simp] theorem countRetired_resident (s : State)  : (s.countRetired).resident = s.resident := rfl
@[simp] theorem countRetired_isles (s : State)  : (s.countRetired).isles = s.isles := rfl
@[simp] theorem countRetired_ctl (s : State)  : (s.countRetired).ctl = s.ctl := rfl
@[simp] theorem countRetired_regions (s : State)  : (s.countRetired).regions = s.regions := rfl
@[simp] theorem countRetired_sparesTaken (s : State)  : (s.countRetired).sparesTaken = s.sparesTaken := rfl
@[simp] theorem countRetired_sparesFreed (s : State)  : (s.countRetired).sparesFreed = s.sparesFreed := rfl
@[simp] theorem countRetired_hashVersions (s : State)  : (s.countRetired).hashVersions = s.hashVersions := rfl
@[simp] theorem countRetired_migrations (s : State)  : (s.countRetired).migrations = s.migrations := rfl
@[simp] theorem countRetired_relayouts (s : State)  : (s.countRetired).relayouts = s.relayouts := rfl
@[simp] theorem countRetired_atoll (s : State)  : (s.countRetired).atoll = s.atoll := rfl
@[simp] theorem countRetired_atollNext (s : State)  : (s.countRetired).atollNext = s.atollNext := rfl
@[simp] theorem countRetired_bays (s : State)  : (s.countRetired).bays = s.bays := rfl
@[simp] theorem countRetired_sent (s : State)  : (s.countRetired).sent = s.sent := rfl
@[simp] theorem countRetired_nextTag (s : State)  : (s.countRetired).nextTag = s.nextTag := rfl
@[simp] theorem countRetired_requests (s : State)  : (s.countRetired).requests = s.requests := rfl
@[simp] theorem countRetired_atomicWaits (s : State)  : (s.countRetired).atomicWaits = s.atomicWaits := rfl
@[simp] theorem countRetired_serviceMeasure (s : State)  : (s.countRetired).serviceMeasure = s.serviceMeasure := rfl
@[simp] theorem countRetired_supervisorMeasure (s : State)  : (s.countRetired).supervisorMeasure = s.supervisorMeasure := rfl
@[simp] theorem countRetired_rasEvents (s : State)  : (s.countRetired).rasEvents = s.rasEvents := rfl
@[simp] theorem countRetired_repairs (s : State)  : (s.countRetired).repairs = s.repairs := rfl
@[simp] theorem countRetired_retiredCores (s : State)  : (s.countRetired).retiredCores = s.retiredCores := rfl
@[simp] theorem countRetired_lanesUsed (s : State)  : (s.countRetired).lanesUsed = s.lanesUsed := rfl
@[simp] theorem countRetired_slotCaps (s : State)  : (s.countRetired).slotCaps = s.slotCaps := rfl
@[simp] theorem countRetired_sparesUsed (s : State)  : (s.countRetired).sparesUsed = s.sparesUsed := rfl
@[simp] theorem countRetired_hottest (s : State)  : (s.countRetired).hottest = s.hottest := rfl
@[simp] theorem countRetired_thermalHot (s : State)  : (s.countRetired).thermalHot = s.thermalHot := rfl
@[simp] theorem countRetired_watts (s : State)  : (s.countRetired).watts = s.watts := rfl
@[simp] theorem countRetired_measuredAt (s : State)  : (s.countRetired).measuredAt = s.measuredAt := rfl
@[simp] theorem countRetired_lowPowerMs (s : State)  : (s.countRetired).lowPowerMs = s.lowPowerMs := rfl
@[simp] theorem countRetired_highPowerMs (s : State)  : (s.countRetired).highPowerMs = s.highPowerMs := rfl
@[simp] theorem countRetired_clk (s : State)  : (s.countRetired).clk = s.clk := rfl
@[simp] theorem countRetired_agenda (s : State)  : (s.countRetired).agenda = s.agenda := rfl
@[simp] theorem countRetired_stopAt (s : State)  : (s.countRetired).stopAt = s.stopAt := rfl
@[simp] theorem countRetired_freeCtr (s : State)  : (s.countRetired).freeCtr = s.freeCtr := rfl
@[simp] theorem countRetired_hart_pc (s : State)  : (s.countRetired).hart.pc = s.hart.pc := rfl
@[simp] theorem countRetired_hart_s (s : State)  : (s.countRetired).hart.s = s.hart.s := rfl
@[simp] theorem countRetired_hart_sPoison (s : State)  : (s.countRetired).hart.sPoison = s.hart.sPoison := rfl
@[simp] theorem countRetired_hart_v (s : State)  : (s.countRetired).hart.v = s.hart.v := rfl
@[simp] theorem countRetired_hart_k (s : State)  : (s.countRetired).hart.k = s.hart.k := rfl
@[simp] theorem countRetired_hart_z (s : State)  : (s.countRetired).hart.z = s.hart.z := rfl
@[simp] theorem countRetired_hart_q (s : State)  : (s.countRetired).hart.q = s.hart.q := rfl
@[simp] theorem countRetired_hart_h (s : State)  : (s.countRetired).hart.h = s.hart.h := rfl
@[simp] theorem countRetired_hart_f (s : State)  : (s.countRetired).hart.f = s.hart.f := rfl
@[simp] theorem countRetired_hart_st (s : State)  : (s.countRetired).hart.st = s.hart.st := rfl
@[simp] theorem countRetired_hart_waits (s : State)  : (s.countRetired).hart.waits = s.hart.waits := rfl
@[simp] theorem countRetired_hart_cores (s : State)  : (s.countRetired).hart.cores = s.hart.cores := rfl
@[simp] theorem countRetired_hart_slot (s : State)  : (s.countRetired).hart.slot = s.hart.slot := rfl
@[simp] theorem countRetired_hart_asid (s : State)  : (s.countRetired).hart.asid = s.hart.asid := rfl
@[simp] theorem countRetired_hart_convoy (s : State)  : (s.countRetired).hart.convoy = s.hart.convoy := rfl
@[simp] theorem countRetired_hart_age (s : State)  : (s.countRetired).hart.age = s.hart.age := rfl
@[simp] theorem countRetired_hart_yielded (s : State)  : (s.countRetired).hart.yielded = s.hart.yielded := rfl
@[simp] theorem countRetired_hart_pauseUntil (s : State)  : (s.countRetired).hart.pauseUntil = s.hart.pauseUntil := rfl
@[simp] theorem countRetired_hart_order (s : State)  : (s.countRetired).hart.order = s.hart.order := rfl
@[simp] theorem countRetired_hart_written (s : State)  : (s.countRetired).hart.written = s.hart.written := rfl
@[simp] theorem countRetired_hart_transfers (s : State)  : (s.countRetired).hart.transfers = s.hart.transfers := rfl
@[simp] theorem countRetired_hart_mq (s : State)  : (s.countRetired).hart.mq = s.hart.mq := rfl
@[simp] theorem countRetired_hart_mqSeq (s : State)  : (s.countRetired).hart.mqSeq = s.hart.mqSeq := rfl
@[simp] theorem countRetired_hart_remote (s : State)  : (s.countRetired).hart.remote = s.hart.remote := rfl
@[simp] theorem countRetired_hart_covered (s : State)  : (s.countRetired).hart.covered = s.hart.covered := rfl
@[simp] theorem countRetired_hart_psend (s : State)  : (s.countRetired).hart.psend = s.hart.psend := rfl
@[simp] theorem countRetired_hart_engine (s : State)  : (s.countRetired).hart.engine = s.hart.engine := rfl
@[simp] theorem countRetired_hart_xlateFault (s : State)  : (s.countRetired).hart.xlateFault = s.hart.xlateFault := rfl
@[simp] theorem countRetired_hart_held (s : State)  : (s.countRetired).hart.held = s.hart.held := rfl
@[simp] theorem countRetired_hart_expired (s : State)  : (s.countRetired).hart.expired = s.hart.expired := rfl
@[simp] theorem countRetired_hart_stopped (s : State)  : (s.countRetired).hart.stopped = s.hart.stopped := rfl
@[simp] theorem countRetired_csr_vl (s : State)  : (s.countRetired).hart.csr.vl = s.hart.csr.vl := rfl
@[simp] theorem countRetired_csr_vstart (s : State)  : (s.countRetired).hart.csr.vstart = s.hart.csr.vstart := rfl
@[simp] theorem countRetired_csr_vdirty (s : State)  : (s.countRetired).hart.csr.vdirty = s.hart.csr.vdirty := rfl
@[simp] theorem countRetired_csr_vflags (s : State)  : (s.countRetired).hart.csr.vflags = s.hart.csr.vflags := rfl
@[simp] theorem countRetired_csr_vstat (s : State)  : (s.countRetired).hart.csr.vstat = s.hart.csr.vstat := rfl
@[simp] theorem countRetired_csr_vrm (s : State)  : (s.countRetired).hart.csr.vrm = s.hart.csr.vrm := rfl
@[simp] theorem countRetired_csr_hartid (s : State)  : (s.countRetired).hart.csr.hartid = s.hart.csr.hartid := rfl
@[simp] theorem countRetired_csr_gangid (s : State)  : (s.countRetired).hart.csr.gangid = s.hart.csr.gangid := rfl
@[simp] theorem countRetired_csr_gangsize (s : State)  : (s.countRetired).hart.csr.gangsize = s.hart.csr.gangsize := rfl
@[simp] theorem countRetired_csr_member (s : State)  : (s.countRetired).hart.csr.member = s.hart.csr.member := rfl
@[simp] theorem countRetired_csr_span (s : State)  : (s.countRetired).hart.csr.span = s.hart.csr.span := rfl
@[simp] theorem countRetired_csr_footprint (s : State)  : (s.countRetired).hart.csr.footprint = s.hart.csr.footprint := rfl
@[simp] theorem countRetired_csr_vlmaxc (s : State)  : (s.countRetired).hart.csr.vlmaxc = s.hart.csr.vlmaxc := rfl
@[simp] theorem countRetired_csr_budget (s : State)  : (s.countRetired).hart.csr.budget = s.hart.csr.budget := rfl
@[simp] theorem countRetired_csr_zlist (s : State)  : (s.countRetired).hart.csr.zlist = s.hart.csr.zlist := rfl
@[simp] theorem countRetired_csr_wdlimit (s : State)  : (s.countRetired).hart.csr.wdlimit = s.hart.csr.wdlimit := rfl
@[simp] theorem countRetired_csr_key0 (s : State)  : (s.countRetired).hart.csr.key0 = s.hart.csr.key0 := rfl
@[simp] theorem countRetired_csr_key1 (s : State)  : (s.countRetired).hart.csr.key1 = s.hart.csr.key1 := rfl
@[simp] theorem countRetired_csr_key2 (s : State)  : (s.countRetired).hart.csr.key2 = s.hart.csr.key2 := rfl
@[simp] theorem countRetired_csr_key3 (s : State)  : (s.countRetired).hart.csr.key3 = s.hart.csr.key3 := rfl
@[simp] theorem countRetired_csr_counter (s : State)  : (s.countRetired).hart.csr.counter = s.hart.csr.counter := rfl
@[simp] theorem countRetired_csr_nonce (s : State)  : (s.countRetired).hart.csr.nonce = s.hart.csr.nonce := rfl
@[simp] theorem countRetired_csr_rngmode (s : State)  : (s.countRetired).hart.csr.rngmode = s.hart.csr.rngmode := rfl
@[simp] theorem countRetired_csr_tcause (s : State)  : (s.countRetired).hart.csr.tcause = s.hart.csr.tcause := rfl
@[simp] theorem countRetired_csr_tval (s : State)  : (s.countRetired).hart.csr.tval = s.hart.csr.tval := rfl
@[simp] theorem countRetired_csr_tpc (s : State)  : (s.countRetired).hart.csr.tpc = s.hart.csr.tpc := rfl
@[simp] theorem countRetired_csr_tvec (s : State)  : (s.countRetired).hart.csr.tvec = s.hart.csr.tvec := rfl
@[simp] theorem countRetired_csr_tscratch (s : State)  : (s.countRetired).hart.csr.tscratch = s.hart.csr.tscratch := rfl
@[simp] theorem countRetired_csr_priv (s : State)  : (s.countRetired).hart.csr.priv = s.hart.csr.priv := rfl

@[simp] theorem countRetired_hart_progress (s : State) : s.countRetired.hart.progress = none := rfl
@[simp] theorem countRetired_csr_retired (s : State) : s.countRetired.hart.csr.retired = s.hart.csr.retired + 1 := rfl

/-! ### A scalar register written -/

@[simp] theorem setRs_parked (s : State) (r : BitVec 5) (v : Word) : (s.setRs r v).parked = s.parked := by unfold State.setRs; split <;> rfl
@[simp] theorem setRs_gangs (s : State) (r : BitVec 5) (v : Word) : (s.setRs r v).gangs = s.gangs := by unfold State.setRs; split <;> rfl
@[simp] theorem setRs_nextGid (s : State) (r : BitVec 5) (v : Word) : (s.setRs r v).nextGid = s.nextGid := by unfold State.setRs; split <;> rfl
@[simp] theorem setRs_nextPost (s : State) (r : BitVec 5) (v : Word) : (s.setRs r v).nextPost = s.nextPost := by unfold State.setRs; split <;> rfl
@[simp] theorem setRs_mem (s : State) (r : BitVec 5) (v : Word) : (s.setRs r v).mem = s.mem := by unfold State.setRs; split <;> rfl
@[simp] theorem setRs_memPoison (s : State) (r : BitVec 5) (v : Word) : (s.setRs r v).memPoison = s.memPoison := by unfold State.setRs; split <;> rfl
@[simp] theorem setRs_l1d (s : State) (r : BitVec 5) (v : Word) : (s.setRs r v).l1d = s.l1d := by unfold State.setRs; split <;> rfl
@[simp] theorem setRs_icache (s : State) (r : BitVec 5) (v : Word) : (s.setRs r v).icache = s.icache := by unfold State.setRs; split <;> rfl
@[simp] theorem setRs_stc (s : State) (r : BitVec 5) (v : Word) : (s.setRs r v).stc = s.stc := by unfold State.setRs; split <;> rfl
@[simp] theorem setRs_rlb (s : State) (r : BitVec 5) (v : Word) : (s.setRs r v).rlb = s.rlb := by unfold State.setRs; split <;> rfl
@[simp] theorem setRs_resident (s : State) (r : BitVec 5) (v : Word) : (s.setRs r v).resident = s.resident := by unfold State.setRs; split <;> rfl
@[simp] theorem setRs_isles (s : State) (r : BitVec 5) (v : Word) : (s.setRs r v).isles = s.isles := by unfold State.setRs; split <;> rfl
@[simp] theorem setRs_ctl (s : State) (r : BitVec 5) (v : Word) : (s.setRs r v).ctl = s.ctl := by unfold State.setRs; split <;> rfl
@[simp] theorem setRs_regions (s : State) (r : BitVec 5) (v : Word) : (s.setRs r v).regions = s.regions := by unfold State.setRs; split <;> rfl
@[simp] theorem setRs_sparesTaken (s : State) (r : BitVec 5) (v : Word) : (s.setRs r v).sparesTaken = s.sparesTaken := by unfold State.setRs; split <;> rfl
@[simp] theorem setRs_sparesFreed (s : State) (r : BitVec 5) (v : Word) : (s.setRs r v).sparesFreed = s.sparesFreed := by unfold State.setRs; split <;> rfl
@[simp] theorem setRs_hashVersions (s : State) (r : BitVec 5) (v : Word) : (s.setRs r v).hashVersions = s.hashVersions := by unfold State.setRs; split <;> rfl
@[simp] theorem setRs_migrations (s : State) (r : BitVec 5) (v : Word) : (s.setRs r v).migrations = s.migrations := by unfold State.setRs; split <;> rfl
@[simp] theorem setRs_relayouts (s : State) (r : BitVec 5) (v : Word) : (s.setRs r v).relayouts = s.relayouts := by unfold State.setRs; split <;> rfl
@[simp] theorem setRs_atoll (s : State) (r : BitVec 5) (v : Word) : (s.setRs r v).atoll = s.atoll := by unfold State.setRs; split <;> rfl
@[simp] theorem setRs_atollNext (s : State) (r : BitVec 5) (v : Word) : (s.setRs r v).atollNext = s.atollNext := by unfold State.setRs; split <;> rfl
@[simp] theorem setRs_bays (s : State) (r : BitVec 5) (v : Word) : (s.setRs r v).bays = s.bays := by unfold State.setRs; split <;> rfl
@[simp] theorem setRs_sent (s : State) (r : BitVec 5) (v : Word) : (s.setRs r v).sent = s.sent := by unfold State.setRs; split <;> rfl
@[simp] theorem setRs_nextTag (s : State) (r : BitVec 5) (v : Word) : (s.setRs r v).nextTag = s.nextTag := by unfold State.setRs; split <;> rfl
@[simp] theorem setRs_requests (s : State) (r : BitVec 5) (v : Word) : (s.setRs r v).requests = s.requests := by unfold State.setRs; split <;> rfl
@[simp] theorem setRs_atomicWaits (s : State) (r : BitVec 5) (v : Word) : (s.setRs r v).atomicWaits = s.atomicWaits := by unfold State.setRs; split <;> rfl
@[simp] theorem setRs_serviceMeasure (s : State) (r : BitVec 5) (v : Word) : (s.setRs r v).serviceMeasure = s.serviceMeasure := by unfold State.setRs; split <;> rfl
@[simp] theorem setRs_supervisorMeasure (s : State) (r : BitVec 5) (v : Word) : (s.setRs r v).supervisorMeasure = s.supervisorMeasure := by unfold State.setRs; split <;> rfl
@[simp] theorem setRs_rasEvents (s : State) (r : BitVec 5) (v : Word) : (s.setRs r v).rasEvents = s.rasEvents := by unfold State.setRs; split <;> rfl
@[simp] theorem setRs_repairs (s : State) (r : BitVec 5) (v : Word) : (s.setRs r v).repairs = s.repairs := by unfold State.setRs; split <;> rfl
@[simp] theorem setRs_retiredCores (s : State) (r : BitVec 5) (v : Word) : (s.setRs r v).retiredCores = s.retiredCores := by unfold State.setRs; split <;> rfl
@[simp] theorem setRs_lanesUsed (s : State) (r : BitVec 5) (v : Word) : (s.setRs r v).lanesUsed = s.lanesUsed := by unfold State.setRs; split <;> rfl
@[simp] theorem setRs_slotCaps (s : State) (r : BitVec 5) (v : Word) : (s.setRs r v).slotCaps = s.slotCaps := by unfold State.setRs; split <;> rfl
@[simp] theorem setRs_sparesUsed (s : State) (r : BitVec 5) (v : Word) : (s.setRs r v).sparesUsed = s.sparesUsed := by unfold State.setRs; split <;> rfl
@[simp] theorem setRs_hottest (s : State) (r : BitVec 5) (v : Word) : (s.setRs r v).hottest = s.hottest := by unfold State.setRs; split <;> rfl
@[simp] theorem setRs_thermalHot (s : State) (r : BitVec 5) (v : Word) : (s.setRs r v).thermalHot = s.thermalHot := by unfold State.setRs; split <;> rfl
@[simp] theorem setRs_watts (s : State) (r : BitVec 5) (v : Word) : (s.setRs r v).watts = s.watts := by unfold State.setRs; split <;> rfl
@[simp] theorem setRs_measuredAt (s : State) (r : BitVec 5) (v : Word) : (s.setRs r v).measuredAt = s.measuredAt := by unfold State.setRs; split <;> rfl
@[simp] theorem setRs_lowPowerMs (s : State) (r : BitVec 5) (v : Word) : (s.setRs r v).lowPowerMs = s.lowPowerMs := by unfold State.setRs; split <;> rfl
@[simp] theorem setRs_highPowerMs (s : State) (r : BitVec 5) (v : Word) : (s.setRs r v).highPowerMs = s.highPowerMs := by unfold State.setRs; split <;> rfl
@[simp] theorem setRs_clk (s : State) (r : BitVec 5) (v : Word) : (s.setRs r v).clk = s.clk := by unfold State.setRs; split <;> rfl
@[simp] theorem setRs_agenda (s : State) (r : BitVec 5) (v : Word) : (s.setRs r v).agenda = s.agenda := by unfold State.setRs; split <;> rfl
@[simp] theorem setRs_stopAt (s : State) (r : BitVec 5) (v : Word) : (s.setRs r v).stopAt = s.stopAt := by unfold State.setRs; split <;> rfl
@[simp] theorem setRs_freeCtr (s : State) (r : BitVec 5) (v : Word) : (s.setRs r v).freeCtr = s.freeCtr := by unfold State.setRs; split <;> rfl
@[simp] theorem setRs_hart_pc (s : State) (r : BitVec 5) (v : Word) : (s.setRs r v).hart.pc = s.hart.pc := by unfold State.setRs; split <;> rfl
@[simp] theorem setRs_hart_v (s : State) (r : BitVec 5) (v : Word) : (s.setRs r v).hart.v = s.hart.v := by unfold State.setRs; split <;> rfl
@[simp] theorem setRs_hart_k (s : State) (r : BitVec 5) (v : Word) : (s.setRs r v).hart.k = s.hart.k := by unfold State.setRs; split <;> rfl
@[simp] theorem setRs_hart_z (s : State) (r : BitVec 5) (v : Word) : (s.setRs r v).hart.z = s.hart.z := by unfold State.setRs; split <;> rfl
@[simp] theorem setRs_hart_q (s : State) (r : BitVec 5) (v : Word) : (s.setRs r v).hart.q = s.hart.q := by unfold State.setRs; split <;> rfl
@[simp] theorem setRs_hart_h (s : State) (r : BitVec 5) (v : Word) : (s.setRs r v).hart.h = s.hart.h := by unfold State.setRs; split <;> rfl
@[simp] theorem setRs_hart_f (s : State) (r : BitVec 5) (v : Word) : (s.setRs r v).hart.f = s.hart.f := by unfold State.setRs; split <;> rfl
@[simp] theorem setRs_hart_csr (s : State) (r : BitVec 5) (v : Word) : (s.setRs r v).hart.csr = s.hart.csr := by unfold State.setRs; split <;> rfl
@[simp] theorem setRs_hart_st (s : State) (r : BitVec 5) (v : Word) : (s.setRs r v).hart.st = s.hart.st := by unfold State.setRs; split <;> rfl
@[simp] theorem setRs_hart_waits (s : State) (r : BitVec 5) (v : Word) : (s.setRs r v).hart.waits = s.hart.waits := by unfold State.setRs; split <;> rfl
@[simp] theorem setRs_hart_cores (s : State) (r : BitVec 5) (v : Word) : (s.setRs r v).hart.cores = s.hart.cores := by unfold State.setRs; split <;> rfl
@[simp] theorem setRs_hart_slot (s : State) (r : BitVec 5) (v : Word) : (s.setRs r v).hart.slot = s.hart.slot := by unfold State.setRs; split <;> rfl
@[simp] theorem setRs_hart_asid (s : State) (r : BitVec 5) (v : Word) : (s.setRs r v).hart.asid = s.hart.asid := by unfold State.setRs; split <;> rfl
@[simp] theorem setRs_hart_convoy (s : State) (r : BitVec 5) (v : Word) : (s.setRs r v).hart.convoy = s.hart.convoy := by unfold State.setRs; split <;> rfl
@[simp] theorem setRs_hart_wdcount (s : State) (r : BitVec 5) (v : Word) : (s.setRs r v).hart.wdcount = s.hart.wdcount := by unfold State.setRs; split <;> rfl
@[simp] theorem setRs_hart_age (s : State) (r : BitVec 5) (v : Word) : (s.setRs r v).hart.age = s.hart.age := by unfold State.setRs; split <;> rfl
@[simp] theorem setRs_hart_yielded (s : State) (r : BitVec 5) (v : Word) : (s.setRs r v).hart.yielded = s.hart.yielded := by unfold State.setRs; split <;> rfl
@[simp] theorem setRs_hart_pauseUntil (s : State) (r : BitVec 5) (v : Word) : (s.setRs r v).hart.pauseUntil = s.hart.pauseUntil := by unfold State.setRs; split <;> rfl
@[simp] theorem setRs_hart_order (s : State) (r : BitVec 5) (v : Word) : (s.setRs r v).hart.order = s.hart.order := by unfold State.setRs; split <;> rfl
@[simp] theorem setRs_hart_written (s : State) (r : BitVec 5) (v : Word) : (s.setRs r v).hart.written = s.hart.written := by unfold State.setRs; split <;> rfl
@[simp] theorem setRs_hart_progress (s : State) (r : BitVec 5) (v : Word) : (s.setRs r v).hart.progress = s.hart.progress := by unfold State.setRs; split <;> rfl
@[simp] theorem setRs_hart_transfers (s : State) (r : BitVec 5) (v : Word) : (s.setRs r v).hart.transfers = s.hart.transfers := by unfold State.setRs; split <;> rfl
@[simp] theorem setRs_hart_mq (s : State) (r : BitVec 5) (v : Word) : (s.setRs r v).hart.mq = s.hart.mq := by unfold State.setRs; split <;> rfl
@[simp] theorem setRs_hart_mqSeq (s : State) (r : BitVec 5) (v : Word) : (s.setRs r v).hart.mqSeq = s.hart.mqSeq := by unfold State.setRs; split <;> rfl
@[simp] theorem setRs_hart_remote (s : State) (r : BitVec 5) (v : Word) : (s.setRs r v).hart.remote = s.hart.remote := by unfold State.setRs; split <;> rfl
@[simp] theorem setRs_hart_covered (s : State) (r : BitVec 5) (v : Word) : (s.setRs r v).hart.covered = s.hart.covered := by unfold State.setRs; split <;> rfl
@[simp] theorem setRs_hart_psend (s : State) (r : BitVec 5) (v : Word) : (s.setRs r v).hart.psend = s.hart.psend := by unfold State.setRs; split <;> rfl
@[simp] theorem setRs_hart_engine (s : State) (r : BitVec 5) (v : Word) : (s.setRs r v).hart.engine = s.hart.engine := by unfold State.setRs; split <;> rfl
@[simp] theorem setRs_hart_xlateFault (s : State) (r : BitVec 5) (v : Word) : (s.setRs r v).hart.xlateFault = s.hart.xlateFault := by unfold State.setRs; split <;> rfl
@[simp] theorem setRs_hart_held (s : State) (r : BitVec 5) (v : Word) : (s.setRs r v).hart.held = s.hart.held := by unfold State.setRs; split <;> rfl
@[simp] theorem setRs_hart_expired (s : State) (r : BitVec 5) (v : Word) : (s.setRs r v).hart.expired = s.hart.expired := by unfold State.setRs; split <;> rfl
@[simp] theorem setRs_hart_stopped (s : State) (r : BitVec 5) (v : Word) : (s.setRs r v).hart.stopped = s.hart.stopped := by unfold State.setRs; split <;> rfl

/-! ### Bytes written -/

@[simp] theorem putBytes_hart (s : State) (k n v : Nat) : (putBytes s k n v).hart = s.hart := rfl
@[simp] theorem putBytes_parked (s : State) (k n v : Nat) : (putBytes s k n v).parked = s.parked := rfl
@[simp] theorem putBytes_gangs (s : State) (k n v : Nat) : (putBytes s k n v).gangs = s.gangs := rfl
@[simp] theorem putBytes_nextGid (s : State) (k n v : Nat) : (putBytes s k n v).nextGid = s.nextGid := rfl
@[simp] theorem putBytes_nextPost (s : State) (k n v : Nat) : (putBytes s k n v).nextPost = s.nextPost := rfl
@[simp] theorem putBytes_memPoison (s : State) (k n v : Nat) : (putBytes s k n v).memPoison = s.memPoison := rfl
@[simp] theorem putBytes_l1d (s : State) (k n v : Nat) : (putBytes s k n v).l1d = s.l1d := rfl
@[simp] theorem putBytes_icache (s : State) (k n v : Nat) : (putBytes s k n v).icache = s.icache := rfl
@[simp] theorem putBytes_stc (s : State) (k n v : Nat) : (putBytes s k n v).stc = s.stc := rfl
@[simp] theorem putBytes_rlb (s : State) (k n v : Nat) : (putBytes s k n v).rlb = s.rlb := rfl
@[simp] theorem putBytes_resident (s : State) (k n v : Nat) : (putBytes s k n v).resident = s.resident := rfl
@[simp] theorem putBytes_isles (s : State) (k n v : Nat) : (putBytes s k n v).isles = s.isles := rfl
@[simp] theorem putBytes_ctl (s : State) (k n v : Nat) : (putBytes s k n v).ctl = s.ctl := rfl
@[simp] theorem putBytes_regions (s : State) (k n v : Nat) : (putBytes s k n v).regions = s.regions := rfl
@[simp] theorem putBytes_sparesTaken (s : State) (k n v : Nat) : (putBytes s k n v).sparesTaken = s.sparesTaken := rfl
@[simp] theorem putBytes_sparesFreed (s : State) (k n v : Nat) : (putBytes s k n v).sparesFreed = s.sparesFreed := rfl
@[simp] theorem putBytes_hashVersions (s : State) (k n v : Nat) : (putBytes s k n v).hashVersions = s.hashVersions := rfl
@[simp] theorem putBytes_migrations (s : State) (k n v : Nat) : (putBytes s k n v).migrations = s.migrations := rfl
@[simp] theorem putBytes_relayouts (s : State) (k n v : Nat) : (putBytes s k n v).relayouts = s.relayouts := rfl
@[simp] theorem putBytes_atoll (s : State) (k n v : Nat) : (putBytes s k n v).atoll = s.atoll := rfl
@[simp] theorem putBytes_atollNext (s : State) (k n v : Nat) : (putBytes s k n v).atollNext = s.atollNext := rfl
@[simp] theorem putBytes_bays (s : State) (k n v : Nat) : (putBytes s k n v).bays = s.bays := rfl
@[simp] theorem putBytes_sent (s : State) (k n v : Nat) : (putBytes s k n v).sent = s.sent := rfl
@[simp] theorem putBytes_nextTag (s : State) (k n v : Nat) : (putBytes s k n v).nextTag = s.nextTag := rfl
@[simp] theorem putBytes_requests (s : State) (k n v : Nat) : (putBytes s k n v).requests = s.requests := rfl
@[simp] theorem putBytes_atomicWaits (s : State) (k n v : Nat) : (putBytes s k n v).atomicWaits = s.atomicWaits := rfl
@[simp] theorem putBytes_serviceMeasure (s : State) (k n v : Nat) : (putBytes s k n v).serviceMeasure = s.serviceMeasure := rfl
@[simp] theorem putBytes_supervisorMeasure (s : State) (k n v : Nat) : (putBytes s k n v).supervisorMeasure = s.supervisorMeasure := rfl
@[simp] theorem putBytes_rasEvents (s : State) (k n v : Nat) : (putBytes s k n v).rasEvents = s.rasEvents := rfl
@[simp] theorem putBytes_repairs (s : State) (k n v : Nat) : (putBytes s k n v).repairs = s.repairs := rfl
@[simp] theorem putBytes_retiredCores (s : State) (k n v : Nat) : (putBytes s k n v).retiredCores = s.retiredCores := rfl
@[simp] theorem putBytes_lanesUsed (s : State) (k n v : Nat) : (putBytes s k n v).lanesUsed = s.lanesUsed := rfl
@[simp] theorem putBytes_slotCaps (s : State) (k n v : Nat) : (putBytes s k n v).slotCaps = s.slotCaps := rfl
@[simp] theorem putBytes_sparesUsed (s : State) (k n v : Nat) : (putBytes s k n v).sparesUsed = s.sparesUsed := rfl
@[simp] theorem putBytes_hottest (s : State) (k n v : Nat) : (putBytes s k n v).hottest = s.hottest := rfl
@[simp] theorem putBytes_thermalHot (s : State) (k n v : Nat) : (putBytes s k n v).thermalHot = s.thermalHot := rfl
@[simp] theorem putBytes_watts (s : State) (k n v : Nat) : (putBytes s k n v).watts = s.watts := rfl
@[simp] theorem putBytes_measuredAt (s : State) (k n v : Nat) : (putBytes s k n v).measuredAt = s.measuredAt := rfl
@[simp] theorem putBytes_lowPowerMs (s : State) (k n v : Nat) : (putBytes s k n v).lowPowerMs = s.lowPowerMs := rfl
@[simp] theorem putBytes_highPowerMs (s : State) (k n v : Nat) : (putBytes s k n v).highPowerMs = s.highPowerMs := rfl
@[simp] theorem putBytes_clk (s : State) (k n v : Nat) : (putBytes s k n v).clk = s.clk := rfl
@[simp] theorem putBytes_agenda (s : State) (k n v : Nat) : (putBytes s k n v).agenda = s.agenda := rfl
@[simp] theorem putBytes_stopAt (s : State) (k n v : Nat) : (putBytes s k n v).stopAt = s.stopAt := rfl
@[simp] theorem putBytes_freeCtr (s : State) (k n v : Nat) : (putBytes s k n v).freeCtr = s.freeCtr := rfl

/-! ### Poison of memory -/

@[simp] theorem poisonKey_hart (s : State) (k : Nat) : (poisonKey s k).hart = s.hart := rfl
@[simp] theorem poisonKey_parked (s : State) (k : Nat) : (poisonKey s k).parked = s.parked := rfl
@[simp] theorem poisonKey_gangs (s : State) (k : Nat) : (poisonKey s k).gangs = s.gangs := rfl
@[simp] theorem poisonKey_nextGid (s : State) (k : Nat) : (poisonKey s k).nextGid = s.nextGid := rfl
@[simp] theorem poisonKey_nextPost (s : State) (k : Nat) : (poisonKey s k).nextPost = s.nextPost := rfl
@[simp] theorem poisonKey_mem (s : State) (k : Nat) : (poisonKey s k).mem = s.mem := rfl
@[simp] theorem poisonKey_l1d (s : State) (k : Nat) : (poisonKey s k).l1d = s.l1d := rfl
@[simp] theorem poisonKey_icache (s : State) (k : Nat) : (poisonKey s k).icache = s.icache := rfl
@[simp] theorem poisonKey_stc (s : State) (k : Nat) : (poisonKey s k).stc = s.stc := rfl
@[simp] theorem poisonKey_rlb (s : State) (k : Nat) : (poisonKey s k).rlb = s.rlb := rfl
@[simp] theorem poisonKey_resident (s : State) (k : Nat) : (poisonKey s k).resident = s.resident := rfl
@[simp] theorem poisonKey_isles (s : State) (k : Nat) : (poisonKey s k).isles = s.isles := rfl
@[simp] theorem poisonKey_ctl (s : State) (k : Nat) : (poisonKey s k).ctl = s.ctl := rfl
@[simp] theorem poisonKey_regions (s : State) (k : Nat) : (poisonKey s k).regions = s.regions := rfl
@[simp] theorem poisonKey_sparesTaken (s : State) (k : Nat) : (poisonKey s k).sparesTaken = s.sparesTaken := rfl
@[simp] theorem poisonKey_sparesFreed (s : State) (k : Nat) : (poisonKey s k).sparesFreed = s.sparesFreed := rfl
@[simp] theorem poisonKey_hashVersions (s : State) (k : Nat) : (poisonKey s k).hashVersions = s.hashVersions := rfl
@[simp] theorem poisonKey_migrations (s : State) (k : Nat) : (poisonKey s k).migrations = s.migrations := rfl
@[simp] theorem poisonKey_relayouts (s : State) (k : Nat) : (poisonKey s k).relayouts = s.relayouts := rfl
@[simp] theorem poisonKey_atoll (s : State) (k : Nat) : (poisonKey s k).atoll = s.atoll := rfl
@[simp] theorem poisonKey_atollNext (s : State) (k : Nat) : (poisonKey s k).atollNext = s.atollNext := rfl
@[simp] theorem poisonKey_bays (s : State) (k : Nat) : (poisonKey s k).bays = s.bays := rfl
@[simp] theorem poisonKey_sent (s : State) (k : Nat) : (poisonKey s k).sent = s.sent := rfl
@[simp] theorem poisonKey_nextTag (s : State) (k : Nat) : (poisonKey s k).nextTag = s.nextTag := rfl
@[simp] theorem poisonKey_requests (s : State) (k : Nat) : (poisonKey s k).requests = s.requests := rfl
@[simp] theorem poisonKey_atomicWaits (s : State) (k : Nat) : (poisonKey s k).atomicWaits = s.atomicWaits := rfl
@[simp] theorem poisonKey_serviceMeasure (s : State) (k : Nat) : (poisonKey s k).serviceMeasure = s.serviceMeasure := rfl
@[simp] theorem poisonKey_supervisorMeasure (s : State) (k : Nat) : (poisonKey s k).supervisorMeasure = s.supervisorMeasure := rfl
@[simp] theorem poisonKey_rasEvents (s : State) (k : Nat) : (poisonKey s k).rasEvents = s.rasEvents := rfl
@[simp] theorem poisonKey_repairs (s : State) (k : Nat) : (poisonKey s k).repairs = s.repairs := rfl
@[simp] theorem poisonKey_retiredCores (s : State) (k : Nat) : (poisonKey s k).retiredCores = s.retiredCores := rfl
@[simp] theorem poisonKey_lanesUsed (s : State) (k : Nat) : (poisonKey s k).lanesUsed = s.lanesUsed := rfl
@[simp] theorem poisonKey_slotCaps (s : State) (k : Nat) : (poisonKey s k).slotCaps = s.slotCaps := rfl
@[simp] theorem poisonKey_sparesUsed (s : State) (k : Nat) : (poisonKey s k).sparesUsed = s.sparesUsed := rfl
@[simp] theorem poisonKey_hottest (s : State) (k : Nat) : (poisonKey s k).hottest = s.hottest := rfl
@[simp] theorem poisonKey_thermalHot (s : State) (k : Nat) : (poisonKey s k).thermalHot = s.thermalHot := rfl
@[simp] theorem poisonKey_watts (s : State) (k : Nat) : (poisonKey s k).watts = s.watts := rfl
@[simp] theorem poisonKey_measuredAt (s : State) (k : Nat) : (poisonKey s k).measuredAt = s.measuredAt := rfl
@[simp] theorem poisonKey_lowPowerMs (s : State) (k : Nat) : (poisonKey s k).lowPowerMs = s.lowPowerMs := rfl
@[simp] theorem poisonKey_highPowerMs (s : State) (k : Nat) : (poisonKey s k).highPowerMs = s.highPowerMs := rfl
@[simp] theorem poisonKey_clk (s : State) (k : Nat) : (poisonKey s k).clk = s.clk := rfl
@[simp] theorem poisonKey_agenda (s : State) (k : Nat) : (poisonKey s k).agenda = s.agenda := rfl
@[simp] theorem poisonKey_stopAt (s : State) (k : Nat) : (poisonKey s k).stopAt = s.stopAt := rfl
@[simp] theorem poisonKey_freeCtr (s : State) (k : Nat) : (poisonKey s k).freeCtr = s.freeCtr := rfl

/-! ### Poison of memory cleared -/

@[simp] theorem clearCovered_hart (s : State) (l : List (Nat × Nat)) : (clearCovered s l).hart = s.hart := rfl
@[simp] theorem clearCovered_parked (s : State) (l : List (Nat × Nat)) : (clearCovered s l).parked = s.parked := rfl
@[simp] theorem clearCovered_gangs (s : State) (l : List (Nat × Nat)) : (clearCovered s l).gangs = s.gangs := rfl
@[simp] theorem clearCovered_nextGid (s : State) (l : List (Nat × Nat)) : (clearCovered s l).nextGid = s.nextGid := rfl
@[simp] theorem clearCovered_nextPost (s : State) (l : List (Nat × Nat)) : (clearCovered s l).nextPost = s.nextPost := rfl
@[simp] theorem clearCovered_mem (s : State) (l : List (Nat × Nat)) : (clearCovered s l).mem = s.mem := rfl
@[simp] theorem clearCovered_l1d (s : State) (l : List (Nat × Nat)) : (clearCovered s l).l1d = s.l1d := rfl
@[simp] theorem clearCovered_icache (s : State) (l : List (Nat × Nat)) : (clearCovered s l).icache = s.icache := rfl
@[simp] theorem clearCovered_stc (s : State) (l : List (Nat × Nat)) : (clearCovered s l).stc = s.stc := rfl
@[simp] theorem clearCovered_rlb (s : State) (l : List (Nat × Nat)) : (clearCovered s l).rlb = s.rlb := rfl
@[simp] theorem clearCovered_resident (s : State) (l : List (Nat × Nat)) : (clearCovered s l).resident = s.resident := rfl
@[simp] theorem clearCovered_isles (s : State) (l : List (Nat × Nat)) : (clearCovered s l).isles = s.isles := rfl
@[simp] theorem clearCovered_ctl (s : State) (l : List (Nat × Nat)) : (clearCovered s l).ctl = s.ctl := rfl
@[simp] theorem clearCovered_regions (s : State) (l : List (Nat × Nat)) : (clearCovered s l).regions = s.regions := rfl
@[simp] theorem clearCovered_sparesTaken (s : State) (l : List (Nat × Nat)) : (clearCovered s l).sparesTaken = s.sparesTaken := rfl
@[simp] theorem clearCovered_sparesFreed (s : State) (l : List (Nat × Nat)) : (clearCovered s l).sparesFreed = s.sparesFreed := rfl
@[simp] theorem clearCovered_hashVersions (s : State) (l : List (Nat × Nat)) : (clearCovered s l).hashVersions = s.hashVersions := rfl
@[simp] theorem clearCovered_migrations (s : State) (l : List (Nat × Nat)) : (clearCovered s l).migrations = s.migrations := rfl
@[simp] theorem clearCovered_relayouts (s : State) (l : List (Nat × Nat)) : (clearCovered s l).relayouts = s.relayouts := rfl
@[simp] theorem clearCovered_atoll (s : State) (l : List (Nat × Nat)) : (clearCovered s l).atoll = s.atoll := rfl
@[simp] theorem clearCovered_atollNext (s : State) (l : List (Nat × Nat)) : (clearCovered s l).atollNext = s.atollNext := rfl
@[simp] theorem clearCovered_bays (s : State) (l : List (Nat × Nat)) : (clearCovered s l).bays = s.bays := rfl
@[simp] theorem clearCovered_sent (s : State) (l : List (Nat × Nat)) : (clearCovered s l).sent = s.sent := rfl
@[simp] theorem clearCovered_nextTag (s : State) (l : List (Nat × Nat)) : (clearCovered s l).nextTag = s.nextTag := rfl
@[simp] theorem clearCovered_requests (s : State) (l : List (Nat × Nat)) : (clearCovered s l).requests = s.requests := rfl
@[simp] theorem clearCovered_atomicWaits (s : State) (l : List (Nat × Nat)) : (clearCovered s l).atomicWaits = s.atomicWaits := rfl
@[simp] theorem clearCovered_serviceMeasure (s : State) (l : List (Nat × Nat)) : (clearCovered s l).serviceMeasure = s.serviceMeasure := rfl
@[simp] theorem clearCovered_supervisorMeasure (s : State) (l : List (Nat × Nat)) : (clearCovered s l).supervisorMeasure = s.supervisorMeasure := rfl
@[simp] theorem clearCovered_rasEvents (s : State) (l : List (Nat × Nat)) : (clearCovered s l).rasEvents = s.rasEvents := rfl
@[simp] theorem clearCovered_repairs (s : State) (l : List (Nat × Nat)) : (clearCovered s l).repairs = s.repairs := rfl
@[simp] theorem clearCovered_retiredCores (s : State) (l : List (Nat × Nat)) : (clearCovered s l).retiredCores = s.retiredCores := rfl
@[simp] theorem clearCovered_lanesUsed (s : State) (l : List (Nat × Nat)) : (clearCovered s l).lanesUsed = s.lanesUsed := rfl
@[simp] theorem clearCovered_slotCaps (s : State) (l : List (Nat × Nat)) : (clearCovered s l).slotCaps = s.slotCaps := rfl
@[simp] theorem clearCovered_sparesUsed (s : State) (l : List (Nat × Nat)) : (clearCovered s l).sparesUsed = s.sparesUsed := rfl
@[simp] theorem clearCovered_hottest (s : State) (l : List (Nat × Nat)) : (clearCovered s l).hottest = s.hottest := rfl
@[simp] theorem clearCovered_thermalHot (s : State) (l : List (Nat × Nat)) : (clearCovered s l).thermalHot = s.thermalHot := rfl
@[simp] theorem clearCovered_watts (s : State) (l : List (Nat × Nat)) : (clearCovered s l).watts = s.watts := rfl
@[simp] theorem clearCovered_measuredAt (s : State) (l : List (Nat × Nat)) : (clearCovered s l).measuredAt = s.measuredAt := rfl
@[simp] theorem clearCovered_lowPowerMs (s : State) (l : List (Nat × Nat)) : (clearCovered s l).lowPowerMs = s.lowPowerMs := rfl
@[simp] theorem clearCovered_highPowerMs (s : State) (l : List (Nat × Nat)) : (clearCovered s l).highPowerMs = s.highPowerMs := rfl
@[simp] theorem clearCovered_clk (s : State) (l : List (Nat × Nat)) : (clearCovered s l).clk = s.clk := rfl
@[simp] theorem clearCovered_agenda (s : State) (l : List (Nat × Nat)) : (clearCovered s l).agenda = s.agenda := rfl
@[simp] theorem clearCovered_stopAt (s : State) (l : List (Nat × Nat)) : (clearCovered s l).stopAt = s.stopAt := rfl
@[simp] theorem clearCovered_freeCtr (s : State) (l : List (Nat × Nat)) : (clearCovered s l).freeCtr = s.freeCtr := rfl

/-! ### Bytes stored -/

@[simp] theorem storeBytes_hart (s : State) (k n v : Nat) : (storeBytes s k n v).hart = s.hart := rfl
@[simp] theorem storeBytes_parked (s : State) (k n v : Nat) : (storeBytes s k n v).parked = s.parked := rfl
@[simp] theorem storeBytes_gangs (s : State) (k n v : Nat) : (storeBytes s k n v).gangs = s.gangs := rfl
@[simp] theorem storeBytes_nextGid (s : State) (k n v : Nat) : (storeBytes s k n v).nextGid = s.nextGid := rfl
@[simp] theorem storeBytes_nextPost (s : State) (k n v : Nat) : (storeBytes s k n v).nextPost = s.nextPost := rfl
@[simp] theorem storeBytes_l1d (s : State) (k n v : Nat) : (storeBytes s k n v).l1d = s.l1d := rfl
@[simp] theorem storeBytes_icache (s : State) (k n v : Nat) : (storeBytes s k n v).icache = s.icache := rfl
@[simp] theorem storeBytes_stc (s : State) (k n v : Nat) : (storeBytes s k n v).stc = s.stc := rfl
@[simp] theorem storeBytes_rlb (s : State) (k n v : Nat) : (storeBytes s k n v).rlb = s.rlb := rfl
@[simp] theorem storeBytes_resident (s : State) (k n v : Nat) : (storeBytes s k n v).resident = s.resident := rfl
@[simp] theorem storeBytes_isles (s : State) (k n v : Nat) : (storeBytes s k n v).isles = s.isles := rfl
@[simp] theorem storeBytes_ctl (s : State) (k n v : Nat) : (storeBytes s k n v).ctl = s.ctl := rfl
@[simp] theorem storeBytes_regions (s : State) (k n v : Nat) : (storeBytes s k n v).regions = s.regions := rfl
@[simp] theorem storeBytes_sparesTaken (s : State) (k n v : Nat) : (storeBytes s k n v).sparesTaken = s.sparesTaken := rfl
@[simp] theorem storeBytes_sparesFreed (s : State) (k n v : Nat) : (storeBytes s k n v).sparesFreed = s.sparesFreed := rfl
@[simp] theorem storeBytes_hashVersions (s : State) (k n v : Nat) : (storeBytes s k n v).hashVersions = s.hashVersions := rfl
@[simp] theorem storeBytes_migrations (s : State) (k n v : Nat) : (storeBytes s k n v).migrations = s.migrations := rfl
@[simp] theorem storeBytes_relayouts (s : State) (k n v : Nat) : (storeBytes s k n v).relayouts = s.relayouts := rfl
@[simp] theorem storeBytes_atoll (s : State) (k n v : Nat) : (storeBytes s k n v).atoll = s.atoll := rfl
@[simp] theorem storeBytes_atollNext (s : State) (k n v : Nat) : (storeBytes s k n v).atollNext = s.atollNext := rfl
@[simp] theorem storeBytes_bays (s : State) (k n v : Nat) : (storeBytes s k n v).bays = s.bays := rfl
@[simp] theorem storeBytes_sent (s : State) (k n v : Nat) : (storeBytes s k n v).sent = s.sent := rfl
@[simp] theorem storeBytes_nextTag (s : State) (k n v : Nat) : (storeBytes s k n v).nextTag = s.nextTag := rfl
@[simp] theorem storeBytes_requests (s : State) (k n v : Nat) : (storeBytes s k n v).requests = s.requests := rfl
@[simp] theorem storeBytes_atomicWaits (s : State) (k n v : Nat) : (storeBytes s k n v).atomicWaits = s.atomicWaits := rfl
@[simp] theorem storeBytes_serviceMeasure (s : State) (k n v : Nat) : (storeBytes s k n v).serviceMeasure = s.serviceMeasure := rfl
@[simp] theorem storeBytes_supervisorMeasure (s : State) (k n v : Nat) : (storeBytes s k n v).supervisorMeasure = s.supervisorMeasure := rfl
@[simp] theorem storeBytes_rasEvents (s : State) (k n v : Nat) : (storeBytes s k n v).rasEvents = s.rasEvents := rfl
@[simp] theorem storeBytes_repairs (s : State) (k n v : Nat) : (storeBytes s k n v).repairs = s.repairs := rfl
@[simp] theorem storeBytes_retiredCores (s : State) (k n v : Nat) : (storeBytes s k n v).retiredCores = s.retiredCores := rfl
@[simp] theorem storeBytes_lanesUsed (s : State) (k n v : Nat) : (storeBytes s k n v).lanesUsed = s.lanesUsed := rfl
@[simp] theorem storeBytes_slotCaps (s : State) (k n v : Nat) : (storeBytes s k n v).slotCaps = s.slotCaps := rfl
@[simp] theorem storeBytes_sparesUsed (s : State) (k n v : Nat) : (storeBytes s k n v).sparesUsed = s.sparesUsed := rfl
@[simp] theorem storeBytes_hottest (s : State) (k n v : Nat) : (storeBytes s k n v).hottest = s.hottest := rfl
@[simp] theorem storeBytes_thermalHot (s : State) (k n v : Nat) : (storeBytes s k n v).thermalHot = s.thermalHot := rfl
@[simp] theorem storeBytes_watts (s : State) (k n v : Nat) : (storeBytes s k n v).watts = s.watts := rfl
@[simp] theorem storeBytes_measuredAt (s : State) (k n v : Nat) : (storeBytes s k n v).measuredAt = s.measuredAt := rfl
@[simp] theorem storeBytes_lowPowerMs (s : State) (k n v : Nat) : (storeBytes s k n v).lowPowerMs = s.lowPowerMs := rfl
@[simp] theorem storeBytes_highPowerMs (s : State) (k n v : Nat) : (storeBytes s k n v).highPowerMs = s.highPowerMs := rfl
@[simp] theorem storeBytes_clk (s : State) (k n v : Nat) : (storeBytes s k n v).clk = s.clk := rfl
@[simp] theorem storeBytes_agenda (s : State) (k n v : Nat) : (storeBytes s k n v).agenda = s.agenda := rfl
@[simp] theorem storeBytes_stopAt (s : State) (k n v : Nat) : (storeBytes s k n v).stopAt = s.stopAt := rfl
@[simp] theorem storeBytes_freeCtr (s : State) (k n v : Nat) : (storeBytes s k n v).freeCtr = s.freeCtr := rfl

end Sys2Proof.Machine
end

