-- ==== Sys2Proof/Laws/Memory.lean ====
section
/-!
SUPPORT. The laws of the memory list: every operation keeps its canonical form, and a byte reads as it was last written.
-/
namespace Sys2Proof.Machine

/-! ### The canonical form -/

/-- Every address listed is above `x`. -/
def aboveAll (x : Nat) (m : List Host.Cell) : Prop := ∀ c ∈ m, x < c.1

theorem memWf_cons (x : Nat) (b : Byte) (m : List Host.Cell) :
    memWf ((x, b) :: m) = true ↔ b ≠ unlisted ∧ aboveAll x m ∧ memWf m = true := by
  induction m generalizing x b with
  | nil => simp [memWf, aboveAll]
  | cons c r ih =>
    obtain ⟨y, d⟩ := c
    simp only [memWf, Bool.and_eq_true, decide_eq_true_eq, bne_iff_ne, aboveAll, List.mem_cons, forall_eq_or_imp]
    rw [ih y d]
    constructor
    · rintro ⟨⟨h1, h2⟩, h3, h4, h5⟩
      exact ⟨h1, ⟨h2, fun c hc => Nat.lt_trans h2 (h4 c hc)⟩, h3, h4, h5⟩
    · rintro ⟨h1, ⟨h2, _⟩, h3, h4, h5⟩
      exact ⟨⟨h1, h2⟩, h3, h4, h5⟩

theorem memRead_above (m : List Host.Cell) (x : Nat) (h : aboveAll x m) : memRead m x = unlisted := by
  cases m with
  | nil => rfl
  | cons c r =>
    have := h c (List.mem_cons_self ..)
    have h1 : c.1 ≠ x := by omega
    simp [memRead, h1, this]

theorem memWrite_above (m : List Host.Cell) (x a : Nat) (v : Byte) (h : aboveAll x m) (ha : x < a) :
    aboveAll x (memWrite m a v) := by
  induction m with
  | nil =>
    simp only [memWrite]
    split <;> simp [aboveAll, ha]
  | cons c r ih =>
    obtain ⟨y, b⟩ := c
    have hy : x < y := h (y, b) (List.mem_cons_self ..)
    have hr : aboveAll x r := fun c hc => h c (List.mem_cons_of_mem _ hc)
    simp only [memWrite]
    repeat' split
    all_goals (intro c hc; try simp only [List.mem_cons] at hc)
    · rcases hc with rfl | hc
      · exact hy
      · exact hr c hc
    · rcases hc with rfl | rfl | hc
      · exact ha
      · exact hy
      · exact hr c hc
    · exact hr c hc
    · rcases hc with rfl | hc
      · exact ha
      · exact hr c hc
    · rcases hc with rfl | hc
      · exact hy
      · exact ih hr c hc

/-- A write keeps the canonical form. -/
theorem memWrite_wf (m : List Host.Cell) (a : Nat) (v : Byte) (h : memWf m = true) : memWf (memWrite m a v) = true := by
  induction m with
  | nil =>
    simp only [memWrite]
    split <;> simp_all [memWf]
  | cons c r ih =>
    obtain ⟨y, b⟩ := c
    obtain ⟨hb, ha, hr⟩ := (memWf_cons y b r).1 h
    simp only [memWrite]
    split
    · rename_i hay
      split
      · exact h
      · rename_i hv
        refine (memWf_cons _ _ _).2 ⟨hv, ?_, h⟩
        intro c hc
        simp only [List.mem_cons] at hc
        rcases hc with rfl | hc
        · exact hay
        · exact Nat.lt_trans hay (ha c hc)
    · split
      · rename_i hay
        subst hay
        split
        · exact hr
        · rename_i hv
          exact (memWf_cons _ _ _).2 ⟨hv, ha, hr⟩
      · rename_i h1 h2
        exact (memWf_cons _ _ _).2 ⟨hb, memWrite_above r y a v ha (by omega), ih hr⟩

/-- A byte reads as it was last written, and a write leaves every other byte. -/
theorem memRead_memWrite (m : List Host.Cell) (a b : Nat) (v : Byte) (h : memWf m = true) :
    memRead (memWrite m a v) b = if b = a then v else memRead m b := by
  induction m with
  | nil =>
    simp only [memWrite]
    split
    · rename_i hv
      subst hv
      simp [memRead]
    · simp only [memRead]
      by_cases hb : b = a
      · simp [hb]
      · have : a ≠ b := fun e => hb e.symm
        simp [this, hb]
  | cons c r ih =>
    obtain ⟨y, w⟩ := c
    obtain ⟨hw, ha, hr⟩ := (memWf_cons y w r).1 h
    simp only [memWrite]
    split
    · rename_i hay
      split
      · rename_i hv
        subst hv
        by_cases hb : b = a
        · subst hb
          have h1 : y ≠ b := by omega
          simp [memRead, h1, hay]
        · simp [hb]
      · by_cases hb : b = a
        · subst hb
          simp [memRead]
        · have h1 : a ≠ b := fun e => hb e.symm
          simp only [memRead, h1, if_false, hb]
          by_cases h2 : b < a
          · have h3 : y ≠ b := by omega
            have h4 : b < y := by omega
            simp [h2, h3, h4]
          · simp [h2]
    · split
      · rename_i hay
        subst hay
        split
        · rename_i hv
          subst hv
          by_cases hb : b = a
          · subst hb
            simp [memRead_above r b ha]
          · have h1 : a ≠ b := fun e => hb e.symm
            simp only [memRead, h1, if_false, hb]
            by_cases h2 : b < a
            · simp only [h2, if_true]
              exact memRead_above r b (fun c hc => Nat.lt_trans h2 (ha c hc))
            · simp [h2]
        · by_cases hb : b = a
          · subst hb
            simp [memRead]
          · have h1 : a ≠ b := fun e => hb e.symm
            simp [memRead, h1, hb]
      · rename_i h1 h2
        simp only [memRead, ih hr]
        by_cases hb : b = a
        · subst hb
          have h3 : y ≠ b := by omega
          have h4 : ¬ b < y := h1
          simp [h3, h4]
        · simp [hb]

/-! ### Words and ranges -/

theorem writeLE_wf (n : Nat) (m : List Host.Cell) (a v : Nat) (h : memWf m = true) : memWf (writeLE m a n v) = true := by
  induction n generalizing m a v with
  | zero => exact h
  | succ n ih => exact ih _ _ _ (memWrite_wf _ _ _ h)

/-- Bytes outside the range written keep their values. -/
theorem memRead_writeLE_outside (n : Nat) (m : List Host.Cell) (a v b : Nat) (h : memWf m = true)
    (hb : b < a ∨ a + n ≤ b) : memRead (writeLE m a n v) b = memRead m b := by
  induction n generalizing m a v with
  | zero => rfl
  | succ n ih =>
    simp only [writeLE]
    rw [ih _ _ _ (memWrite_wf _ _ _ h) (by omega), memRead_memWrite _ _ _ _ h]
    have : b ≠ a := by omega
    simp [this]

/-- R10: byte i of the range written is byte i of the value. -/
theorem memRead_writeLE (n : Nat) (m : List Host.Cell) (a v i : Nat) (h : memWf m = true) (hi : i < n) :
    memRead (writeLE m a n v) (a + i) = BitVec.ofNat 8 (v / 256 ^ i) := by
  induction n generalizing m a v i with
  | zero => omega
  | succ n ih =>
    simp only [writeLE]
    cases i with
    | zero =>
      rw [memRead_writeLE_outside _ _ _ _ _ (memWrite_wf _ _ _ h) (by omega), memRead_memWrite _ _ _ _ h]
      simp
    | succ i =>
      rw [show a + (i + 1) = a + 1 + i by omega, ih _ _ _ _ (memWrite_wf _ _ _ h) (by omega), Nat.div_div_eq_div_mul,
        Nat.pow_succ, Nat.mul_comm]

theorem readLE_lt (m : List Host.Cell) (a n : Nat) : readLE m a n < 256 ^ n := by
  induction n generalizing a with
  | zero => simp [readLE]
  | succ n ih =>
    have h1 := (memRead m a).isLt
    have h2 := ih (a + 1)
    simp only [readLE, Nat.pow_succ]
    omega

/-- Equal bytes are an equal number. -/
theorem readLE_congr (n : Nat) (m m' : List Host.Cell) (a a' : Nat)
    (h : ∀ i, i < n → memRead m (a + i) = memRead m' (a' + i)) : readLE m a n = readLE m' a' n := by
  induction n generalizing a a' with
  | zero => rfl
  | succ n ih =>
    have h0 := h 0 (by omega)
    simp only [Nat.add_zero] at h0
    simp only [readLE, h0]
    rw [ih (a + 1) (a' + 1) fun i hi => by
      have := h (i + 1) (by omega)
      rwa [show a + (i + 1) = a + 1 + i by omega, show a' + (i + 1) = a' + 1 + i by omega] at this]

/-- What was written is read. -/
theorem readLE_writeLE (n : Nat) (m : List Host.Cell) (a v : Nat) (h : memWf m = true) :
    readLE (writeLE m a n v) a n = v % 256 ^ n := by
  induction n generalizing m a v with
  | zero => simp [readLE, Nat.mod_one]
  | succ n ih =>
    simp only [readLE, writeLE]
    rw [memRead_writeLE_outside _ _ _ _ _ (memWrite_wf _ _ _ h) (by omega), memRead_memWrite _ _ _ _ h,
      ih _ _ _ (memWrite_wf _ _ _ h)]
    simp only [if_true, BitVec.toNat_ofNat]
    have : v % 256 ^ (n + 1) = v % 256 + 256 * (v / 256 % 256 ^ n) := by
      rw [Nat.pow_succ, Nat.mul_comm, Nat.mod_mul]
    omega

theorem filter_above (p : Host.Cell → Bool) (x : Nat) (m : List Host.Cell) (h : aboveAll x m) : aboveAll x (m.filter p) :=
  fun c hc => h c (List.mem_filter.1 hc).1

theorem filter_wf (p : Host.Cell → Bool) (m : List Host.Cell) (h : memWf m = true) : memWf (m.filter p) = true := by
  induction m with
  | nil => rfl
  | cons c r ih =>
    obtain ⟨x, b⟩ := c
    obtain ⟨hb, ha, hr⟩ := (memWf_cons x b r).1 h
    simp only [List.filter_cons]
    split
    · exact (memWf_cons _ _ _).2 ⟨hb, filter_above p x r ha, ih hr⟩
    · exact ih hr

theorem memClear_wf (m : List Host.Cell) (a n : Nat) (h : memWf m = true) : memWf (memClear m a n) = true := filter_wf _ m h

theorem writeMasked_wf (n : Nat) (m : List Host.Cell) (a v k : Nat) (h : memWf m = true) :
    memWf (writeMasked m a n v k) = true := by
  induction n generalizing m a v k with
  | zero => exact h
  | succ n ih =>
    refine ih _ _ _ _ ?_
    split
    · exact memWrite_wf _ _ _ h
    · exact h

/-! ### The operations of the state -/

theorem putBytes_ok (s : State) (k n v : Nat) (h : s.memoryOk) : (putBytes s k n v).memoryOk := writeLE_wf _ _ _ _ h
theorem storeBytes_ok (s : State) (k n v : Nat) (h : s.memoryOk) : (storeBytes s k n v).memoryOk := writeLE_wf _ _ _ _ h
theorem putSoftware_ok (n : Nat) (s : State) (k v : Nat) (h : s.memoryOk) : (putSoftware s k n v).memoryOk := by
  induction n generalizing s k v with
  | zero => exact h
  | succ n ih => exact ih _ _ _ (memWrite_wf _ _ _ h)
theorem putAgent_ok (s : State) (k n v : Nat) (h : s.memoryOk) : (putAgent s k n v).memoryOk := by
  unfold putAgent
  split
  · exact putSoftware_ok _ _ _ _ h
  · exact putBytes_ok _ _ _ _ h
theorem storeAgent_ok (s : State) (k n v : Nat) (h : s.memoryOk) : (storeAgent s k n v).memoryOk := putAgent_ok s k n v h
theorem writeBackLine_ok (s : State) (l : L1dLine) (h : s.memoryOk) : (writeBackLine s l).memoryOk := by
  have hw : memWf (writeMasked s.mem (64 * l.line) 64 l.data.toNat l.dirty.toNat) = true := writeMasked_wf _ _ _ _ _ h
  unfold writeBackLine
  simp only []
  repeat' split
  all_goals exact hw

/-- The reset state's memory is canonical. -/
theorem reset_memoryOk : State.reset.memoryOk := rfl

end Sys2Proof.Machine
end

