-- ==== Sys2Proof/Laws/Ops.lean ====
section
/-!
SUPPORT. What the shared operations can do, said once: scalar registers, poison at the sources, how a scalar and a vector
instruction complete, and trap entry.
-/
namespace Sys2Proof.Machine

/-! ### Scalar registers -/

theorem reg_toNat_ne {a b : BitVec 5} (h : a ≠ b) : a.toNat ≠ b.toNat := fun e => h (BitVec.eq_of_toNat_eq e)

/-- R28: the register written reads as written; s0 reads zero. -/
theorem rs_setRs_same (s : State) (d : BitVec 5) (v : Word) : (s.setRs d v).rs d = if d = 0 then 0 else v := by
  unfold State.rs Hart.rs State.setRs
  split
  · rfl
  · simp

theorem rs_setRs_other (s : State) {d r : BitVec 5} (v : Word) (h : r ≠ d) : (s.setRs d v).rs r = s.rs r := by
  unfold State.rs Hart.rs State.setRs
  split
  · rfl
  · split
    · rfl
    · have := (reg_toNat_ne h).symm
      simp [this]

/-- R267: the write clears the register's poison. -/
theorem poison_setRs_same (s : State) (d : BitVec 5) (v : Word) (h : d ≠ 0) :
    (s.setRs d v).hart.sPoison.getLsbD d.toNat = false := by
  have hd : d.toNat < 32 := d.isLt
  unfold State.setRs
  rw [if_neg h]
  simp [hd]

theorem poison_setRs_other (s : State) {d r : BitVec 5} (v : Word) (h : r ≠ d) :
    (s.setRs d v).hart.sPoison.getLsbD r.toNat = s.hart.sPoison.getLsbD r.toNat := by
  unfold State.setRs
  split
  · rfl
  · have hr : r.toNat < 32 := r.isLt
    have hne := reg_toNat_ne h
    simp [hr]
    intro _
    by_cases hh : r.toNat < d.toNat
    · simp [hh]
    · simp [hh]
      omega

/-- A write of a scalar register changes that register and its poison, and nothing else. -/
theorem setRs_hart (s : State) (d : BitVec 5) (v : Word) :
    s.setRs d v = { s with hart := { s.hart with
      s := (s.setRs d v).hart.s, sPoison := (s.setRs d v).hart.sPoison } } := by
  unfold State.setRs
  split <;> rfl

/-- R328: no clean source traps. -/
theorem poisonedScalar_none {s : State} {rs : List (BitVec 5)} (h : s.unpoisoned rs) : poisonedScalar s rs = none := by
  simp only [poisonedScalar, Option.map_eq_none_iff, List.find?_eq_none]
  intro r hr
  by_cases h0 : r = 0
  · simp [h0]
  · simp [h r hr h0]

/-! ### Control registers -/

/-- A control register but RETIRED depends on the control registers but RETIRED, and on CYCLE. -/
theorem readCsr_congr (s t : State) (n : BitVec 10) (hn : n ≠ 0x021) (hc : t.clk = s.clk)
    (h : { t.hart.csr with retired := 0 } = { s.hart.csr with retired := 0 }) : readCsr t n = readCsr s n := by
  have h21 : n.toNat ≠ 0x21 := fun e => hn (BitVec.eq_of_toNat_eq e)
  simp only [Csrs.mk.injEq] at h
  simp only [readCsr]
  split <;> first | rfl | omega | simp [h, hc]

/-! ### Completion -/

/-- A scalar instruction that reads clean registers is its effect. -/
theorem scalarRun_clean {s : State} {rs : List (BitVec 5)} (f : State → Res Word) (h : s.unpoisoned rs) :
    scalarRun s rs f = finish (f s) := by
  simp [scalarRun, poisonedScalar_none h]

theorem retireTo_hart (s : State) (pc : Word) : retireTo s pc = { s with hart := { s.hart with
    pc := pc, csr := { s.hart.csr with retired := s.hart.csr.retired + 1 }, wdcount := 0, progress := none,
    convoy := .closed } } := rfl

/-- An instruction that only writes a scalar register: what it does, and what it leaves. -/
theorem writes_of (i : Instr) (rs : List (BitVec 5)) (d : BitVec 5) (v : State → Word)
    (h : ∀ s, exec i s = scalarWrite s rs d v) : Writes i rs d v := by
  intro s hs
  refine ⟨retireTo (s.setRs d (v s)) (s.hart.pc + 4), ?_, ?_, ?_, ?_⟩
  · rw [h, scalarWrite, scalarRun_clean _ hs, finish]
  · refine ⟨rfl, ?_⟩
    simp [retireTo_hart]
  · exact ⟨rs_setRs_same s d (v s), fun h0 => poison_setRs_same s d _ h0⟩
  · have e := setRs_hart s d (v s)
    constructor
    · intro r hr
      have hr : r ≠ d := by simpa using hr
      exact ⟨rs_setRs_other s _ hr, poison_setRs_other s _ hr⟩
    all_goals (rw [retireTo_hart, e])
    all_goals try (intros; rfl)
    · intro n hn _
      exact readCsr_congr _ _ n hn rfl rfl
    · exact ⟨fun _ => ⟨rfl, rfl⟩, rfl, rfl, rfl⟩
    · exact ⟨rfl, rfl, rfl, rfl, rfl, rfl, fun _ => rfl⟩
    · exact ⟨fun _ => ⟨rfl, rfl, rfl, rfl⟩, fun _ _ _ => rfl, fun _ => rfl⟩

/-! ### Traps -/

/-- R116: trap entry outside a trap handler. -/
theorem trapEntry_first (s : State) (t : Trap) (a : Word) (h : s.hart.tact = false) :
    trapEntry s t a = { s with hart := { s.hart with
      csr := { s.hart.csr with
        tcause := BitVec.ofNat 64 t.cause.code, tval := t.tval, tpc := a &&& ~~~3,
        priv := privWord (max s.hart.cur 1) s.hart.cur true }
      pc := s.hart.csr.tvec, st := .trapped, convoy := .none, mq := [], engine := false, progress := none } } := by
  simp [trapEntry, h, setHart]

/-! ### Acquires -/

/-- R291: an acquire covers the writes that are outstanding, and does nothing else. -/
theorem coverWrites_hart (s : State) : coverWrites s = { s with hart := { s.hart with covered := unacknowledged s } } := rfl

/-- R296: a write that is not acknowledged and that the hart under the cursor has acquired after holds its releases back. -/
theorem remoteWritesPending_of_covered {s : State} {r : Request} (hr : r ∈ s.requests) (hs : r.stores = true)
    (hc : r.tag ∈ s.hart.covered) : remoteWritesPending s s.hart.name.1 s.hart.name.2 = true := by
  have hf : findHart s s.hart.name.1 s.hart.name.2 = some s.hart := by simp [findHart, State.harts]
  simp only [remoteWritesPending, hf, Option.any_some, Bool.or_eq_true]
  exact .inr (List.any_eq_true.mpr ⟨r, hr, by simp [hs, hc]⟩)

/-! ### Vector instructions -/

/-- R320: where no turn names an element, the effect of a vector instruction is its effect. -/
theorem wholeTurn_whole {α : Type} (u : VUse) (run : α → State → VRes) (a : α) {s : State} (h : s.stopAt = none) :
    wholeTurn u run a s = run a s := by
  unfold wholeTurn
  split <;> simp_all

/-- R321: an instruction that stands before its first element, or between two instructions, retypes nothing. -/
theorem retypes_none (u : VUse) (s : State) {t : State} (h : t.hart.progress = none) : retypes u s t = false := by
  simp [retypes, h]

/-- R86: an instruction whose checks pass and whose effect completes is a member of the convoy, and has retired. -/
theorem vectorRun_ok {α : Type} {u : VUse} {check : State → Except Trap α} {run : α → State → VRes} {s s' : State}
    {cv : Convoy} {a : α} (h1 : issueChecks s u = .ok cv) (h2 : check s = .ok a)
    (h3 : s.unpoisoned (u.sr.map (BitVec.ofNat 5))) (h4 : run a s = .ok s') :
    vectorRun u check run s = .next (vectorDone (resultKnown (engineAt s' false) u) cv) := by
  simp [vectorRun, wholeTurn, h1, h2, poisonedScalar_none h3, h4]

end Sys2Proof.Machine
end

