-- ==== Sys2Proof/Laws/PerInstr.lean ====
section
/-!
SUPPORT. What holds of every instruction as syntax, one lemma per constructor. Family RoundTrip: decoding the words `encode` gives
for a well-formed instruction gives the instruction back (R78, R79, R82-R84).
-/
namespace Sys2Proof.Laws

/-- Decoding the encoded words of a well-formed instruction gives it back. -/
def RoundTrip.Statement (i : Instr) : Prop :=
  i.wellFormed = true → i.encoded = true → decode ((encode i).getD 0 0) ((encode i).getD 1 0) = .ok i

/-! ### Fields of a word -/

/-- R79: the seven fields are the word. -/
theorem split_join (f : Fields) : splitWord (joinWord f) = f := by
  obtain ⟨c, f6, k, b, a, d, op⟩ := f
  simp only [splitWord, joinWord, Fields.mk.injEq]
  refine ⟨?_, ?_, ?_, ?_, ?_, ?_, ?_⟩ <;>
    (ext i hi; simp only [BitVec.getElem_extractLsb', BitVec.getLsbD_append]
     repeat' split
     all_goals first | omega | (rw [← BitVec.getLsbD_eq_getElem]; congr 1; omega))

/-- An instruction decodes from its fields where the major opcode's table gives it. -/
theorem decode_of_fields (i : Instr) (f : Fields) (w1 : BitVec 32) (hw : i.wellFormed = true)
    (ho : opcodeAssigned f.op = true) (h : decodeFields f w1 = some i) : decode (joinWord f) w1 = .ok i := by
  simp [decode, split_join, ho, h, hw]

/-! ### Operands that span fields -/

/-- R79: a 15-bit immediate. -/
theorem join_imm15 (x : BitVec 15) : x.extractLsb' 14 1 ++ x.extractLsb' 8 6 ++ x.extractLsb' 5 3 ++ x.extractLsb' 0 5 = x := by
  ext i hi
  simp only [BitVec.getElem_append, BitVec.getElem_extractLsb']
  repeat' split
  all_goals (rw [← BitVec.getLsbD_eq_getElem]; congr 1; omega)

/-- R79: a 20-bit immediate. -/
theorem join_imm20 (x : BitVec 20) : x.extractLsb' 19 1 ++ x.extractLsb' 13 6 ++ x.extractLsb' 10 3 ++ x.extractLsb' 5 5 ++ x.extractLsb' 0 5 = x := by
  ext i hi
  simp only [BitVec.getElem_append, BitVec.getElem_extractLsb']
  repeat' split
  all_goals (rw [← BitVec.getLsbD_eq_getElem]; congr 1; omega)

/-- R79: a 12-bit offset. -/
theorem join_off12 (x : BitVec 12) : x.extractLsb' 11 1 ++ x.extractLsb' 5 6 ++ x.extractLsb' 2 3 ++ x.extractLsb' 0 2 = x := by
  ext i hi
  simp only [BitVec.getElem_append, BitVec.getElem_extractLsb']
  repeat' split
  all_goals (rw [← BitVec.getLsbD_eq_getElem]; congr 1; omega)

/-- R79: a control register number. -/
theorem join_csr10 (x : BitVec 10) : x.extractLsb' 9 1 ++ x.extractLsb' 3 6 ++ x.extractLsb' 0 3 = x := by
  ext i hi
  simp only [BitVec.getElem_append, BitVec.getElem_extractLsb']
  repeat' split
  all_goals (rw [← BitVec.getLsbD_eq_getElem]; congr 1; omega)

/-- R79: a scope code. -/
theorem join_scope (x : BitVec 4) : x.extractLsb' 3 1 ++ x.extractLsb' 0 3 = x := by
  ext i hi
  simp only [BitVec.getElem_append, BitVec.getElem_extractLsb']
  repeat' split
  all_goals (rw [← BitVec.getLsbD_eq_getElem]; congr 1; omega)

/-- R79: a shift count. -/
theorem join_shift6 (x : BitVec 6) : x.extractLsb' 5 1 ++ x.extractLsb' 0 5 = x := by
  ext i hi
  simp only [BitVec.getElem_append, BitVec.getElem_extractLsb']
  repeat' split
  all_goals (rw [← BitVec.getLsbD_eq_getElem]; congr 1; omega)

/-! ### Operands that share a field -/

theorem at_b_b_4_0_4 : ∀ (x : Bool) (y : Bool) (z : BitVec 4), (BitVec.ofBool x ++ BitVec.ofBool y ++ z : BitVec 6).extractLsb' 0 4 = z := by decide
theorem at_b_b_4_bit4 : ∀ (x : Bool) (y : Bool) (z : BitVec 4), (BitVec.ofBool x ++ BitVec.ofBool y ++ z : BitVec 6)[4] = y := by decide
theorem at_b_b_4_bit5 : ∀ (x : Bool) (y : Bool) (z : BitVec 4), (BitVec.ofBool x ++ BitVec.ofBool y ++ z : BitVec 6)[5] = x := by decide
theorem at_b_5_0_5 : ∀ (x : Bool) (y : BitVec 5), (BitVec.ofBool x ++ y : BitVec 6).extractLsb' 0 5 = y := by decide
theorem at_b_5_bit5 : ∀ (x : Bool) (y : BitVec 5), (BitVec.ofBool x ++ y : BitVec 6)[5] = x := by decide
theorem at_1_b_3_0_3 : ∀ (x : BitVec 1) (y : Bool) (z : BitVec 3), (x ++ BitVec.ofBool y ++ z : BitVec 5).extractLsb' 0 3 = z := by decide
theorem at_1_b_3_3_2 : ∀ (x : BitVec 1) (y : Bool) (z : BitVec 3), (x ++ BitVec.ofBool y ++ z : BitVec 5).extractLsb' 3 2 = x ++ BitVec.ofBool y := by decide
theorem at_1_b_3_4_1 : ∀ (x : BitVec 1) (y : Bool) (z : BitVec 3), (x ++ BitVec.ofBool y ++ z : BitVec 5).extractLsb' 4 1 = x := by decide
theorem at_1_b_3_bit3 : ∀ (x : BitVec 1) (y : Bool) (z : BitVec 3), (x ++ BitVec.ofBool y ++ z : BitVec 5)[3] = y := by decide
theorem at_1_4_0_4 : ∀ (x : BitVec 1) (y : BitVec 4), (x ++ y : BitVec 5).extractLsb' 0 4 = y := by decide
theorem at_1_4_4_1 : ∀ (x : BitVec 1) (y : BitVec 4), (x ++ y : BitVec 5).extractLsb' 4 1 = x := by decide
theorem at_1_5_0_5 : ∀ (x : BitVec 1) (y : BitVec 5), (x ++ y : BitVec 6).extractLsb' 0 5 = y := by decide
theorem at_1_5_5_1 : ∀ (x : BitVec 1) (y : BitVec 5), (x ++ y : BitVec 6).extractLsb' 5 1 = x := by decide
theorem at_2_1_0_1 : ∀ (x : BitVec 2) (y : BitVec 1), (x ++ y : BitVec 3).extractLsb' 0 1 = y := by decide
theorem at_2_1_1_2 : ∀ (x : BitVec 2) (y : BitVec 1), (x ++ y : BitVec 3).extractLsb' 1 2 = x := by decide
theorem at_2_3_0_3 : ∀ (x : BitVec 2) (y : BitVec 3), (x ++ y : BitVec 5).extractLsb' 0 3 = y := by decide
theorem at_2_3_3_2 : ∀ (x : BitVec 2) (y : BitVec 3), (x ++ y : BitVec 5).extractLsb' 3 2 = x := by decide
theorem at_2_4_0_4 : ∀ (x : BitVec 2) (y : BitVec 4), (x ++ y : BitVec 6).extractLsb' 0 4 = y := by decide
theorem at_2_4_4_2 : ∀ (x : BitVec 2) (y : BitVec 4), (x ++ y : BitVec 6).extractLsb' 4 2 = x := by decide
theorem at_3_b_b_b_3_3 : ∀ (x : BitVec 3) (y : Bool) (z : Bool) (w : Bool), (x ++ BitVec.ofBool y ++ BitVec.ofBool z ++ BitVec.ofBool w : BitVec 6).extractLsb' 3 3 = x := by decide
theorem at_3_b_b_b_bit0 : ∀ (x : BitVec 3) (y : Bool) (z : Bool) (w : Bool), (x ++ BitVec.ofBool y ++ BitVec.ofBool z ++ BitVec.ofBool w : BitVec 6)[0] = w := by decide
theorem at_3_b_b_b_bit1 : ∀ (x : BitVec 3) (y : Bool) (z : Bool) (w : Bool), (x ++ BitVec.ofBool y ++ BitVec.ofBool z ++ BitVec.ofBool w : BitVec 6)[1] = z := by decide
theorem at_3_b_b_b_bit2 : ∀ (x : BitVec 3) (y : Bool) (z : Bool) (w : Bool), (x ++ BitVec.ofBool y ++ BitVec.ofBool z ++ BitVec.ofBool w : BitVec 6)[2] = y := by decide
theorem at_3_2_b_1_2 : ∀ (x : BitVec 3) (y : BitVec 2) (z : Bool), (x ++ y ++ BitVec.ofBool z : BitVec 6).extractLsb' 1 2 = y := by decide
theorem at_3_2_b_3_3 : ∀ (x : BitVec 3) (y : BitVec 2) (z : Bool), (x ++ y ++ BitVec.ofBool z : BitVec 6).extractLsb' 3 3 = x := by decide
theorem at_3_2_b_bit0 : ∀ (x : BitVec 3) (y : BitVec 2) (z : Bool), (x ++ y ++ BitVec.ofBool z : BitVec 6)[0] = z := by decide
theorem at_3_2_1_0_1 : ∀ (x : BitVec 3) (y : BitVec 2) (z : BitVec 1), (x ++ y ++ z : BitVec 6).extractLsb' 0 1 = z := by decide
theorem at_3_2_1_1_2 : ∀ (x : BitVec 3) (y : BitVec 2) (z : BitVec 1), (x ++ y ++ z : BitVec 6).extractLsb' 1 2 = y := by decide
theorem at_3_2_1_3_3 : ∀ (x : BitVec 3) (y : BitVec 2) (z : BitVec 1), (x ++ y ++ z : BitVec 6).extractLsb' 3 3 = x := by decide
theorem at_3_3_0_3 : ∀ (x : BitVec 3) (y : BitVec 3), (x ++ y : BitVec 6).extractLsb' 0 3 = y := by decide
theorem at_3_3_3_3 : ∀ (x : BitVec 3) (y : BitVec 3), (x ++ y : BitVec 6).extractLsb' 3 3 = x := by decide
theorem at_4_b_b_2_4 : ∀ (x : BitVec 4) (y : Bool) (z : Bool), (x ++ BitVec.ofBool y ++ BitVec.ofBool z : BitVec 6).extractLsb' 2 4 = x := by decide
theorem at_4_b_b_bit0 : ∀ (x : BitVec 4) (y : Bool) (z : Bool), (x ++ BitVec.ofBool y ++ BitVec.ofBool z : BitVec 6)[0] = z := by decide
theorem at_4_b_b_bit1 : ∀ (x : BitVec 4) (y : Bool) (z : Bool), (x ++ BitVec.ofBool y ++ BitVec.ofBool z : BitVec 6)[1] = y := by decide
theorem at_4_b_1_0_1 : ∀ (x : BitVec 4) (y : Bool) (z : BitVec 1), (x ++ BitVec.ofBool y ++ z : BitVec 6).extractLsb' 0 1 = z := by decide
theorem at_4_b_1_2_4 : ∀ (x : BitVec 4) (y : Bool) (z : BitVec 1), (x ++ BitVec.ofBool y ++ z : BitVec 6).extractLsb' 2 4 = x := by decide
theorem at_4_b_1_bit1 : ∀ (x : BitVec 4) (y : Bool) (z : BitVec 1), (x ++ BitVec.ofBool y ++ z : BitVec 6)[1] = y := by decide
theorem at_5_b_1_5 : ∀ (x : BitVec 5) (y : Bool), (x ++ BitVec.ofBool y : BitVec 6).extractLsb' 1 5 = x := by decide
theorem at_5_b_bit0 : ∀ (x : BitVec 5) (y : Bool), (x ++ BitVec.ofBool y : BitVec 6)[0] = y := by decide
theorem at_5_1_0_1 : ∀ (x : BitVec 5) (y : BitVec 1), (x ++ y : BitVec 6).extractLsb' 0 1 = y := by decide
theorem at_5_1_1_5 : ∀ (x : BitVec 5) (y : BitVec 1), (x ++ y : BitVec 6).extractLsb' 1 5 = x := by decide

/-! ### One lemma per major opcode -/

theorem decode_op01 (i : Instr) (c : BitVec 1) (f6 : BitVec 6) (k : BitVec 3) (b a d : BitVec 5) (w1 : BitVec 32)
    (hw : i.wellFormed = true) (h : decodeOp01 ⟨c, f6, k, b, a, d, 0x01#7⟩ = some i) :
    decode (joinWord ⟨c, f6, k, b, a, d, 0x01#7⟩) w1 = .ok i := decode_of_fields _ _ _ hw rfl h
theorem decode_op02 (i : Instr) (c : BitVec 1) (f6 : BitVec 6) (k : BitVec 3) (b a d : BitVec 5) (w1 : BitVec 32)
    (hw : i.wellFormed = true) (h : decodeOp02 ⟨c, f6, k, b, a, d, 0x02#7⟩ = some i) :
    decode (joinWord ⟨c, f6, k, b, a, d, 0x02#7⟩) w1 = .ok i := decode_of_fields _ _ _ hw rfl h
theorem decode_op03 (i : Instr) (c : BitVec 1) (f6 : BitVec 6) (k : BitVec 3) (b a d : BitVec 5) (w1 : BitVec 32)
    (hw : i.wellFormed = true) (h : decodeOp03 ⟨c, f6, k, b, a, d, 0x03#7⟩ = some i) :
    decode (joinWord ⟨c, f6, k, b, a, d, 0x03#7⟩) w1 = .ok i := decode_of_fields _ _ _ hw rfl h
theorem decode_op04 (i : Instr) (c : BitVec 1) (f6 : BitVec 6) (k : BitVec 3) (b a d : BitVec 5) (w1 : BitVec 32)
    (hw : i.wellFormed = true) (h : decodeOp04 ⟨c, f6, k, b, a, d, 0x04#7⟩ = some i) :
    decode (joinWord ⟨c, f6, k, b, a, d, 0x04#7⟩) w1 = .ok i := decode_of_fields _ _ _ hw rfl h
theorem decode_op05 (i : Instr) (c : BitVec 1) (f6 : BitVec 6) (k : BitVec 3) (b a d : BitVec 5) (w1 : BitVec 32)
    (hw : i.wellFormed = true) (h : decodeOp05 ⟨c, f6, k, b, a, d, 0x05#7⟩ = some i) :
    decode (joinWord ⟨c, f6, k, b, a, d, 0x05#7⟩) w1 = .ok i := decode_of_fields _ _ _ hw rfl h
theorem decode_op06 (i : Instr) (c : BitVec 1) (f6 : BitVec 6) (k : BitVec 3) (b a d : BitVec 5) (w1 : BitVec 32)
    (hw : i.wellFormed = true) (h : decodeOp06 ⟨c, f6, k, b, a, d, 0x06#7⟩ = some i) :
    decode (joinWord ⟨c, f6, k, b, a, d, 0x06#7⟩) w1 = .ok i := decode_of_fields _ _ _ hw rfl h
theorem decode_op07 (i : Instr) (c : BitVec 1) (f6 : BitVec 6) (k : BitVec 3) (b a d : BitVec 5) (w1 : BitVec 32)
    (hw : i.wellFormed = true) (h : decodeOp07 ⟨c, f6, k, b, a, d, 0x07#7⟩ = some i) :
    decode (joinWord ⟨c, f6, k, b, a, d, 0x07#7⟩) w1 = .ok i := decode_of_fields _ _ _ hw rfl h
theorem decode_op08 (i : Instr) (c : BitVec 1) (f6 : BitVec 6) (k : BitVec 3) (b a d : BitVec 5) (w1 : BitVec 32)
    (hw : i.wellFormed = true) (h : decodeOp08 ⟨c, f6, k, b, a, d, 0x08#7⟩ = some i) :
    decode (joinWord ⟨c, f6, k, b, a, d, 0x08#7⟩) w1 = .ok i := decode_of_fields _ _ _ hw rfl h
theorem decode_op09 (i : Instr) (c : BitVec 1) (f6 : BitVec 6) (k : BitVec 3) (b a d : BitVec 5) (w1 : BitVec 32)
    (hw : i.wellFormed = true) (h : decodeOp09 ⟨c, f6, k, b, a, d, 0x09#7⟩ = some i) :
    decode (joinWord ⟨c, f6, k, b, a, d, 0x09#7⟩) w1 = .ok i := decode_of_fields _ _ _ hw rfl h
theorem decode_op0A (i : Instr) (c : BitVec 1) (f6 : BitVec 6) (k : BitVec 3) (b a d : BitVec 5) (w1 : BitVec 32)
    (hw : i.wellFormed = true) (h : decodeOp0A ⟨c, f6, k, b, a, d, 0x0A#7⟩ = some i) :
    decode (joinWord ⟨c, f6, k, b, a, d, 0x0A#7⟩) w1 = .ok i := decode_of_fields _ _ _ hw rfl h
theorem decode_op0B (i : Instr) (c : BitVec 1) (f6 : BitVec 6) (k : BitVec 3) (b a d : BitVec 5) (w1 : BitVec 32)
    (hw : i.wellFormed = true) (h : decodeOp0B ⟨c, f6, k, b, a, d, 0x0B#7⟩ = some i) :
    decode (joinWord ⟨c, f6, k, b, a, d, 0x0B#7⟩) w1 = .ok i := decode_of_fields _ _ _ hw rfl h
theorem decode_op0C (i : Instr) (c : BitVec 1) (f6 : BitVec 6) (k : BitVec 3) (b a d : BitVec 5) (w1 : BitVec 32)
    (hw : i.wellFormed = true) (h : decodeOp0C ⟨c, f6, k, b, a, d, 0x0C#7⟩ = some i) :
    decode (joinWord ⟨c, f6, k, b, a, d, 0x0C#7⟩) w1 = .ok i := decode_of_fields _ _ _ hw rfl h
theorem decode_op0D (i : Instr) (c : BitVec 1) (f6 : BitVec 6) (k : BitVec 3) (b a d : BitVec 5) (w1 : BitVec 32)
    (hw : i.wellFormed = true) (h : decodeOp0D ⟨c, f6, k, b, a, d, 0x0D#7⟩ = some i) :
    decode (joinWord ⟨c, f6, k, b, a, d, 0x0D#7⟩) w1 = .ok i := decode_of_fields _ _ _ hw rfl h
theorem decode_op0E (i : Instr) (c : BitVec 1) (f6 : BitVec 6) (k : BitVec 3) (b a d : BitVec 5) (w1 : BitVec 32)
    (hw : i.wellFormed = true) (h : decodeOp0E ⟨c, f6, k, b, a, d, 0x0E#7⟩ = some i) :
    decode (joinWord ⟨c, f6, k, b, a, d, 0x0E#7⟩) w1 = .ok i := decode_of_fields _ _ _ hw rfl h
theorem decode_op0F (i : Instr) (c : BitVec 1) (f6 : BitVec 6) (k : BitVec 3) (b a d : BitVec 5) (w1 : BitVec 32)
    (hw : i.wellFormed = true) (h : decodeOp0F ⟨c, f6, k, b, a, d, 0x0F#7⟩ = some i) :
    decode (joinWord ⟨c, f6, k, b, a, d, 0x0F#7⟩) w1 = .ok i := decode_of_fields _ _ _ hw rfl h
theorem decode_op10 (i : Instr) (c : BitVec 1) (f6 : BitVec 6) (k : BitVec 3) (b a d : BitVec 5) (w1 : BitVec 32)
    (hw : i.wellFormed = true) (h : decodeOp10 ⟨c, f6, k, b, a, d, 0x10#7⟩ = some i) :
    decode (joinWord ⟨c, f6, k, b, a, d, 0x10#7⟩) w1 = .ok i := decode_of_fields _ _ _ hw rfl h
theorem decode_op11 (i : Instr) (c : BitVec 1) (f6 : BitVec 6) (k : BitVec 3) (b a d : BitVec 5) (w1 : BitVec 32)
    (hw : i.wellFormed = true) (h : decodeOp11 ⟨c, f6, k, b, a, d, 0x11#7⟩ = some i) :
    decode (joinWord ⟨c, f6, k, b, a, d, 0x11#7⟩) w1 = .ok i := decode_of_fields _ _ _ hw rfl h
theorem decode_op12 (i : Instr) (c : BitVec 1) (f6 : BitVec 6) (k : BitVec 3) (b a d : BitVec 5) (w1 : BitVec 32)
    (hw : i.wellFormed = true) (h : decodeOp12 ⟨c, f6, k, b, a, d, 0x12#7⟩ = some i) :
    decode (joinWord ⟨c, f6, k, b, a, d, 0x12#7⟩) w1 = .ok i := decode_of_fields _ _ _ hw rfl h
theorem decode_op13 (i : Instr) (c : BitVec 1) (f6 : BitVec 6) (k : BitVec 3) (b a d : BitVec 5) (w1 : BitVec 32)
    (hw : i.wellFormed = true) (h : decodeOp13 ⟨c, f6, k, b, a, d, 0x13#7⟩ = some i) :
    decode (joinWord ⟨c, f6, k, b, a, d, 0x13#7⟩) w1 = .ok i := decode_of_fields _ _ _ hw rfl h
theorem decode_op14 (i : Instr) (c : BitVec 1) (f6 : BitVec 6) (k : BitVec 3) (b a d : BitVec 5) (w1 : BitVec 32)
    (hw : i.wellFormed = true) (h : decodeOp14 ⟨c, f6, k, b, a, d, 0x14#7⟩ = some i) :
    decode (joinWord ⟨c, f6, k, b, a, d, 0x14#7⟩) w1 = .ok i := decode_of_fields _ _ _ hw rfl h
theorem decode_op15 (i : Instr) (c : BitVec 1) (f6 : BitVec 6) (k : BitVec 3) (b a d : BitVec 5) (w1 : BitVec 32)
    (hw : i.wellFormed = true) (h : decodeOp15 ⟨c, f6, k, b, a, d, 0x15#7⟩ = some i) :
    decode (joinWord ⟨c, f6, k, b, a, d, 0x15#7⟩) w1 = .ok i := decode_of_fields _ _ _ hw rfl h
theorem decode_op16 (i : Instr) (c : BitVec 1) (f6 : BitVec 6) (k : BitVec 3) (b a d : BitVec 5) (w1 : BitVec 32)
    (hw : i.wellFormed = true) (h : decodeOp16 ⟨c, f6, k, b, a, d, 0x16#7⟩ = some i) :
    decode (joinWord ⟨c, f6, k, b, a, d, 0x16#7⟩) w1 = .ok i := decode_of_fields _ _ _ hw rfl h
theorem decode_op17 (i : Instr) (c : BitVec 1) (f6 : BitVec 6) (k : BitVec 3) (b a d : BitVec 5) (w1 : BitVec 32)
    (hw : i.wellFormed = true) (h : decodeOp17 ⟨c, f6, k, b, a, d, 0x17#7⟩ = some i) :
    decode (joinWord ⟨c, f6, k, b, a, d, 0x17#7⟩) w1 = .ok i := decode_of_fields _ _ _ hw rfl h
theorem decode_op18 (i : Instr) (c : BitVec 1) (f6 : BitVec 6) (k : BitVec 3) (b a d : BitVec 5) (w1 : BitVec 32)
    (hw : i.wellFormed = true) (h : decodeOp18 ⟨c, f6, k, b, a, d, 0x18#7⟩ = some i) :
    decode (joinWord ⟨c, f6, k, b, a, d, 0x18#7⟩) w1 = .ok i := decode_of_fields _ _ _ hw rfl h
theorem decode_op19 (i : Instr) (c : BitVec 1) (f6 : BitVec 6) (k : BitVec 3) (b a d : BitVec 5) (w1 : BitVec 32)
    (hw : i.wellFormed = true) (h : decodeOp19 ⟨c, f6, k, b, a, d, 0x19#7⟩ = some i) :
    decode (joinWord ⟨c, f6, k, b, a, d, 0x19#7⟩) w1 = .ok i := decode_of_fields _ _ _ hw rfl h
theorem decode_op1A (i : Instr) (c : BitVec 1) (f6 : BitVec 6) (k : BitVec 3) (b a d : BitVec 5) (w1 : BitVec 32)
    (hw : i.wellFormed = true) (h : decodeOp1A ⟨c, f6, k, b, a, d, 0x1A#7⟩ = some i) :
    decode (joinWord ⟨c, f6, k, b, a, d, 0x1A#7⟩) w1 = .ok i := decode_of_fields _ _ _ hw rfl h
theorem decode_op1B (i : Instr) (c : BitVec 1) (f6 : BitVec 6) (k : BitVec 3) (b a d : BitVec 5) (w1 : BitVec 32)
    (hw : i.wellFormed = true) (h : decodeOp1B ⟨c, f6, k, b, a, d, 0x1B#7⟩ = some i) :
    decode (joinWord ⟨c, f6, k, b, a, d, 0x1B#7⟩) w1 = .ok i := decode_of_fields _ _ _ hw rfl h
theorem decode_op1C (i : Instr) (c : BitVec 1) (f6 : BitVec 6) (k : BitVec 3) (b a d : BitVec 5) (w1 : BitVec 32)
    (hw : i.wellFormed = true) (h : decodeOp1C ⟨c, f6, k, b, a, d, 0x1C#7⟩ = some i) :
    decode (joinWord ⟨c, f6, k, b, a, d, 0x1C#7⟩) w1 = .ok i := decode_of_fields _ _ _ hw rfl h
theorem decode_op20 (i : Instr) (c : BitVec 1) (f6 : BitVec 6) (k : BitVec 3) (b a d : BitVec 5) (w1 : BitVec 32)
    (hw : i.wellFormed = true) (h : decodeOp20 ⟨c, f6, k, b, a, d, 0x20#7⟩ = some i) :
    decode (joinWord ⟨c, f6, k, b, a, d, 0x20#7⟩) w1 = .ok i := decode_of_fields _ _ _ hw rfl h
theorem decode_op21 (i : Instr) (c : BitVec 1) (f6 : BitVec 6) (k : BitVec 3) (b a d : BitVec 5) (w1 : BitVec 32)
    (hw : i.wellFormed = true) (h : decodeOp21 ⟨c, f6, k, b, a, d, 0x21#7⟩ = some i) :
    decode (joinWord ⟨c, f6, k, b, a, d, 0x21#7⟩) w1 = .ok i := decode_of_fields _ _ _ hw rfl h
theorem decode_op22 (i : Instr) (c : BitVec 1) (f6 : BitVec 6) (k : BitVec 3) (b a d : BitVec 5) (w1 : BitVec 32)
    (hw : i.wellFormed = true) (h : decodeOp22 ⟨c, f6, k, b, a, d, 0x22#7⟩ = some i) :
    decode (joinWord ⟨c, f6, k, b, a, d, 0x22#7⟩) w1 = .ok i := decode_of_fields _ _ _ hw rfl h
theorem decode_op23 (i : Instr) (c : BitVec 1) (f6 : BitVec 6) (k : BitVec 3) (b a d : BitVec 5) (w1 : BitVec 32)
    (hw : i.wellFormed = true) (h : decodeOp23 ⟨c, f6, k, b, a, d, 0x23#7⟩ = some i) :
    decode (joinWord ⟨c, f6, k, b, a, d, 0x23#7⟩) w1 = .ok i := decode_of_fields _ _ _ hw rfl h
theorem decode_op24 (i : Instr) (c : BitVec 1) (f6 : BitVec 6) (k : BitVec 3) (b a d : BitVec 5) (w1 : BitVec 32)
    (hw : i.wellFormed = true) (h : decodeOp24 ⟨c, f6, k, b, a, d, 0x24#7⟩ = some i) :
    decode (joinWord ⟨c, f6, k, b, a, d, 0x24#7⟩) w1 = .ok i := decode_of_fields _ _ _ hw rfl h
theorem decode_op25 (i : Instr) (c : BitVec 1) (f6 : BitVec 6) (k : BitVec 3) (b a d : BitVec 5) (w1 : BitVec 32)
    (hw : i.wellFormed = true) (h : decodeOp25 ⟨c, f6, k, b, a, d, 0x25#7⟩ = some i) :
    decode (joinWord ⟨c, f6, k, b, a, d, 0x25#7⟩) w1 = .ok i := decode_of_fields _ _ _ hw rfl h
theorem decode_op26 (i : Instr) (c : BitVec 1) (f6 : BitVec 6) (k : BitVec 3) (b a d : BitVec 5) (w1 : BitVec 32)
    (hw : i.wellFormed = true) (h : decodeOp26 ⟨c, f6, k, b, a, d, 0x26#7⟩ = some i) :
    decode (joinWord ⟨c, f6, k, b, a, d, 0x26#7⟩) w1 = .ok i := decode_of_fields _ _ _ hw rfl h
theorem decode_op27 (i : Instr) (c : BitVec 1) (f6 : BitVec 6) (k : BitVec 3) (b a d : BitVec 5) (w1 : BitVec 32)
    (hw : i.wellFormed = true) (h : decodeOp27 ⟨c, f6, k, b, a, d, 0x27#7⟩ = some i) :
    decode (joinWord ⟨c, f6, k, b, a, d, 0x27#7⟩) w1 = .ok i := decode_of_fields _ _ _ hw rfl h
theorem decode_op28 (i : Instr) (c : BitVec 1) (f6 : BitVec 6) (k : BitVec 3) (b a d : BitVec 5) (w1 : BitVec 32)
    (hw : i.wellFormed = true) (h : decodeOp28 ⟨c, f6, k, b, a, d, 0x28#7⟩ = some i) :
    decode (joinWord ⟨c, f6, k, b, a, d, 0x28#7⟩) w1 = .ok i := decode_of_fields _ _ _ hw rfl h
theorem decode_op29 (i : Instr) (c : BitVec 1) (f6 : BitVec 6) (k : BitVec 3) (b a d : BitVec 5) (w1 : BitVec 32)
    (hw : i.wellFormed = true) (h : decodeOp29 ⟨c, f6, k, b, a, d, 0x29#7⟩ = some i) :
    decode (joinWord ⟨c, f6, k, b, a, d, 0x29#7⟩) w1 = .ok i := decode_of_fields _ _ _ hw rfl h
theorem decode_op2A (i : Instr) (c : BitVec 1) (f6 : BitVec 6) (k : BitVec 3) (b a d : BitVec 5) (w1 : BitVec 32)
    (hw : i.wellFormed = true) (h : decodeOp2A ⟨c, f6, k, b, a, d, 0x2A#7⟩ = some i) :
    decode (joinWord ⟨c, f6, k, b, a, d, 0x2A#7⟩) w1 = .ok i := decode_of_fields _ _ _ hw rfl h
theorem decode_op2B (i : Instr) (c : BitVec 1) (f6 : BitVec 6) (k : BitVec 3) (b a d : BitVec 5) (w1 : BitVec 32)
    (hw : i.wellFormed = true) (h : decodeOp2B ⟨c, f6, k, b, a, d, 0x2B#7⟩ = some i) :
    decode (joinWord ⟨c, f6, k, b, a, d, 0x2B#7⟩) w1 = .ok i := decode_of_fields _ _ _ hw rfl h
theorem decode_op2C (i : Instr) (c : BitVec 1) (f6 : BitVec 6) (k : BitVec 3) (b a d : BitVec 5) (w1 : BitVec 32)
    (hw : i.wellFormed = true) (h : decodeOp2C ⟨c, f6, k, b, a, d, 0x2C#7⟩ = some i) :
    decode (joinWord ⟨c, f6, k, b, a, d, 0x2C#7⟩) w1 = .ok i := decode_of_fields _ _ _ hw rfl h
theorem decode_op40 (i : Instr) (c : BitVec 1) (f6 : BitVec 6) (k : BitVec 3) (b a d : BitVec 5) (w1 : BitVec 32)
    (hw : i.wellFormed = true) (h : decodeOp40 ⟨c, f6, k, b, a, d, 0x40#7⟩ = some i) :
    decode (joinWord ⟨c, f6, k, b, a, d, 0x40#7⟩) w1 = .ok i := decode_of_fields _ _ _ hw rfl h
theorem decode_op41 (i : Instr) (c : BitVec 1) (f6 : BitVec 6) (k : BitVec 3) (b a d : BitVec 5) (w1 : BitVec 32)
    (hw : i.wellFormed = true) (h : decodeOp41 ⟨c, f6, k, b, a, d, 0x41#7⟩ = some i) :
    decode (joinWord ⟨c, f6, k, b, a, d, 0x41#7⟩) w1 = .ok i := decode_of_fields _ _ _ hw rfl h
theorem decode_op42 (i : Instr) (c : BitVec 1) (f6 : BitVec 6) (k : BitVec 3) (b a d : BitVec 5) (w1 : BitVec 32)
    (hw : i.wellFormed = true) (h : decodeOp42 ⟨c, f6, k, b, a, d, 0x42#7⟩ = some i) :
    decode (joinWord ⟨c, f6, k, b, a, d, 0x42#7⟩) w1 = .ok i := decode_of_fields _ _ _ hw rfl h
theorem decode_op43 (i : Instr) (c : BitVec 1) (f6 : BitVec 6) (k : BitVec 3) (b a d : BitVec 5) (w1 : BitVec 32)
    (hw : i.wellFormed = true) (h : decodeOp43 ⟨c, f6, k, b, a, d, 0x43#7⟩ = some i) :
    decode (joinWord ⟨c, f6, k, b, a, d, 0x43#7⟩) w1 = .ok i := decode_of_fields _ _ _ hw rfl h
theorem decode_op44 (i : Instr) (c : BitVec 1) (f6 : BitVec 6) (k : BitVec 3) (b a d : BitVec 5) (w1 : BitVec 32)
    (hw : i.wellFormed = true) (h : decodeOp44 ⟨c, f6, k, b, a, d, 0x44#7⟩ = some i) :
    decode (joinWord ⟨c, f6, k, b, a, d, 0x44#7⟩) w1 = .ok i := decode_of_fields _ _ _ hw rfl h
theorem decode_op45 (i : Instr) (c : BitVec 1) (f6 : BitVec 6) (k : BitVec 3) (b a d : BitVec 5) (w1 : BitVec 32)
    (hw : i.wellFormed = true) (h : decodeOp45 ⟨c, f6, k, b, a, d, 0x45#7⟩ = some i) :
    decode (joinWord ⟨c, f6, k, b, a, d, 0x45#7⟩) w1 = .ok i := decode_of_fields _ _ _ hw rfl h
theorem decode_op46 (i : Instr) (c : BitVec 1) (f6 : BitVec 6) (k : BitVec 3) (b a d : BitVec 5) (w1 : BitVec 32)
    (hw : i.wellFormed = true) (h : decodeOp46 ⟨c, f6, k, b, a, d, 0x46#7⟩ = some i) :
    decode (joinWord ⟨c, f6, k, b, a, d, 0x46#7⟩) w1 = .ok i := decode_of_fields _ _ _ hw rfl h
theorem decode_op50 (i : Instr) (c : BitVec 1) (f6 : BitVec 6) (k : BitVec 3) (b a d : BitVec 5) (w1 : BitVec 32)
    (hw : i.wellFormed = true) (h : decodeOp50 ⟨c, f6, k, b, a, d, 0x50#7⟩ = some i) :
    decode (joinWord ⟨c, f6, k, b, a, d, 0x50#7⟩) w1 = .ok i := decode_of_fields _ _ _ hw rfl h
theorem decode_op51 (i : Instr) (c : BitVec 1) (f6 : BitVec 6) (k : BitVec 3) (b a d : BitVec 5) (w1 : BitVec 32)
    (hw : i.wellFormed = true) (h : decodeOp51 ⟨c, f6, k, b, a, d, 0x51#7⟩ = some i) :
    decode (joinWord ⟨c, f6, k, b, a, d, 0x51#7⟩) w1 = .ok i := decode_of_fields _ _ _ hw rfl h
theorem decode_op52 (i : Instr) (c : BitVec 1) (f6 : BitVec 6) (k : BitVec 3) (b a d : BitVec 5) (w1 : BitVec 32)
    (hw : i.wellFormed = true) (h : decodeOp52 ⟨c, f6, k, b, a, d, 0x52#7⟩ = some i) :
    decode (joinWord ⟨c, f6, k, b, a, d, 0x52#7⟩) w1 = .ok i := decode_of_fields _ _ _ hw rfl h
theorem decode_op53 (i : Instr) (c : BitVec 1) (f6 : BitVec 6) (k : BitVec 3) (b a d : BitVec 5) (w1 : BitVec 32)
    (hw : i.wellFormed = true) (h : decodeOp53 ⟨c, f6, k, b, a, d, 0x53#7⟩ = some i) :
    decode (joinWord ⟨c, f6, k, b, a, d, 0x53#7⟩) w1 = .ok i := decode_of_fields _ _ _ hw rfl h
theorem decode_op54 (i : Instr) (c : BitVec 1) (f6 : BitVec 6) (k : BitVec 3) (b a d : BitVec 5) (w1 : BitVec 32)
    (hw : i.wellFormed = true) (h : decodeOp54 ⟨c, f6, k, b, a, d, 0x54#7⟩ = some i) :
    decode (joinWord ⟨c, f6, k, b, a, d, 0x54#7⟩) w1 = .ok i := decode_of_fields _ _ _ hw rfl h
theorem decode_op55 (i : Instr) (c : BitVec 1) (f6 : BitVec 6) (k : BitVec 3) (b a d : BitVec 5) (w1 : BitVec 32)
    (hw : i.wellFormed = true) (h : decodeOp55 ⟨c, f6, k, b, a, d, 0x55#7⟩ = some i) :
    decode (joinWord ⟨c, f6, k, b, a, d, 0x55#7⟩) w1 = .ok i := decode_of_fields _ _ _ hw rfl h
theorem decode_op60 (i : Instr) (c : BitVec 1) (f6 : BitVec 6) (k : BitVec 3) (b a d : BitVec 5) (w1 : BitVec 32)
    (hw : i.wellFormed = true) (h : decodeOp60 ⟨c, f6, k, b, a, d, 0x60#7⟩ = some i) :
    decode (joinWord ⟨c, f6, k, b, a, d, 0x60#7⟩) w1 = .ok i := decode_of_fields _ _ _ hw rfl h
theorem decode_op61 (i : Instr) (c : BitVec 1) (f6 : BitVec 6) (k : BitVec 3) (b a d : BitVec 5) (w1 : BitVec 32)
    (hw : i.wellFormed = true) (h : decodeOp61 ⟨c, f6, k, b, a, d, 0x61#7⟩ = some i) :
    decode (joinWord ⟨c, f6, k, b, a, d, 0x61#7⟩) w1 = .ok i := decode_of_fields _ _ _ hw rfl h
theorem decode_op62 (i : Instr) (c : BitVec 1) (f6 : BitVec 6) (k : BitVec 3) (b a d : BitVec 5) (w1 : BitVec 32)
    (hw : i.wellFormed = true) (h : decodeOp62 ⟨c, f6, k, b, a, d, 0x62#7⟩ = some i) :
    decode (joinWord ⟨c, f6, k, b, a, d, 0x62#7⟩) w1 = .ok i := decode_of_fields _ _ _ hw rfl h
theorem decode_op63 (i : Instr) (c : BitVec 1) (f6 : BitVec 6) (k : BitVec 3) (b a d : BitVec 5) (w1 : BitVec 32)
    (hw : i.wellFormed = true) (h : decodeOp63 ⟨c, f6, k, b, a, d, 0x63#7⟩ = some i) :
    decode (joinWord ⟨c, f6, k, b, a, d, 0x63#7⟩) w1 = .ok i := decode_of_fields _ _ _ hw rfl h
theorem decode_op64 (i : Instr) (c : BitVec 1) (f6 : BitVec 6) (k : BitVec 3) (b a d : BitVec 5) (w1 : BitVec 32)
    (hw : i.wellFormed = true) (h : decodeOp64 ⟨c, f6, k, b, a, d, 0x64#7⟩ = some i) :
    decode (joinWord ⟨c, f6, k, b, a, d, 0x64#7⟩) w1 = .ok i := decode_of_fields _ _ _ hw rfl h
theorem decode_op65 (i : Instr) (c : BitVec 1) (f6 : BitVec 6) (k : BitVec 3) (b a d : BitVec 5) (w1 : BitVec 32)
    (hw : i.wellFormed = true) (h : decodeOp65 ⟨c, f6, k, b, a, d, 0x65#7⟩ = some i) :
    decode (joinWord ⟨c, f6, k, b, a, d, 0x65#7⟩) w1 = .ok i := decode_of_fields _ _ _ hw rfl h
theorem decode_op66 (i : Instr) (c : BitVec 1) (f6 : BitVec 6) (k : BitVec 3) (b a d : BitVec 5) (w1 : BitVec 32)
    (hw : i.wellFormed = true) (h : decodeOp66 ⟨c, f6, k, b, a, d, 0x66#7⟩ = some i) :
    decode (joinWord ⟨c, f6, k, b, a, d, 0x66#7⟩) w1 = .ok i := decode_of_fields _ _ _ hw rfl h
theorem decode_op67 (i : Instr) (c : BitVec 1) (f6 : BitVec 6) (k : BitVec 3) (b a d : BitVec 5) (w1 : BitVec 32)
    (hw : i.wellFormed = true) (h : decodeOp67 ⟨c, f6, k, b, a, d, 0x67#7⟩ = some i) :
    decode (joinWord ⟨c, f6, k, b, a, d, 0x67#7⟩) w1 = .ok i := decode_of_fields _ _ _ hw rfl h
theorem decode_op68 (i : Instr) (c : BitVec 1) (f6 : BitVec 6) (k : BitVec 3) (b a d : BitVec 5) (w1 : BitVec 32)
    (hw : i.wellFormed = true) (h : decodeOp68 ⟨c, f6, k, b, a, d, 0x68#7⟩ = some i) :
    decode (joinWord ⟨c, f6, k, b, a, d, 0x68#7⟩) w1 = .ok i := decode_of_fields _ _ _ hw rfl h
theorem decode_op69 (i : Instr) (c : BitVec 1) (f6 : BitVec 6) (k : BitVec 3) (b a d : BitVec 5) (w1 : BitVec 32)
    (hw : i.wellFormed = true) (h : decodeOp69 ⟨c, f6, k, b, a, d, 0x69#7⟩ = some i) :
    decode (joinWord ⟨c, f6, k, b, a, d, 0x69#7⟩) w1 = .ok i := decode_of_fields _ _ _ hw rfl h
theorem decode_op6A (i : Instr) (c : BitVec 1) (f6 : BitVec 6) (k : BitVec 3) (b a d : BitVec 5) (w1 : BitVec 32)
    (hw : i.wellFormed = true) (h : decodeOp6A ⟨c, f6, k, b, a, d, 0x6A#7⟩ = some i) :
    decode (joinWord ⟨c, f6, k, b, a, d, 0x6A#7⟩) w1 = .ok i := decode_of_fields _ _ _ hw rfl h
theorem decode_op7E (i : Instr) (c : BitVec 1) (f6 : BitVec 6) (k : BitVec 3) (b a d : BitVec 5) (w1 : BitVec 32)
    (hw : i.wellFormed = true) (h : decodeOp7E ⟨c, f6, k, b, a, d, 0x7E#7⟩ w1 = some i) :
    decode (joinWord ⟨c, f6, k, b, a, d, 0x7E#7⟩) w1 = .ok i := decode_of_fields _ _ _ hw rfl h

/-! ### One lemma per constructor -/

theorem RoundTrip.add (b : BitVec 5) (a : BitVec 5) (d : BitVec 5) : RoundTrip.Statement (.add b a d) :=
  fun hw _ => decode_op01 _ 0 0 0 b a d _ hw (by simp [decodeOp01])

theorem RoundTrip.sub (b : BitVec 5) (a : BitVec 5) (d : BitVec 5) : RoundTrip.Statement (.sub b a d) :=
  fun hw _ => decode_op01 _ 0 0 0x1#3 b a d _ hw (by simp [decodeOp01])

theorem RoundTrip.and (b : BitVec 5) (a : BitVec 5) (d : BitVec 5) : RoundTrip.Statement (.and b a d) :=
  fun hw _ => decode_op01 _ 0 0 0x2#3 b a d _ hw (by simp [decodeOp01])

theorem RoundTrip.or (b : BitVec 5) (a : BitVec 5) (d : BitVec 5) : RoundTrip.Statement (.or b a d) :=
  fun hw _ => decode_op01 _ 0 0 0x3#3 b a d _ hw (by simp [decodeOp01])

theorem RoundTrip.xor (b : BitVec 5) (a : BitVec 5) (d : BitVec 5) : RoundTrip.Statement (.xor b a d) :=
  fun hw _ => decode_op01 _ 0 0 0x4#3 b a d _ hw (by simp [decodeOp01])

theorem RoundTrip.andn (b : BitVec 5) (a : BitVec 5) (d : BitVec 5) : RoundTrip.Statement (.andn b a d) :=
  fun hw _ => decode_op01 _ 0 0 0x5#3 b a d _ hw (by simp [decodeOp01])

theorem RoundTrip.sll (b : BitVec 5) (a : BitVec 5) (d : BitVec 5) : RoundTrip.Statement (.sll b a d) :=
  fun hw _ => decode_op01 _ 0 0 0x6#3 b a d _ hw (by simp [decodeOp01])

theorem RoundTrip.srl (b : BitVec 5) (a : BitVec 5) (d : BitVec 5) : RoundTrip.Statement (.srl b a d) :=
  fun hw _ => decode_op01 _ 0 0 0x7#3 b a d _ hw (by simp [decodeOp01])

theorem RoundTrip.sra (b : BitVec 5) (a : BitVec 5) (d : BitVec 5) : RoundTrip.Statement (.sra b a d) :=
  fun hw _ => decode_op01 _ 0 0x1#6 0 b a d _ hw (by simp [decodeOp01])

theorem RoundTrip.mul (b : BitVec 5) (a : BitVec 5) (d : BitVec 5) : RoundTrip.Statement (.mul b a d) :=
  fun hw _ => decode_op01 _ 0 0x1#6 0x1#3 b a d _ hw (by simp [decodeOp01])

theorem RoundTrip.mulh (b : BitVec 5) (a : BitVec 5) (d : BitVec 5) : RoundTrip.Statement (.mulh b a d) :=
  fun hw _ => decode_op01 _ 0 0x1#6 0x2#3 b a d _ hw (by simp [decodeOp01])

theorem RoundTrip.mulhu (b : BitVec 5) (a : BitVec 5) (d : BitVec 5) : RoundTrip.Statement (.mulhu b a d) :=
  fun hw _ => decode_op01 _ 0 0x1#6 0x3#3 b a d _ hw (by simp [decodeOp01])

theorem RoundTrip.div (b : BitVec 5) (a : BitVec 5) (d : BitVec 5) : RoundTrip.Statement (.div b a d) :=
  fun hw _ => decode_op01 _ 0 0x1#6 0x4#3 b a d _ hw (by simp [decodeOp01])

theorem RoundTrip.divu (b : BitVec 5) (a : BitVec 5) (d : BitVec 5) : RoundTrip.Statement (.divu b a d) :=
  fun hw _ => decode_op01 _ 0 0x1#6 0x5#3 b a d _ hw (by simp [decodeOp01])

theorem RoundTrip.rem (b : BitVec 5) (a : BitVec 5) (d : BitVec 5) : RoundTrip.Statement (.rem b a d) :=
  fun hw _ => decode_op01 _ 0 0x1#6 0x6#3 b a d _ hw (by simp [decodeOp01])

theorem RoundTrip.remu (b : BitVec 5) (a : BitVec 5) (d : BitVec 5) : RoundTrip.Statement (.remu b a d) :=
  fun hw _ => decode_op01 _ 0 0x1#6 0x7#3 b a d _ hw (by simp [decodeOp01])

theorem RoundTrip.min (b : BitVec 5) (a : BitVec 5) (d : BitVec 5) : RoundTrip.Statement (.min b a d) :=
  fun hw _ => decode_op01 _ 0 0x2#6 0 b a d _ hw (by simp [decodeOp01])

theorem RoundTrip.max (b : BitVec 5) (a : BitVec 5) (d : BitVec 5) : RoundTrip.Statement (.max b a d) :=
  fun hw _ => decode_op01 _ 0 0x2#6 0x1#3 b a d _ hw (by simp [decodeOp01])

theorem RoundTrip.minu (b : BitVec 5) (a : BitVec 5) (d : BitVec 5) : RoundTrip.Statement (.minu b a d) :=
  fun hw _ => decode_op01 _ 0 0x2#6 0x2#3 b a d _ hw (by simp [decodeOp01])

theorem RoundTrip.maxu (b : BitVec 5) (a : BitVec 5) (d : BitVec 5) : RoundTrip.Statement (.maxu b a d) :=
  fun hw _ => decode_op01 _ 0 0x2#6 0x3#3 b a d _ hw (by simp [decodeOp01])

theorem RoundTrip.slt (b : BitVec 5) (a : BitVec 5) (d : BitVec 5) : RoundTrip.Statement (.slt b a d) :=
  fun hw _ => decode_op01 _ 0 0x2#6 0x4#3 b a d _ hw (by simp [decodeOp01])

theorem RoundTrip.sltu (b : BitVec 5) (a : BitVec 5) (d : BitVec 5) : RoundTrip.Statement (.sltu b a d) :=
  fun hw _ => decode_op01 _ 0 0x2#6 0x5#3 b a d _ hw (by simp [decodeOp01])

theorem RoundTrip.clz (a : BitVec 5) (d : BitVec 5) : RoundTrip.Statement (.clz a d) :=
  fun hw _ => decode_op01 _ 0 0x2#6 0x6#3 0 a d _ hw (by simp [decodeOp01])

theorem RoundTrip.ctz (a : BitVec 5) (d : BitVec 5) : RoundTrip.Statement (.ctz a d) :=
  fun hw _ => decode_op01 _ 0 0x2#6 0x7#3 0 a d _ hw (by simp [decodeOp01])

theorem RoundTrip.popc (a : BitVec 5) (d : BitVec 5) : RoundTrip.Statement (.popc a d) :=
  fun hw _ => decode_op01 _ 0 0x3#6 0 0 a d _ hw (by simp [decodeOp01])

theorem RoundTrip.addi (i : BitVec 15) (a : BitVec 5) (d : BitVec 5) : RoundTrip.Statement (.addi i a d) :=
  fun hw _ => decode_op02 _ (i.extractLsb' 14 1) (i.extractLsb' 8 6) (i.extractLsb' 5 3) (i.extractLsb' 0 5) a d _ hw (by simp [decodeOp02, join_imm15])

theorem RoundTrip.andi (i : BitVec 15) (a : BitVec 5) (d : BitVec 5) : RoundTrip.Statement (.andi i a d) :=
  fun hw _ => decode_op03 _ (i.extractLsb' 14 1) (i.extractLsb' 8 6) (i.extractLsb' 5 3) (i.extractLsb' 0 5) a d _ hw (by simp [decodeOp03, join_imm15])

theorem RoundTrip.ori (i : BitVec 15) (a : BitVec 5) (d : BitVec 5) : RoundTrip.Statement (.ori i a d) :=
  fun hw _ => decode_op04 _ (i.extractLsb' 14 1) (i.extractLsb' 8 6) (i.extractLsb' 5 3) (i.extractLsb' 0 5) a d _ hw (by simp [decodeOp04, join_imm15])

theorem RoundTrip.xori (i : BitVec 15) (a : BitVec 5) (d : BitVec 5) : RoundTrip.Statement (.xori i a d) :=
  fun hw _ => decode_op05 _ (i.extractLsb' 14 1) (i.extractLsb' 8 6) (i.extractLsb' 5 3) (i.extractLsb' 0 5) a d _ hw (by simp [decodeOp05, join_imm15])

theorem RoundTrip.slti (i : BitVec 15) (a : BitVec 5) (d : BitVec 5) : RoundTrip.Statement (.slti i a d) :=
  fun hw _ => decode_op06 _ (i.extractLsb' 14 1) (i.extractLsb' 8 6) (i.extractLsb' 5 3) (i.extractLsb' 0 5) a d _ hw (by simp [decodeOp06, join_imm15])

theorem RoundTrip.slli (h : BitVec 6) (a : BitVec 5) (d : BitVec 5) : RoundTrip.Statement (.slli h a d) :=
  fun hw _ => decode_op07 _ 0 0 (0x0#2 ++ (h.extractLsb' 5 1)) (h.extractLsb' 0 5) a d _ hw (by simp [decodeOp07, at_2_1_0_1, at_2_1_1_2, join_shift6])

theorem RoundTrip.srli (h : BitVec 6) (a : BitVec 5) (d : BitVec 5) : RoundTrip.Statement (.srli h a d) :=
  fun hw _ => decode_op07 _ 0 0x20#6 (0x0#2 ++ (h.extractLsb' 5 1)) (h.extractLsb' 0 5) a d _ hw (by simp [decodeOp07, at_2_1_0_1, at_2_1_1_2, join_shift6])

theorem RoundTrip.srai (h : BitVec 6) (a : BitVec 5) (d : BitVec 5) : RoundTrip.Statement (.srai h a d) :=
  fun hw _ => decode_op07 _ 0x1#1 0 (0x0#2 ++ (h.extractLsb' 5 1)) (h.extractLsb' 0 5) a d _ hw (by simp [decodeOp07, at_2_1_0_1, at_2_1_1_2, join_shift6])

theorem RoundTrip.lih (i : BitVec 20) (d : BitVec 5) : RoundTrip.Statement (.lih i d) :=
  fun hw _ => decode_op08 _ (i.extractLsb' 19 1) (i.extractLsb' 13 6) (i.extractLsb' 10 3) (i.extractLsb' 5 5) (i.extractLsb' 0 5) d _ hw (by simp [decodeOp08, join_imm20])

theorem RoundTrip.addpc (i : BitVec 20) (d : BitVec 5) : RoundTrip.Statement (.addpc i d) :=
  fun hw _ => decode_op09 _ (i.extractLsb' 19 1) (i.extractLsb' 13 6) (i.extractLsb' 10 3) (i.extractLsb' 5 5) (i.extractLsb' 0 5) d _ hw (by simp [decodeOp09, join_imm20])

theorem RoundTrip.liw (d : BitVec 5) (i : BitVec 32) : RoundTrip.Statement (.liw d i) :=
  fun hw _ => decode_op7E _ 0 0 0 1 0 d i hw (by simp [decodeOp7E])

theorem RoundTrip.fadd (f : Bool) (m : BitVec 3) (b : BitVec 5) (a : BitVec 5) (d : BitVec 5) : RoundTrip.Statement (.fadd f m b a d) :=
  fun hw _ => decode_op0A _ 0 (0x0#5 ++ (BitVec.ofBool f)) m b a d _ hw (by simp [decodeOp0A, at_5_b_1_5, at_5_b_bit0])

theorem RoundTrip.fsub (f : Bool) (m : BitVec 3) (b : BitVec 5) (a : BitVec 5) (d : BitVec 5) : RoundTrip.Statement (.fsub f m b a d) :=
  fun hw _ => decode_op0A _ 0 (0x1#5 ++ (BitVec.ofBool f)) m b a d _ hw (by simp [decodeOp0A, at_5_b_1_5, at_5_b_bit0])

theorem RoundTrip.fmul (f : Bool) (m : BitVec 3) (b : BitVec 5) (a : BitVec 5) (d : BitVec 5) : RoundTrip.Statement (.fmul f m b a d) :=
  fun hw _ => decode_op0A _ 0 (0x2#5 ++ (BitVec.ofBool f)) m b a d _ hw (by simp [decodeOp0A, at_5_b_1_5, at_5_b_bit0])

theorem RoundTrip.ffma (f : Bool) (m : BitVec 3) (b : BitVec 5) (a : BitVec 5) (d : BitVec 5) : RoundTrip.Statement (.ffma f m b a d) :=
  fun hw _ => decode_op0A _ 0 (0x3#5 ++ (BitVec.ofBool f)) m b a d _ hw (by simp [decodeOp0A, at_5_b_1_5, at_5_b_bit0])

theorem RoundTrip.fdiv (f : Bool) (m : BitVec 3) (b : BitVec 5) (a : BitVec 5) (d : BitVec 5) : RoundTrip.Statement (.fdiv f m b a d) :=
  fun hw _ => decode_op0A _ 0 (0x4#5 ++ (BitVec.ofBool f)) m b a d _ hw (by simp [decodeOp0A, at_5_b_1_5, at_5_b_bit0])

theorem RoundTrip.fsqrt (f : Bool) (m : BitVec 3) (a : BitVec 5) (d : BitVec 5) : RoundTrip.Statement (.fsqrt f m a d) :=
  fun hw _ => decode_op0A _ 0 (0x5#5 ++ (BitVec.ofBool f)) m 0 a d _ hw (by simp [decodeOp0A, at_5_b_1_5, at_5_b_bit0])

theorem RoundTrip.fmin (f : Bool) (b : BitVec 5) (a : BitVec 5) (d : BitVec 5) : RoundTrip.Statement (.fmin f b a d) :=
  fun hw _ => decode_op0A _ 0 (0x6#5 ++ (BitVec.ofBool f)) 0 b a d _ hw (by simp [decodeOp0A, at_5_b_1_5, at_5_b_bit0])

theorem RoundTrip.fmax (f : Bool) (b : BitVec 5) (a : BitVec 5) (d : BitVec 5) : RoundTrip.Statement (.fmax f b a d) :=
  fun hw _ => decode_op0A _ 0 (0x7#5 ++ (BitVec.ofBool f)) 0 b a d _ hw (by simp [decodeOp0A, at_5_b_1_5, at_5_b_bit0])

theorem RoundTrip.fcmpEq (f : Bool) (b : BitVec 5) (a : BitVec 5) (d : BitVec 5) : RoundTrip.Statement (.fcmpEq f b a d) :=
  fun hw _ => decode_op0A _ 0 (0x8#5 ++ (BitVec.ofBool f)) 0 b a d _ hw (by simp [decodeOp0A, at_5_b_1_5, at_5_b_bit0])

theorem RoundTrip.fcmpLt (f : Bool) (b : BitVec 5) (a : BitVec 5) (d : BitVec 5) : RoundTrip.Statement (.fcmpLt f b a d) :=
  fun hw _ => decode_op0A _ 0 (0x8#5 ++ (BitVec.ofBool f)) 0x1#3 b a d _ hw (by simp [decodeOp0A, at_5_b_1_5, at_5_b_bit0])

theorem RoundTrip.fcmpLe (f : Bool) (b : BitVec 5) (a : BitVec 5) (d : BitVec 5) : RoundTrip.Statement (.fcmpLe f b a d) :=
  fun hw _ => decode_op0A _ 0 (0x8#5 ++ (BitVec.ofBool f)) 0x2#3 b a d _ hw (by simp [decodeOp0A, at_5_b_1_5, at_5_b_bit0])

theorem RoundTrip.fcmpUnord (f : Bool) (b : BitVec 5) (a : BitVec 5) (d : BitVec 5) : RoundTrip.Statement (.fcmpUnord f b a d) :=
  fun hw _ => decode_op0A _ 0 (0x8#5 ++ (BitVec.ofBool f)) 0x3#3 b a d _ hw (by simp [decodeOp0A, at_5_b_1_5, at_5_b_bit0])

theorem RoundTrip.fcvtToInt32 (f : Bool) (m : BitVec 3) (a : BitVec 5) (d : BitVec 5) : RoundTrip.Statement (.fcvtToInt32 f m a d) :=
  fun hw _ => decode_op0A _ 0 (0x9#5 ++ (BitVec.ofBool f)) m 0 a d _ hw (by simp [decodeOp0A, at_5_b_1_5, at_5_b_bit0])

theorem RoundTrip.fcvtToUint32 (f : Bool) (m : BitVec 3) (a : BitVec 5) (d : BitVec 5) : RoundTrip.Statement (.fcvtToUint32 f m a d) :=
  fun hw _ => decode_op0A _ 0 (0x9#5 ++ (BitVec.ofBool f)) m 0x1#5 a d _ hw (by simp [decodeOp0A, at_5_b_1_5, at_5_b_bit0])

theorem RoundTrip.fcvtToInt64 (f : Bool) (m : BitVec 3) (a : BitVec 5) (d : BitVec 5) : RoundTrip.Statement (.fcvtToInt64 f m a d) :=
  fun hw _ => decode_op0A _ 0 (0x9#5 ++ (BitVec.ofBool f)) m 0x2#5 a d _ hw (by simp [decodeOp0A, at_5_b_1_5, at_5_b_bit0])

theorem RoundTrip.fcvtToUint64 (f : Bool) (m : BitVec 3) (a : BitVec 5) (d : BitVec 5) : RoundTrip.Statement (.fcvtToUint64 f m a d) :=
  fun hw _ => decode_op0A _ 0 (0x9#5 ++ (BitVec.ofBool f)) m 0x3#5 a d _ hw (by simp [decodeOp0A, at_5_b_1_5, at_5_b_bit0])

theorem RoundTrip.fcvtFromInt32 (f : Bool) (m : BitVec 3) (a : BitVec 5) (d : BitVec 5) : RoundTrip.Statement (.fcvtFromInt32 f m a d) :=
  fun hw _ => decode_op0A _ 0 (0x9#5 ++ (BitVec.ofBool f)) m 0x8#5 a d _ hw (by simp [decodeOp0A, at_5_b_1_5, at_5_b_bit0])

theorem RoundTrip.fcvtFromUint32 (f : Bool) (m : BitVec 3) (a : BitVec 5) (d : BitVec 5) : RoundTrip.Statement (.fcvtFromUint32 f m a d) :=
  fun hw _ => decode_op0A _ 0 (0x9#5 ++ (BitVec.ofBool f)) m 0x9#5 a d _ hw (by simp [decodeOp0A, at_5_b_1_5, at_5_b_bit0])

theorem RoundTrip.fcvtFromInt64 (f : Bool) (m : BitVec 3) (a : BitVec 5) (d : BitVec 5) : RoundTrip.Statement (.fcvtFromInt64 f m a d) :=
  fun hw _ => decode_op0A _ 0 (0x9#5 ++ (BitVec.ofBool f)) m 0xa#5 a d _ hw (by simp [decodeOp0A, at_5_b_1_5, at_5_b_bit0])

theorem RoundTrip.fcvtFromUint64 (f : Bool) (m : BitVec 3) (a : BitVec 5) (d : BitVec 5) : RoundTrip.Statement (.fcvtFromUint64 f m a d) :=
  fun hw _ => decode_op0A _ 0 (0x9#5 ++ (BitVec.ofBool f)) m 0xb#5 a d _ hw (by simp [decodeOp0A, at_5_b_1_5, at_5_b_bit0])

theorem RoundTrip.fcvtFp (f : Bool) (m : BitVec 3) (a : BitVec 5) (d : BitVec 5) : RoundTrip.Statement (.fcvtFp f m a d) :=
  fun hw _ => decode_op0A _ 0 (0x9#5 ++ (BitVec.ofBool f)) m 0x10#5 a d _ hw (by simp [decodeOp0A, at_5_b_1_5, at_5_b_bit0])

theorem RoundTrip.ldB (i : BitVec 15) (a : BitVec 5) (d : BitVec 5) : RoundTrip.Statement (.ldB i a d) :=
  fun hw _ => decode_op0B _ (i.extractLsb' 14 1) (i.extractLsb' 8 6) (i.extractLsb' 5 3) (i.extractLsb' 0 5) a d _ hw (by simp [decodeOp0B, join_imm15])

theorem RoundTrip.ldH (i : BitVec 15) (a : BitVec 5) (d : BitVec 5) : RoundTrip.Statement (.ldH i a d) :=
  fun hw _ => decode_op0C _ (i.extractLsb' 14 1) (i.extractLsb' 8 6) (i.extractLsb' 5 3) (i.extractLsb' 0 5) a d _ hw (by simp [decodeOp0C, join_imm15])

theorem RoundTrip.ldW (i : BitVec 15) (a : BitVec 5) (d : BitVec 5) : RoundTrip.Statement (.ldW i a d) :=
  fun hw _ => decode_op0D _ (i.extractLsb' 14 1) (i.extractLsb' 8 6) (i.extractLsb' 5 3) (i.extractLsb' 0 5) a d _ hw (by simp [decodeOp0D, join_imm15])

theorem RoundTrip.ldD (i : BitVec 15) (a : BitVec 5) (d : BitVec 5) : RoundTrip.Statement (.ldD i a d) :=
  fun hw _ => decode_op0E _ (i.extractLsb' 14 1) (i.extractLsb' 8 6) (i.extractLsb' 5 3) (i.extractLsb' 0 5) a d _ hw (by simp [decodeOp0E, join_imm15])

theorem RoundTrip.ldBu (i : BitVec 15) (a : BitVec 5) (d : BitVec 5) : RoundTrip.Statement (.ldBu i a d) :=
  fun hw _ => decode_op0F _ (i.extractLsb' 14 1) (i.extractLsb' 8 6) (i.extractLsb' 5 3) (i.extractLsb' 0 5) a d _ hw (by simp [decodeOp0F, join_imm15])

theorem RoundTrip.ldHu (i : BitVec 15) (a : BitVec 5) (d : BitVec 5) : RoundTrip.Statement (.ldHu i a d) :=
  fun hw _ => decode_op10 _ (i.extractLsb' 14 1) (i.extractLsb' 8 6) (i.extractLsb' 5 3) (i.extractLsb' 0 5) a d _ hw (by simp [decodeOp10, join_imm15])

theorem RoundTrip.ldWu (i : BitVec 15) (a : BitVec 5) (d : BitVec 5) : RoundTrip.Statement (.ldWu i a d) :=
  fun hw _ => decode_op11 _ (i.extractLsb' 14 1) (i.extractLsb' 8 6) (i.extractLsb' 5 3) (i.extractLsb' 0 5) a d _ hw (by simp [decodeOp11, join_imm15])

theorem RoundTrip.stB (o : BitVec 12) (b : BitVec 5) (a : BitVec 5) : RoundTrip.Statement (.stB o b a) :=
  fun hw _ => decode_op12 _ (o.extractLsb' 11 1) (o.extractLsb' 5 6) (o.extractLsb' 2 3) ((o.extractLsb' 0 2) ++ 0x0#3) b a _ hw (by simp [decodeOp12, at_2_3_0_3, at_2_3_3_2, join_off12])

theorem RoundTrip.stH (o : BitVec 12) (b : BitVec 5) (a : BitVec 5) : RoundTrip.Statement (.stH o b a) :=
  fun hw _ => decode_op12 _ (o.extractLsb' 11 1) (o.extractLsb' 5 6) (o.extractLsb' 2 3) ((o.extractLsb' 0 2) ++ 0x1#3) b a _ hw (by simp [decodeOp12, at_2_3_0_3, at_2_3_3_2, join_off12])

theorem RoundTrip.stW (o : BitVec 12) (b : BitVec 5) (a : BitVec 5) : RoundTrip.Statement (.stW o b a) :=
  fun hw _ => decode_op12 _ (o.extractLsb' 11 1) (o.extractLsb' 5 6) (o.extractLsb' 2 3) ((o.extractLsb' 0 2) ++ 0x2#3) b a _ hw (by simp [decodeOp12, at_2_3_0_3, at_2_3_3_2, join_off12])

theorem RoundTrip.stD (o : BitVec 12) (b : BitVec 5) (a : BitVec 5) : RoundTrip.Statement (.stD o b a) :=
  fun hw _ => decode_op12 _ (o.extractLsb' 11 1) (o.extractLsb' 5 6) (o.extractLsb' 2 3) ((o.extractLsb' 0 2) ++ 0x3#3) b a _ hw (by simp [decodeOp12, at_2_3_0_3, at_2_3_3_2, join_off12])

theorem RoundTrip.amoAdd (o : BitVec 2) (s : BitVec 4) (b : BitVec 5) (a : BitVec 5) (d : BitVec 5) : RoundTrip.Statement (.amoAdd o s b a d) :=
  fun hw _ => decode_op13 _ 0 (0x0#3 ++ o ++ (s.extractLsb' 3 1)) (s.extractLsb' 0 3) b a d _ hw (by simp [decodeOp13, at_3_2_1_0_1, at_3_2_1_1_2, at_3_2_1_3_3, join_scope])

theorem RoundTrip.amoAnd (o : BitVec 2) (s : BitVec 4) (b : BitVec 5) (a : BitVec 5) (d : BitVec 5) : RoundTrip.Statement (.amoAnd o s b a d) :=
  fun hw _ => decode_op13 _ 0 (0x1#3 ++ o ++ (s.extractLsb' 3 1)) (s.extractLsb' 0 3) b a d _ hw (by simp [decodeOp13, at_3_2_1_0_1, at_3_2_1_1_2, at_3_2_1_3_3, join_scope])

theorem RoundTrip.amoOr (o : BitVec 2) (s : BitVec 4) (b : BitVec 5) (a : BitVec 5) (d : BitVec 5) : RoundTrip.Statement (.amoOr o s b a d) :=
  fun hw _ => decode_op13 _ 0 (0x2#3 ++ o ++ (s.extractLsb' 3 1)) (s.extractLsb' 0 3) b a d _ hw (by simp [decodeOp13, at_3_2_1_0_1, at_3_2_1_1_2, at_3_2_1_3_3, join_scope])

theorem RoundTrip.amoXor (o : BitVec 2) (s : BitVec 4) (b : BitVec 5) (a : BitVec 5) (d : BitVec 5) : RoundTrip.Statement (.amoXor o s b a d) :=
  fun hw _ => decode_op13 _ 0 (0x3#3 ++ o ++ (s.extractLsb' 3 1)) (s.extractLsb' 0 3) b a d _ hw (by simp [decodeOp13, at_3_2_1_0_1, at_3_2_1_1_2, at_3_2_1_3_3, join_scope])

theorem RoundTrip.amoMin (o : BitVec 2) (s : BitVec 4) (b : BitVec 5) (a : BitVec 5) (d : BitVec 5) : RoundTrip.Statement (.amoMin o s b a d) :=
  fun hw _ => decode_op13 _ 0 (0x4#3 ++ o ++ (s.extractLsb' 3 1)) (s.extractLsb' 0 3) b a d _ hw (by simp [decodeOp13, at_3_2_1_0_1, at_3_2_1_1_2, at_3_2_1_3_3, join_scope])

theorem RoundTrip.amoMax (o : BitVec 2) (s : BitVec 4) (b : BitVec 5) (a : BitVec 5) (d : BitVec 5) : RoundTrip.Statement (.amoMax o s b a d) :=
  fun hw _ => decode_op13 _ 0 (0x5#3 ++ o ++ (s.extractLsb' 3 1)) (s.extractLsb' 0 3) b a d _ hw (by simp [decodeOp13, at_3_2_1_0_1, at_3_2_1_1_2, at_3_2_1_3_3, join_scope])

theorem RoundTrip.amoMinu (o : BitVec 2) (s : BitVec 4) (b : BitVec 5) (a : BitVec 5) (d : BitVec 5) : RoundTrip.Statement (.amoMinu o s b a d) :=
  fun hw _ => decode_op13 _ 0 (0x6#3 ++ o ++ (s.extractLsb' 3 1)) (s.extractLsb' 0 3) b a d _ hw (by simp [decodeOp13, at_3_2_1_0_1, at_3_2_1_1_2, at_3_2_1_3_3, join_scope])

theorem RoundTrip.amoMaxu (o : BitVec 2) (s : BitVec 4) (b : BitVec 5) (a : BitVec 5) (d : BitVec 5) : RoundTrip.Statement (.amoMaxu o s b a d) :=
  fun hw _ => decode_op13 _ 0 (0x7#3 ++ o ++ (s.extractLsb' 3 1)) (s.extractLsb' 0 3) b a d _ hw (by simp [decodeOp13, at_3_2_1_0_1, at_3_2_1_1_2, at_3_2_1_3_3, join_scope])

theorem RoundTrip.cas (o : BitVec 2) (s : BitVec 4) (b : BitVec 5) (a : BitVec 5) (d : BitVec 5) : RoundTrip.Statement (.cas o s b a d) :=
  fun hw _ => decode_op14 _ 0 (0x0#3 ++ o ++ (s.extractLsb' 3 1)) (s.extractLsb' 0 3) b a d _ hw (by simp [decodeOp14, at_3_2_1_0_1, at_3_2_1_1_2, at_3_2_1_3_3, join_scope])

theorem RoundTrip.amoSwap (o : BitVec 2) (s : BitVec 4) (b : BitVec 5) (a : BitVec 5) (d : BitVec 5) : RoundTrip.Statement (.amoSwap o s b a d) :=
  fun hw _ => decode_op14 _ 0 (0x1#3 ++ o ++ (s.extractLsb' 3 1)) (s.extractLsb' 0 3) b a d _ hw (by simp [decodeOp14, at_3_2_1_0_1, at_3_2_1_1_2, at_3_2_1_3_3, join_scope])

theorem RoundTrip.beq (o : BitVec 12) (b : BitVec 5) (a : BitVec 5) : RoundTrip.Statement (.beq o b a) :=
  fun hw _ => decode_op15 _ (o.extractLsb' 11 1) (o.extractLsb' 5 6) (o.extractLsb' 2 3) ((o.extractLsb' 0 2) ++ 0x0#3) b a _ hw (by simp [decodeOp15, at_2_3_0_3, at_2_3_3_2, join_off12])

theorem RoundTrip.bne (o : BitVec 12) (b : BitVec 5) (a : BitVec 5) : RoundTrip.Statement (.bne o b a) :=
  fun hw _ => decode_op15 _ (o.extractLsb' 11 1) (o.extractLsb' 5 6) (o.extractLsb' 2 3) ((o.extractLsb' 0 2) ++ 0x1#3) b a _ hw (by simp [decodeOp15, at_2_3_0_3, at_2_3_3_2, join_off12])

theorem RoundTrip.blt (o : BitVec 12) (b : BitVec 5) (a : BitVec 5) : RoundTrip.Statement (.blt o b a) :=
  fun hw _ => decode_op15 _ (o.extractLsb' 11 1) (o.extractLsb' 5 6) (o.extractLsb' 2 3) ((o.extractLsb' 0 2) ++ 0x2#3) b a _ hw (by simp [decodeOp15, at_2_3_0_3, at_2_3_3_2, join_off12])

theorem RoundTrip.bge (o : BitVec 12) (b : BitVec 5) (a : BitVec 5) : RoundTrip.Statement (.bge o b a) :=
  fun hw _ => decode_op15 _ (o.extractLsb' 11 1) (o.extractLsb' 5 6) (o.extractLsb' 2 3) ((o.extractLsb' 0 2) ++ 0x3#3) b a _ hw (by simp [decodeOp15, at_2_3_0_3, at_2_3_3_2, join_off12])

theorem RoundTrip.bltu (o : BitVec 12) (b : BitVec 5) (a : BitVec 5) : RoundTrip.Statement (.bltu o b a) :=
  fun hw _ => decode_op15 _ (o.extractLsb' 11 1) (o.extractLsb' 5 6) (o.extractLsb' 2 3) ((o.extractLsb' 0 2) ++ 0x4#3) b a _ hw (by simp [decodeOp15, at_2_3_0_3, at_2_3_3_2, join_off12])

theorem RoundTrip.bgeu (o : BitVec 12) (b : BitVec 5) (a : BitVec 5) : RoundTrip.Statement (.bgeu o b a) :=
  fun hw _ => decode_op15 _ (o.extractLsb' 11 1) (o.extractLsb' 5 6) (o.extractLsb' 2 3) ((o.extractLsb' 0 2) ++ 0x5#3) b a _ hw (by simp [decodeOp15, at_2_3_0_3, at_2_3_3_2, join_off12])

theorem RoundTrip.jal (o : BitVec 20) (d : BitVec 5) : RoundTrip.Statement (.jal o d) :=
  fun hw _ => decode_op16 _ (o.extractLsb' 19 1) (o.extractLsb' 13 6) (o.extractLsb' 10 3) (o.extractLsb' 5 5) (o.extractLsb' 0 5) d _ hw (by simp [decodeOp16, join_imm20])

theorem RoundTrip.jalr (i : BitVec 15) (a : BitVec 5) (d : BitVec 5) : RoundTrip.Statement (.jalr i a d) :=
  fun hw _ => decode_op17 _ (i.extractLsb' 14 1) (i.extractLsb' 8 6) (i.extractLsb' 5 3) (i.extractLsb' 0 5) a d _ hw (by simp [decodeOp17, join_imm15])

theorem RoundTrip.csrr (c : BitVec 10) (d : BitVec 5) : RoundTrip.Statement (.csrr c d) :=
  fun hw _ => decode_op18 _ (c.extractLsb' 9 1) (c.extractLsb' 3 6) (c.extractLsb' 0 3) 0 0 d _ hw (by simp [decodeOp18, join_csr10])

theorem RoundTrip.csrw (c : BitVec 10) (a : BitVec 5) : RoundTrip.Statement (.csrw c a) :=
  fun hw _ => decode_op18 _ (c.extractLsb' 9 1) (c.extractLsb' 3 6) (c.extractLsb' 0 3) 0x1#5 a 0 _ hw (by simp [decodeOp18, join_csr10])

theorem RoundTrip.csrx (c : BitVec 10) (a : BitVec 5) (d : BitVec 5) : RoundTrip.Statement (.csrx c a d) :=
  fun hw _ => decode_op18 _ (c.extractLsb' 9 1) (c.extractLsb' 3 6) (c.extractLsb' 0 3) 0x2#5 a d _ hw (by simp [decodeOp18, join_csr10])

theorem RoundTrip.ecall : RoundTrip.Statement (.ecall) :=
  fun hw _ => decode_op19 _ 0 0 0 0 0 0 _ hw (by simp [decodeOp19])

theorem RoundTrip.ebreak : RoundTrip.Statement (.ebreak) :=
  fun hw _ => decode_op19 _ 0 0 0x1#3 0 0 0 _ hw (by simp [decodeOp19])

theorem RoundTrip.tret : RoundTrip.Statement (.tret) :=
  fun hw _ => decode_op19 _ 0 0 0x2#3 0 0 0 _ hw (by simp [decodeOp19])

theorem RoundTrip.pause : RoundTrip.Statement (.pause) :=
  fun hw _ => decode_op19 _ 0 0 0x3#3 0 0 0 _ hw (by simp [decodeOp19])

theorem RoundTrip.yield : RoundTrip.Statement (.yield) :=
  fun hw _ => decode_op19 _ 0 0 0x4#3 0 0 0 _ hw (by simp [decodeOp19])

theorem RoundTrip.hexit : RoundTrip.Statement (.hexit) :=
  fun hw _ => decode_op19 _ 0 0 0x5#3 0 0 0 _ hw (by simp [decodeOp19])

theorem RoundTrip.gbar : RoundTrip.Statement (.gbar) :=
  fun hw _ => decode_op19 _ 0 0 0x6#3 0 0 0 _ hw (by simp [decodeOp19])

theorem RoundTrip.fenceSv (s : BitVec 4) : RoundTrip.Statement (.fenceSv s) :=
  fun hw _ => decode_op1A _ 0 (0x0#5 ++ (s.extractLsb' 3 1)) (s.extractLsb' 0 3) 0 0 0 _ hw (by simp [decodeOp1A, at_5_1_0_1, at_5_1_1_5, join_scope])

theorem RoundTrip.fenceVS (s : BitVec 4) : RoundTrip.Statement (.fenceVS s) :=
  fun hw _ => decode_op1A _ 0 (0x1#5 ++ (s.extractLsb' 3 1)) (s.extractLsb' 0 3) 0 0 0 _ hw (by simp [decodeOp1A, at_5_1_0_1, at_5_1_1_5, join_scope])

theorem RoundTrip.fenceVV (s : BitVec 4) : RoundTrip.Statement (.fenceVV s) :=
  fun hw _ => decode_op1A _ 0 (0x2#5 ++ (s.extractLsb' 3 1)) (s.extractLsb' 0 3) 0 0 0 _ hw (by simp [decodeOp1A, at_5_1_0_1, at_5_1_1_5, join_scope])

theorem RoundTrip.fenceAll (s : BitVec 4) : RoundTrip.Statement (.fenceAll s) :=
  fun hw _ => decode_op1A _ 0 (0x3#5 ++ (s.extractLsb' 3 1)) (s.extractLsb' 0 3) 0 0 0 _ hw (by simp [decodeOp1A, at_5_1_0_1, at_5_1_1_5, join_scope])

theorem RoundTrip.waitwEq (s : BitVec 4) (b : BitVec 5) (a : BitVec 5) (d : BitVec 5) : RoundTrip.Statement (.waitwEq s b a d) :=
  fun hw _ => decode_op1B _ 0 (0x0#2 ++ s) 0 b a d _ hw (by simp [decodeOp1B, at_2_4_0_4, at_2_4_4_2])

theorem RoundTrip.waitwNe (s : BitVec 4) (b : BitVec 5) (a : BitVec 5) (d : BitVec 5) : RoundTrip.Statement (.waitwNe s b a d) :=
  fun hw _ => decode_op1B _ 0 (0x0#2 ++ s) 0x1#3 b a d _ hw (by simp [decodeOp1B, at_2_4_0_4, at_2_4_4_2])

theorem RoundTrip.waitwGeu (s : BitVec 4) (b : BitVec 5) (a : BitVec 5) (d : BitVec 5) : RoundTrip.Statement (.waitwGeu s b a d) :=
  fun hw _ => decode_op1B _ 0 (0x0#2 ++ s) 0x2#3 b a d _ hw (by simp [decodeOp1B, at_2_4_0_4, at_2_4_4_2])

theorem RoundTrip.waitwLtu (s : BitVec 4) (b : BitVec 5) (a : BitVec 5) (d : BitVec 5) : RoundTrip.Statement (.waitwLtu s b a d) :=
  fun hw _ => decode_op1B _ 0 (0x0#2 ++ s) 0x3#3 b a d _ hw (by simp [decodeOp1B, at_2_4_0_4, at_2_4_4_2])

theorem RoundTrip.waitwGe (s : BitVec 4) (b : BitVec 5) (a : BitVec 5) (d : BitVec 5) : RoundTrip.Statement (.waitwGe s b a d) :=
  fun hw _ => decode_op1B _ 0 (0x0#2 ++ s) 0x4#3 b a d _ hw (by simp [decodeOp1B, at_2_4_0_4, at_2_4_4_2])

theorem RoundTrip.waitwLt (s : BitVec 4) (b : BitVec 5) (a : BitVec 5) (d : BitVec 5) : RoundTrip.Statement (.waitwLt s b a d) :=
  fun hw _ => decode_op1B _ 0 (0x0#2 ++ s) 0x5#3 b a d _ hw (by simp [decodeOp1B, at_2_4_0_4, at_2_4_4_2])

theorem RoundTrip.spawn (a : BitVec 5) (d : BitVec 5) : RoundTrip.Statement (.spawn a d) :=
  fun hw _ => decode_op1C _ 0 0 0 0 a d _ hw (by simp [decodeOp1C])

theorem RoundTrip.vsetvl (w : BitVec 3) (a : BitVec 5) (d : BitVec 5) : RoundTrip.Statement (.vsetvl w a d) :=
  fun hw _ => decode_op20 _ 0 (0x0#3 ++ w) 0 0 a d _ hw (by simp [decodeOp20, at_3_3_0_3, at_3_3_3_3])

theorem RoundTrip.vsetvlX (w : BitVec 3) (a : BitVec 5) (d : BitVec 5) : RoundTrip.Statement (.vsetvlX w a d) :=
  fun hw _ => decode_op20 _ 0 (0x2#3 ++ w) 0 0 a d _ hw (by simp [decodeOp20, at_3_3_0_3, at_3_3_3_3])

theorem RoundTrip.vcfg (b : BitVec 5) (d : BitVec 5) : RoundTrip.Statement (.vcfg b d) :=
  fun hw _ => decode_op20 _ 0 0x20#6 0 b 0 d _ hw (by simp [decodeOp20])

theorem RoundTrip.vaddVV (c : Bool) (k : BitVec 3) (b : BitVec 5) (a : BitVec 5) (d : BitVec 5) : RoundTrip.Statement (.vaddVV c k b a d) :=
  fun hw _ => decode_op21 _ (BitVec.ofBool c) 0 k b a d _ hw (by simp [decodeOp21])

theorem RoundTrip.vaddVS (c : Bool) (k : BitVec 3) (b : BitVec 5) (a : BitVec 5) (d : BitVec 5) : RoundTrip.Statement (.vaddVS c k b a d) :=
  fun hw _ => decode_op22 _ (BitVec.ofBool c) 0 k b a d _ hw (by simp [decodeOp22])

theorem RoundTrip.vaddVI (c : Bool) (k : BitVec 3) (i : BitVec 5) (a : BitVec 5) (d : BitVec 5) : RoundTrip.Statement (.vaddVI c k i a d) :=
  fun hw _ => decode_op23 _ (BitVec.ofBool c) 0 k i a d _ hw (by simp [decodeOp23])

theorem RoundTrip.vsubVV (c : Bool) (k : BitVec 3) (b : BitVec 5) (a : BitVec 5) (d : BitVec 5) : RoundTrip.Statement (.vsubVV c k b a d) :=
  fun hw _ => decode_op21 _ (BitVec.ofBool c) 0x1#6 k b a d _ hw (by simp [decodeOp21])

theorem RoundTrip.vsubVS (c : Bool) (k : BitVec 3) (b : BitVec 5) (a : BitVec 5) (d : BitVec 5) : RoundTrip.Statement (.vsubVS c k b a d) :=
  fun hw _ => decode_op22 _ (BitVec.ofBool c) 0x1#6 k b a d _ hw (by simp [decodeOp22])

theorem RoundTrip.vsubVI (c : Bool) (k : BitVec 3) (i : BitVec 5) (a : BitVec 5) (d : BitVec 5) : RoundTrip.Statement (.vsubVI c k i a d) :=
  fun hw _ => decode_op23 _ (BitVec.ofBool c) 0x1#6 k i a d _ hw (by simp [decodeOp23])

theorem RoundTrip.vmulVV (c : Bool) (k : BitVec 3) (b : BitVec 5) (a : BitVec 5) (d : BitVec 5) : RoundTrip.Statement (.vmulVV c k b a d) :=
  fun hw _ => decode_op21 _ (BitVec.ofBool c) 0x2#6 k b a d _ hw (by simp [decodeOp21])

theorem RoundTrip.vmulVS (c : Bool) (k : BitVec 3) (b : BitVec 5) (a : BitVec 5) (d : BitVec 5) : RoundTrip.Statement (.vmulVS c k b a d) :=
  fun hw _ => decode_op22 _ (BitVec.ofBool c) 0x2#6 k b a d _ hw (by simp [decodeOp22])

theorem RoundTrip.vmulhVV (c : Bool) (k : BitVec 3) (b : BitVec 5) (a : BitVec 5) (d : BitVec 5) : RoundTrip.Statement (.vmulhVV c k b a d) :=
  fun hw _ => decode_op21 _ (BitVec.ofBool c) 0x3#6 k b a d _ hw (by simp [decodeOp21])

theorem RoundTrip.vmulhVS (c : Bool) (k : BitVec 3) (b : BitVec 5) (a : BitVec 5) (d : BitVec 5) : RoundTrip.Statement (.vmulhVS c k b a d) :=
  fun hw _ => decode_op22 _ (BitVec.ofBool c) 0x3#6 k b a d _ hw (by simp [decodeOp22])

theorem RoundTrip.vfmaVV (c : Bool) (k : BitVec 3) (b : BitVec 5) (a : BitVec 5) (d : BitVec 5) : RoundTrip.Statement (.vfmaVV c k b a d) :=
  fun hw _ => decode_op21 _ (BitVec.ofBool c) 0x4#6 k b a d _ hw (by simp [decodeOp21])

theorem RoundTrip.vfmaVS (c : Bool) (k : BitVec 3) (b : BitVec 5) (a : BitVec 5) (d : BitVec 5) : RoundTrip.Statement (.vfmaVS c k b a d) :=
  fun hw _ => decode_op22 _ (BitVec.ofBool c) 0x4#6 k b a d _ hw (by simp [decodeOp22])

theorem RoundTrip.vdivVV (c : Bool) (k : BitVec 3) (b : BitVec 5) (a : BitVec 5) (d : BitVec 5) : RoundTrip.Statement (.vdivVV c k b a d) :=
  fun hw _ => decode_op21 _ (BitVec.ofBool c) 0x5#6 k b a d _ hw (by simp [decodeOp21])

theorem RoundTrip.vdivVS (c : Bool) (k : BitVec 3) (b : BitVec 5) (a : BitVec 5) (d : BitVec 5) : RoundTrip.Statement (.vdivVS c k b a d) :=
  fun hw _ => decode_op22 _ (BitVec.ofBool c) 0x5#6 k b a d _ hw (by simp [decodeOp22])

theorem RoundTrip.vminVV (c : Bool) (k : BitVec 3) (b : BitVec 5) (a : BitVec 5) (d : BitVec 5) : RoundTrip.Statement (.vminVV c k b a d) :=
  fun hw _ => decode_op21 _ (BitVec.ofBool c) 0x6#6 k b a d _ hw (by simp [decodeOp21])

theorem RoundTrip.vminVS (c : Bool) (k : BitVec 3) (b : BitVec 5) (a : BitVec 5) (d : BitVec 5) : RoundTrip.Statement (.vminVS c k b a d) :=
  fun hw _ => decode_op22 _ (BitVec.ofBool c) 0x6#6 k b a d _ hw (by simp [decodeOp22])

theorem RoundTrip.vmaxVV (c : Bool) (k : BitVec 3) (b : BitVec 5) (a : BitVec 5) (d : BitVec 5) : RoundTrip.Statement (.vmaxVV c k b a d) :=
  fun hw _ => decode_op21 _ (BitVec.ofBool c) 0x7#6 k b a d _ hw (by simp [decodeOp21])

theorem RoundTrip.vmaxVS (c : Bool) (k : BitVec 3) (b : BitVec 5) (a : BitVec 5) (d : BitVec 5) : RoundTrip.Statement (.vmaxVS c k b a d) :=
  fun hw _ => decode_op22 _ (BitVec.ofBool c) 0x7#6 k b a d _ hw (by simp [decodeOp22])

theorem RoundTrip.vandVV (c : Bool) (k : BitVec 3) (b : BitVec 5) (a : BitVec 5) (d : BitVec 5) : RoundTrip.Statement (.vandVV c k b a d) :=
  fun hw _ => decode_op21 _ (BitVec.ofBool c) 0x8#6 k b a d _ hw (by simp [decodeOp21])

theorem RoundTrip.vandVS (c : Bool) (k : BitVec 3) (b : BitVec 5) (a : BitVec 5) (d : BitVec 5) : RoundTrip.Statement (.vandVS c k b a d) :=
  fun hw _ => decode_op22 _ (BitVec.ofBool c) 0x8#6 k b a d _ hw (by simp [decodeOp22])

theorem RoundTrip.vandVI (c : Bool) (k : BitVec 3) (i : BitVec 5) (a : BitVec 5) (d : BitVec 5) : RoundTrip.Statement (.vandVI c k i a d) :=
  fun hw _ => decode_op23 _ (BitVec.ofBool c) 0x8#6 k i a d _ hw (by simp [decodeOp23])

theorem RoundTrip.vorVV (c : Bool) (k : BitVec 3) (b : BitVec 5) (a : BitVec 5) (d : BitVec 5) : RoundTrip.Statement (.vorVV c k b a d) :=
  fun hw _ => decode_op21 _ (BitVec.ofBool c) 0x9#6 k b a d _ hw (by simp [decodeOp21])

theorem RoundTrip.vorVS (c : Bool) (k : BitVec 3) (b : BitVec 5) (a : BitVec 5) (d : BitVec 5) : RoundTrip.Statement (.vorVS c k b a d) :=
  fun hw _ => decode_op22 _ (BitVec.ofBool c) 0x9#6 k b a d _ hw (by simp [decodeOp22])

theorem RoundTrip.vorVI (c : Bool) (k : BitVec 3) (i : BitVec 5) (a : BitVec 5) (d : BitVec 5) : RoundTrip.Statement (.vorVI c k i a d) :=
  fun hw _ => decode_op23 _ (BitVec.ofBool c) 0x9#6 k i a d _ hw (by simp [decodeOp23])

theorem RoundTrip.vxorVV (c : Bool) (k : BitVec 3) (b : BitVec 5) (a : BitVec 5) (d : BitVec 5) : RoundTrip.Statement (.vxorVV c k b a d) :=
  fun hw _ => decode_op21 _ (BitVec.ofBool c) 0xa#6 k b a d _ hw (by simp [decodeOp21])

theorem RoundTrip.vxorVS (c : Bool) (k : BitVec 3) (b : BitVec 5) (a : BitVec 5) (d : BitVec 5) : RoundTrip.Statement (.vxorVS c k b a d) :=
  fun hw _ => decode_op22 _ (BitVec.ofBool c) 0xa#6 k b a d _ hw (by simp [decodeOp22])

theorem RoundTrip.vxorVI (c : Bool) (k : BitVec 3) (i : BitVec 5) (a : BitVec 5) (d : BitVec 5) : RoundTrip.Statement (.vxorVI c k i a d) :=
  fun hw _ => decode_op23 _ (BitVec.ofBool c) 0xa#6 k i a d _ hw (by simp [decodeOp23])

theorem RoundTrip.vshlVV (c : Bool) (k : BitVec 3) (b : BitVec 5) (a : BitVec 5) (d : BitVec 5) : RoundTrip.Statement (.vshlVV c k b a d) :=
  fun hw _ => decode_op21 _ (BitVec.ofBool c) 0xb#6 k b a d _ hw (by simp [decodeOp21])

theorem RoundTrip.vshlVS (c : Bool) (k : BitVec 3) (b : BitVec 5) (a : BitVec 5) (d : BitVec 5) : RoundTrip.Statement (.vshlVS c k b a d) :=
  fun hw _ => decode_op22 _ (BitVec.ofBool c) 0xb#6 k b a d _ hw (by simp [decodeOp22])

theorem RoundTrip.vshlVI (c : Bool) (k : BitVec 3) (i : BitVec 5) (a : BitVec 5) (d : BitVec 5) : RoundTrip.Statement (.vshlVI c k i a d) :=
  fun hw _ => decode_op23 _ (BitVec.ofBool c) 0xb#6 k i a d _ hw (by simp [decodeOp23])

theorem RoundTrip.vshrVV (c : Bool) (k : BitVec 3) (b : BitVec 5) (a : BitVec 5) (d : BitVec 5) : RoundTrip.Statement (.vshrVV c k b a d) :=
  fun hw _ => decode_op21 _ (BitVec.ofBool c) 0xc#6 k b a d _ hw (by simp [decodeOp21])

theorem RoundTrip.vshrVS (c : Bool) (k : BitVec 3) (b : BitVec 5) (a : BitVec 5) (d : BitVec 5) : RoundTrip.Statement (.vshrVS c k b a d) :=
  fun hw _ => decode_op22 _ (BitVec.ofBool c) 0xc#6 k b a d _ hw (by simp [decodeOp22])

theorem RoundTrip.vshrVI (c : Bool) (k : BitVec 3) (i : BitVec 5) (a : BitVec 5) (d : BitVec 5) : RoundTrip.Statement (.vshrVI c k i a d) :=
  fun hw _ => decode_op23 _ (BitVec.ofBool c) 0xc#6 k i a d _ hw (by simp [decodeOp23])

theorem RoundTrip.vldexpVV (c : Bool) (k : BitVec 3) (b : BitVec 5) (a : BitVec 5) (d : BitVec 5) : RoundTrip.Statement (.vldexpVV c k b a d) :=
  fun hw _ => decode_op21 _ (BitVec.ofBool c) 0xd#6 k b a d _ hw (by simp [decodeOp21])

theorem RoundTrip.vldexpVS (c : Bool) (k : BitVec 3) (b : BitVec 5) (a : BitVec 5) (d : BitVec 5) : RoundTrip.Statement (.vldexpVS c k b a d) :=
  fun hw _ => decode_op22 _ (BitVec.ofBool c) 0xd#6 k b a d _ hw (by simp [decodeOp22])

theorem RoundTrip.vldexpVI (c : Bool) (k : BitVec 3) (i : BitVec 5) (a : BitVec 5) (d : BitVec 5) : RoundTrip.Statement (.vldexpVI c k i a d) :=
  fun hw _ => decode_op23 _ (BitVec.ofBool c) 0xd#6 k i a d _ hw (by simp [decodeOp23])

theorem RoundTrip.vselVV (c : Bool) (k : BitVec 3) (b : BitVec 5) (a : BitVec 5) (d : BitVec 5) : RoundTrip.Statement (.vselVV c k b a d) :=
  fun hw _ => decode_op21 _ (BitVec.ofBool c) 0xe#6 k b a d _ hw (by simp [decodeOp21])

theorem RoundTrip.vselVS (c : Bool) (k : BitVec 3) (b : BitVec 5) (a : BitVec 5) (d : BitVec 5) : RoundTrip.Statement (.vselVS c k b a d) :=
  fun hw _ => decode_op22 _ (BitVec.ofBool c) 0xe#6 k b a d _ hw (by simp [decodeOp22])

theorem RoundTrip.vselVI (c : Bool) (k : BitVec 3) (i : BitVec 5) (a : BitVec 5) (d : BitVec 5) : RoundTrip.Statement (.vselVI c k i a d) :=
  fun hw _ => decode_op23 _ (BitVec.ofBool c) 0xe#6 k i a d _ hw (by simp [decodeOp23])

theorem RoundTrip.vadcVV (c : Bool) (k : BitVec 3) (b : BitVec 5) (a : BitVec 5) (d : BitVec 5) : RoundTrip.Statement (.vadcVV c k b a d) :=
  fun hw _ => decode_op21 _ (BitVec.ofBool c) 0xf#6 k b a d _ hw (by simp [decodeOp21])

theorem RoundTrip.vadcVS (c : Bool) (k : BitVec 3) (b : BitVec 5) (a : BitVec 5) (d : BitVec 5) : RoundTrip.Statement (.vadcVS c k b a d) :=
  fun hw _ => decode_op22 _ (BitVec.ofBool c) 0xf#6 k b a d _ hw (by simp [decodeOp22])

theorem RoundTrip.vsbcVV (c : Bool) (k : BitVec 3) (b : BitVec 5) (a : BitVec 5) (d : BitVec 5) : RoundTrip.Statement (.vsbcVV c k b a d) :=
  fun hw _ => decode_op21 _ (BitVec.ofBool c) 0x10#6 k b a d _ hw (by simp [decodeOp21])

theorem RoundTrip.vsbcVS (c : Bool) (k : BitVec 3) (b : BitVec 5) (a : BitVec 5) (d : BitVec 5) : RoundTrip.Statement (.vsbcVS c k b a d) :=
  fun hw _ => decode_op22 _ (BitVec.ofBool c) 0x10#6 k b a d _ hw (by simp [decodeOp22])

theorem RoundTrip.vwaddVV (c : Bool) (k : BitVec 3) (b : BitVec 5) (a : BitVec 5) (d : BitVec 5) : RoundTrip.Statement (.vwaddVV c k b a d) :=
  fun hw _ => decode_op21 _ (BitVec.ofBool c) 0x11#6 k b a d _ hw (by simp [decodeOp21])

theorem RoundTrip.vwaddVS (c : Bool) (k : BitVec 3) (b : BitVec 5) (a : BitVec 5) (d : BitVec 5) : RoundTrip.Statement (.vwaddVS c k b a d) :=
  fun hw _ => decode_op22 _ (BitVec.ofBool c) 0x11#6 k b a d _ hw (by simp [decodeOp22])

theorem RoundTrip.vwmulVV (c : Bool) (k : BitVec 3) (b : BitVec 5) (a : BitVec 5) (d : BitVec 5) : RoundTrip.Statement (.vwmulVV c k b a d) :=
  fun hw _ => decode_op21 _ (BitVec.ofBool c) 0x12#6 k b a d _ hw (by simp [decodeOp21])

theorem RoundTrip.vwmulVS (c : Bool) (k : BitVec 3) (b : BitVec 5) (a : BitVec 5) (d : BitVec 5) : RoundTrip.Statement (.vwmulVS c k b a d) :=
  fun hw _ => decode_op22 _ (BitVec.ofBool c) 0x12#6 k b a d _ hw (by simp [decodeOp22])

theorem RoundTrip.vwfmaVV (c : Bool) (k : BitVec 3) (b : BitVec 5) (a : BitVec 5) (d : BitVec 5) : RoundTrip.Statement (.vwfmaVV c k b a d) :=
  fun hw _ => decode_op21 _ (BitVec.ofBool c) 0x13#6 k b a d _ hw (by simp [decodeOp21])

theorem RoundTrip.vwfmaVS (c : Bool) (k : BitVec 3) (b : BitVec 5) (a : BitVec 5) (d : BitVec 5) : RoundTrip.Statement (.vwfmaVS c k b a d) :=
  fun hw _ => decode_op22 _ (BitVec.ofBool c) 0x13#6 k b a d _ hw (by simp [decodeOp22])

theorem RoundTrip.vsgnVV (c : Bool) (k : BitVec 3) (b : BitVec 5) (a : BitVec 5) (d : BitVec 5) : RoundTrip.Statement (.vsgnVV c k b a d) :=
  fun hw _ => decode_op21 _ (BitVec.ofBool c) 0x14#6 k b a d _ hw (by simp [decodeOp21])

theorem RoundTrip.vsgnVS (c : Bool) (k : BitVec 3) (b : BitVec 5) (a : BitVec 5) (d : BitVec 5) : RoundTrip.Statement (.vsgnVS c k b a d) :=
  fun hw _ => decode_op22 _ (BitVec.ofBool c) 0x14#6 k b a d _ hw (by simp [decodeOp22])

theorem RoundTrip.vabs (c : Bool) (k : BitVec 3) (a : BitVec 5) (d : BitVec 5) : RoundTrip.Statement (.vabs c k a d) :=
  fun hw _ => decode_op24 _ (BitVec.ofBool c) 0 k 0 a d _ hw (by simp [decodeOp24])

theorem RoundTrip.vrnd (c : Bool) (k : BitVec 3) (m : BitVec 3) (a : BitVec 5) (d : BitVec 5) : RoundTrip.Statement (.vrnd c k m a d) :=
  fun hw _ => decode_op24 _ (BitVec.ofBool c) 0x1#6 k (0x0#2 ++ m) a d _ hw (by simp [decodeOp24, at_2_3_0_3, at_2_3_3_2])

theorem RoundTrip.vcvt (c : Bool) (k : BitVec 3) (t : BitVec 5) (a : BitVec 5) (d : BitVec 5) : RoundTrip.Statement (.vcvt c k t a d) :=
  fun hw _ => decode_op24 _ (BitVec.ofBool c) 0x2#6 k t a d _ hw (by simp [decodeOp24])

theorem RoundTrip.vunpack (c : Bool) (k : BitVec 3) (t : BitVec 5) (a : BitVec 5) (d : BitVec 5) : RoundTrip.Statement (.vunpack c k t a d) :=
  fun hw _ => decode_op24 _ (BitVec.ofBool c) 0x3#6 k t a d _ hw (by simp [decodeOp24])

theorem RoundTrip.vsfuRcp (c : Bool) (k : BitVec 3) (a : BitVec 5) (d : BitVec 5) : RoundTrip.Statement (.vsfuRcp c k a d) :=
  fun hw _ => decode_op24 _ (BitVec.ofBool c) 0x4#6 k 0 a d _ hw (by simp [decodeOp24])

theorem RoundTrip.vsfuRsqrt (c : Bool) (k : BitVec 3) (a : BitVec 5) (d : BitVec 5) : RoundTrip.Statement (.vsfuRsqrt c k a d) :=
  fun hw _ => decode_op24 _ (BitVec.ofBool c) 0x4#6 k 0x1#5 a d _ hw (by simp [decodeOp24])

theorem RoundTrip.vsfuSqrt (c : Bool) (k : BitVec 3) (a : BitVec 5) (d : BitVec 5) : RoundTrip.Statement (.vsfuSqrt c k a d) :=
  fun hw _ => decode_op24 _ (BitVec.ofBool c) 0x4#6 k 0x2#5 a d _ hw (by simp [decodeOp24])

theorem RoundTrip.vsfuExp2 (c : Bool) (k : BitVec 3) (a : BitVec 5) (d : BitVec 5) : RoundTrip.Statement (.vsfuExp2 c k a d) :=
  fun hw _ => decode_op24 _ (BitVec.ofBool c) 0x4#6 k 0x3#5 a d _ hw (by simp [decodeOp24])

theorem RoundTrip.vsfuLog2 (c : Bool) (k : BitVec 3) (a : BitVec 5) (d : BitVec 5) : RoundTrip.Statement (.vsfuLog2 c k a d) :=
  fun hw _ => decode_op24 _ (BitVec.ofBool c) 0x4#6 k 0x4#5 a d _ hw (by simp [decodeOp24])

theorem RoundTrip.vsfuSin (c : Bool) (k : BitVec 3) (a : BitVec 5) (d : BitVec 5) : RoundTrip.Statement (.vsfuSin c k a d) :=
  fun hw _ => decode_op24 _ (BitVec.ofBool c) 0x4#6 k 0x5#5 a d _ hw (by simp [decodeOp24])

theorem RoundTrip.vsfuCos (c : Bool) (k : BitVec 3) (a : BitVec 5) (d : BitVec 5) : RoundTrip.Statement (.vsfuCos c k a d) :=
  fun hw _ => decode_op24 _ (BitVec.ofBool c) 0x4#6 k 0x6#5 a d _ hw (by simp [decodeOp24])

theorem RoundTrip.vcmpEqVV (c : Bool) (k : BitVec 3) (b : BitVec 5) (a : BitVec 5) (d : BitVec 5) : RoundTrip.Statement (.vcmpEqVV c k b a d) :=
  fun hw _ => decode_op25 _ (BitVec.ofBool c) 0 k b a d _ hw (by simp [decodeOp25])

theorem RoundTrip.vcmpNeVV (c : Bool) (k : BitVec 3) (b : BitVec 5) (a : BitVec 5) (d : BitVec 5) : RoundTrip.Statement (.vcmpNeVV c k b a d) :=
  fun hw _ => decode_op25 _ (BitVec.ofBool c) 0x1#6 k b a d _ hw (by simp [decodeOp25])

theorem RoundTrip.vcmpLtVV (c : Bool) (k : BitVec 3) (b : BitVec 5) (a : BitVec 5) (d : BitVec 5) : RoundTrip.Statement (.vcmpLtVV c k b a d) :=
  fun hw _ => decode_op25 _ (BitVec.ofBool c) 0x2#6 k b a d _ hw (by simp [decodeOp25])

theorem RoundTrip.vcmpLeVV (c : Bool) (k : BitVec 3) (b : BitVec 5) (a : BitVec 5) (d : BitVec 5) : RoundTrip.Statement (.vcmpLeVV c k b a d) :=
  fun hw _ => decode_op25 _ (BitVec.ofBool c) 0x3#6 k b a d _ hw (by simp [decodeOp25])

theorem RoundTrip.vcmpGtVV (c : Bool) (k : BitVec 3) (b : BitVec 5) (a : BitVec 5) (d : BitVec 5) : RoundTrip.Statement (.vcmpGtVV c k b a d) :=
  fun hw _ => decode_op25 _ (BitVec.ofBool c) 0x4#6 k b a d _ hw (by simp [decodeOp25])

theorem RoundTrip.vcmpGeVV (c : Bool) (k : BitVec 3) (b : BitVec 5) (a : BitVec 5) (d : BitVec 5) : RoundTrip.Statement (.vcmpGeVV c k b a d) :=
  fun hw _ => decode_op25 _ (BitVec.ofBool c) 0x5#6 k b a d _ hw (by simp [decodeOp25])

theorem RoundTrip.vcmpOrdVV (c : Bool) (k : BitVec 3) (b : BitVec 5) (a : BitVec 5) (d : BitVec 5) : RoundTrip.Statement (.vcmpOrdVV c k b a d) :=
  fun hw _ => decode_op25 _ (BitVec.ofBool c) 0x6#6 k b a d _ hw (by simp [decodeOp25])

theorem RoundTrip.vcmpUnordVV (c : Bool) (k : BitVec 3) (b : BitVec 5) (a : BitVec 5) (d : BitVec 5) : RoundTrip.Statement (.vcmpUnordVV c k b a d) :=
  fun hw _ => decode_op25 _ (BitVec.ofBool c) 0x7#6 k b a d _ hw (by simp [decodeOp25])

theorem RoundTrip.vcmpEqVS (c : Bool) (k : BitVec 3) (b : BitVec 5) (a : BitVec 5) (d : BitVec 5) : RoundTrip.Statement (.vcmpEqVS c k b a d) :=
  fun hw _ => decode_op26 _ (BitVec.ofBool c) 0 k b a d _ hw (by simp [decodeOp26])

theorem RoundTrip.vcmpNeVS (c : Bool) (k : BitVec 3) (b : BitVec 5) (a : BitVec 5) (d : BitVec 5) : RoundTrip.Statement (.vcmpNeVS c k b a d) :=
  fun hw _ => decode_op26 _ (BitVec.ofBool c) 0x1#6 k b a d _ hw (by simp [decodeOp26])

theorem RoundTrip.vcmpLtVS (c : Bool) (k : BitVec 3) (b : BitVec 5) (a : BitVec 5) (d : BitVec 5) : RoundTrip.Statement (.vcmpLtVS c k b a d) :=
  fun hw _ => decode_op26 _ (BitVec.ofBool c) 0x2#6 k b a d _ hw (by simp [decodeOp26])

theorem RoundTrip.vcmpLeVS (c : Bool) (k : BitVec 3) (b : BitVec 5) (a : BitVec 5) (d : BitVec 5) : RoundTrip.Statement (.vcmpLeVS c k b a d) :=
  fun hw _ => decode_op26 _ (BitVec.ofBool c) 0x3#6 k b a d _ hw (by simp [decodeOp26])

theorem RoundTrip.vcmpGtVS (c : Bool) (k : BitVec 3) (b : BitVec 5) (a : BitVec 5) (d : BitVec 5) : RoundTrip.Statement (.vcmpGtVS c k b a d) :=
  fun hw _ => decode_op26 _ (BitVec.ofBool c) 0x4#6 k b a d _ hw (by simp [decodeOp26])

theorem RoundTrip.vcmpGeVS (c : Bool) (k : BitVec 3) (b : BitVec 5) (a : BitVec 5) (d : BitVec 5) : RoundTrip.Statement (.vcmpGeVS c k b a d) :=
  fun hw _ => decode_op26 _ (BitVec.ofBool c) 0x5#6 k b a d _ hw (by simp [decodeOp26])

theorem RoundTrip.vcmpOrdVS (c : Bool) (k : BitVec 3) (b : BitVec 5) (a : BitVec 5) (d : BitVec 5) : RoundTrip.Statement (.vcmpOrdVS c k b a d) :=
  fun hw _ => decode_op26 _ (BitVec.ofBool c) 0x6#6 k b a d _ hw (by simp [decodeOp26])

theorem RoundTrip.vcmpUnordVS (c : Bool) (k : BitVec 3) (b : BitVec 5) (a : BitVec 5) (d : BitVec 5) : RoundTrip.Statement (.vcmpUnordVS c k b a d) :=
  fun hw _ => decode_op26 _ (BitVec.ofBool c) 0x7#6 k b a d _ hw (by simp [decodeOp26])

theorem RoundTrip.kand (c : Bool) (b : BitVec 5) (a : BitVec 5) (d : BitVec 5) : RoundTrip.Statement (.kand c b a d) :=
  fun hw _ => decode_op27 _ (BitVec.ofBool c) 0 0 b a d _ hw (by simp [decodeOp27])

theorem RoundTrip.kor (c : Bool) (b : BitVec 5) (a : BitVec 5) (d : BitVec 5) : RoundTrip.Statement (.kor c b a d) :=
  fun hw _ => decode_op27 _ (BitVec.ofBool c) 0x1#6 0 b a d _ hw (by simp [decodeOp27])

theorem RoundTrip.kxor (c : Bool) (b : BitVec 5) (a : BitVec 5) (d : BitVec 5) : RoundTrip.Statement (.kxor c b a d) :=
  fun hw _ => decode_op27 _ (BitVec.ofBool c) 0x2#6 0 b a d _ hw (by simp [decodeOp27])

theorem RoundTrip.kandn (c : Bool) (b : BitVec 5) (a : BitVec 5) (d : BitVec 5) : RoundTrip.Statement (.kandn c b a d) :=
  fun hw _ => decode_op27 _ (BitVec.ofBool c) 0x3#6 0 b a d _ hw (by simp [decodeOp27])

theorem RoundTrip.knot (c : Bool) (a : BitVec 5) (d : BitVec 5) : RoundTrip.Statement (.knot c a d) :=
  fun hw _ => decode_op27 _ (BitVec.ofBool c) 0x4#6 0 0 a d _ hw (by simp [decodeOp27])

theorem RoundTrip.kshl (c : Bool) (a : BitVec 5) (d : BitVec 5) : RoundTrip.Statement (.kshl c a d) :=
  fun hw _ => decode_op27 _ (BitVec.ofBool c) 0x5#6 0 0 a d _ hw (by simp [decodeOp27])

theorem RoundTrip.kshr (c : Bool) (a : BitVec 5) (d : BitVec 5) : RoundTrip.Statement (.kshr c a d) :=
  fun hw _ => decode_op27 _ (BitVec.ofBool c) 0x6#6 0 0 a d _ hw (by simp [decodeOp27])

theorem RoundTrip.kpopc (c : Bool) (a : BitVec 5) (d : BitVec 5) : RoundTrip.Statement (.kpopc c a d) :=
  fun hw _ => decode_op27 _ (BitVec.ofBool c) 0x7#6 0 0 a d _ hw (by simp [decodeOp27])

theorem RoundTrip.kfirst (c : Bool) (a : BitVec 5) (d : BitVec 5) : RoundTrip.Statement (.kfirst c a d) :=
  fun hw _ => decode_op27 _ (BitVec.ofBool c) 0x8#6 0 0 a d _ hw (by simp [decodeOp27])

theorem RoundTrip.kmovs (c : Bool) (a : BitVec 5) (d : BitVec 5) : RoundTrip.Statement (.kmovs c a d) :=
  fun hw _ => decode_op27 _ (BitVec.ofBool c) 0x9#6 0 0 a d _ hw (by simp [decodeOp27])

theorem RoundTrip.vzip (c : Bool) (a : BitVec 5) (d : BitVec 5) : RoundTrip.Statement (.vzip c a d) :=
  fun hw _ => decode_op28 _ (BitVec.ofBool c) 0 0 0 a d _ hw (by simp [decodeOp28])

theorem RoundTrip.vunzip (c : Bool) (a : BitVec 5) (d : BitVec 5) : RoundTrip.Statement (.vunzip c a d) :=
  fun hw _ => decode_op28 _ (BitVec.ofBool c) 0x1#6 0 0 a d _ hw (by simp [decodeOp28])

theorem RoundTrip.vpack2 (c : Bool) (y : Bool) (m : BitVec 3) (t : BitVec 5) (a : BitVec 5) (d : BitVec 5) : RoundTrip.Statement (.vpack2 c y m t a d) :=
  fun hw _ => decode_op28 _ (BitVec.ofBool c) ((BitVec.ofBool y) ++ 0x2#5) m t a d _ hw (by cases y <;> simp [decodeOp28])

theorem RoundTrip.vpack4 (c : Bool) (y : Bool) (m : BitVec 3) (t : BitVec 5) (a : BitVec 5) (d : BitVec 5) : RoundTrip.Statement (.vpack4 c y m t a d) :=
  fun hw _ => decode_op28 _ (BitVec.ofBool c) ((BitVec.ofBool y) ++ 0x3#5) m t a d _ hw (by cases y <;> simp [decodeOp28])

theorem RoundTrip.vgather (c : Bool) (k : BitVec 3) (b : BitVec 5) (a : BitVec 5) (d : BitVec 5) : RoundTrip.Statement (.vgather c k b a d) :=
  fun hw _ => decode_op29 _ (BitVec.ofBool c) 0 k b a d _ hw (by simp [decodeOp29])

theorem RoundTrip.vcompress (c : Bool) (k : BitVec 3) (a : BitVec 5) (d : BitVec 5) : RoundTrip.Statement (.vcompress c k a d) :=
  fun hw _ => decode_op29 _ (BitVec.ofBool c) 0x1#6 k 0 a d _ hw (by simp [decodeOp29])

theorem RoundTrip.vexpand (c : Bool) (k : BitVec 3) (a : BitVec 5) (d : BitVec 5) : RoundTrip.Statement (.vexpand c k a d) :=
  fun hw _ => decode_op29 _ (BitVec.ofBool c) 0x2#6 k 0 a d _ hw (by simp [decodeOp29])

theorem RoundTrip.vmv (c : Bool) (k : BitVec 3) (a : BitVec 5) (d : BitVec 5) : RoundTrip.Statement (.vmv c k a d) :=
  fun hw _ => decode_op29 _ (BitVec.ofBool c) 0x3#6 k 0 a d _ hw (by simp [decodeOp29])

theorem RoundTrip.viota (c : Bool) (k : BitVec 3) (d : BitVec 5) : RoundTrip.Statement (.viota c k d) :=
  fun hw _ => decode_op29 _ (BitVec.ofBool c) 0x4#6 k 0 0 d _ hw (by simp [decodeOp29])

theorem RoundTrip.vidx (c : Bool) (k : BitVec 3) (d : BitVec 5) : RoundTrip.Statement (.vidx c k d) :=
  fun hw _ => decode_op29 _ (BitVec.ofBool c) 0x5#6 k 0 0 d _ hw (by simp [decodeOp29])

theorem RoundTrip.vslideup (c : Bool) (k : BitVec 3) (b : BitVec 5) (a : BitVec 5) (d : BitVec 5) : RoundTrip.Statement (.vslideup c k b a d) :=
  fun hw _ => decode_op2A _ (BitVec.ofBool c) 0 k b a d _ hw (by simp [decodeOp2A])

theorem RoundTrip.vslidedn (c : Bool) (k : BitVec 3) (b : BitVec 5) (a : BitVec 5) (d : BitVec 5) : RoundTrip.Statement (.vslidedn c k b a d) :=
  fun hw _ => decode_op2A _ (BitVec.ofBool c) 0x1#6 k b a d _ hw (by simp [decodeOp2A])

theorem RoundTrip.vslide1 (c : Bool) (k : BitVec 3) (b : BitVec 5) (a : BitVec 5) (d : BitVec 5) : RoundTrip.Statement (.vslide1 c k b a d) :=
  fun hw _ => decode_op2A _ (BitVec.ofBool c) 0x2#6 k b a d _ hw (by simp [decodeOp2A])

theorem RoundTrip.vbcast (c : Bool) (k : BitVec 3) (b : BitVec 5) (d : BitVec 5) : RoundTrip.Statement (.vbcast c k b d) :=
  fun hw _ => decode_op2A _ (BitVec.ofBool c) 0x3#6 k b 0 d _ hw (by simp [decodeOp2A])

theorem RoundTrip.vext (c : Bool) (b : BitVec 5) (a : BitVec 5) (d : BitVec 5) : RoundTrip.Statement (.vext c b a d) :=
  fun hw _ => decode_op2A _ (BitVec.ofBool c) 0x4#6 0 b a d _ hw (by simp [decodeOp2A])

theorem RoundTrip.vins (c : Bool) (b : BitVec 5) (a : BitVec 5) (d : BitVec 5) : RoundTrip.Statement (.vins c b a d) :=
  fun hw _ => decode_op2A _ (BitVec.ofBool c) 0x5#6 0 b a d _ hw (by simp [decodeOp2A])

theorem RoundTrip.vxchg (b : BitVec 5) (a : BitVec 5) (d : BitVec 5) : RoundTrip.Statement (.vxchg b a d) :=
  fun hw _ => decode_op2A _ 0 0x6#6 0 b a d _ hw (by simp [decodeOp2A])

theorem RoundTrip.vrsumO (c : Bool) (k : BitVec 3) (a : BitVec 5) (d : BitVec 5) : RoundTrip.Statement (.vrsumO c k a d) :=
  fun hw _ => decode_op2B _ (BitVec.ofBool c) 0 k 0 a d _ hw (by simp [decodeOp2B])

theorem RoundTrip.vrsumT (c : Bool) (k : BitVec 3) (a : BitVec 5) (d : BitVec 5) : RoundTrip.Statement (.vrsumT c k a d) :=
  fun hw _ => decode_op2B _ (BitVec.ofBool c) 0x1#6 k 0 a d _ hw (by simp [decodeOp2B])

theorem RoundTrip.vrmax (c : Bool) (k : BitVec 3) (a : BitVec 5) (d : BitVec 5) : RoundTrip.Statement (.vrmax c k a d) :=
  fun hw _ => decode_op2B _ (BitVec.ofBool c) 0x2#6 k 0 a d _ hw (by simp [decodeOp2B])

theorem RoundTrip.vrmin (c : Bool) (k : BitVec 3) (a : BitVec 5) (d : BitVec 5) : RoundTrip.Statement (.vrmin c k a d) :=
  fun hw _ => decode_op2B _ (BitVec.ofBool c) 0x3#6 k 0 a d _ hw (by simp [decodeOp2B])

theorem RoundTrip.vrlog (c : Bool) (k : BitVec 3) (a : BitVec 5) (d : BitVec 5) : RoundTrip.Statement (.vrlog c k a d) :=
  fun hw _ => decode_op2B _ (BitVec.ofBool c) 0x4#6 k 0 a d _ hw (by simp [decodeOp2B])

theorem RoundTrip.vmaxidx (c : Bool) (k : BitVec 3) (a : BitVec 5) (d : BitVec 5) : RoundTrip.Statement (.vmaxidx c k a d) :=
  fun hw _ => decode_op2B _ (BitVec.ofBool c) 0x5#6 k 0 a d _ hw (by simp [decodeOp2B])

theorem RoundTrip.vsoft (c : Bool) (k : BitVec 3) (b : BitVec 5) (a : BitVec 5) (d : BitVec 5) : RoundTrip.Statement (.vsoft c k b a d) :=
  fun hw _ => decode_op2C _ (BitVec.ofBool c) 0 k b a d _ hw (by simp [decodeOp2C])

theorem RoundTrip.vrand (c : Bool) (k : BitVec 3) (d : BitVec 5) : RoundTrip.Statement (.vrand c k d) :=
  fun hw _ => decode_op2C _ (BitVec.ofBool c) 0x1#6 k 0 0 d _ hw (by simp [decodeOp2C])

theorem RoundTrip.vrope (c : Bool) (k : BitVec 3) (b : BitVec 5) (a : BitVec 5) (d : BitVec 5) : RoundTrip.Statement (.vrope c k b a d) :=
  fun hw _ => decode_op2C _ (BitVec.ofBool c) 0x2#6 k b a d _ hw (by simp [decodeOp2C])

theorem RoundTrip.vsort (c : Bool) (x : Bool) (p : Bool) (a : BitVec 5) (d : BitVec 5) : RoundTrip.Statement (.vsort c x p a d) :=
  fun hw _ => decode_op40 _ (BitVec.ofBool c) (0x0#4 ++ (BitVec.ofBool x) ++ (BitVec.ofBool p)) 0 0 a d _ hw (by simp [decodeOp40, at_4_b_b_2_4, at_4_b_b_bit0, at_4_b_b_bit1])

theorem RoundTrip.vchks (c : Bool) (x : Bool) (a : BitVec 5) (d : BitVec 5) : RoundTrip.Statement (.vchks c x a d) :=
  fun hw _ => decode_op41 _ (BitVec.ofBool c) (0x0#4 ++ (BitVec.ofBool x) ++ 0x0#1) 0 0 a d _ hw (by simp [decodeOp41, at_4_b_1_0_1, at_4_b_1_2_4, at_4_b_1_bit1])

theorem RoundTrip.vlds (c : Bool) (q : BitVec 3) (y : Bool) (x : Bool) (p : Bool) (s : BitVec 5) (a : BitVec 5) (d : BitVec 5) : RoundTrip.Statement (.vlds c q y x p s a d) :=
  fun hw _ => decode_op42 _ (BitVec.ofBool c) (q ++ (BitVec.ofBool y) ++ (BitVec.ofBool x) ++ (BitVec.ofBool p)) 0 s a d _ hw (by simp [decodeOp42, at_3_b_b_b_3_3, at_3_b_b_b_bit0, at_3_b_b_b_bit1, at_3_b_b_b_bit2])

theorem RoundTrip.vmergeLo (c : Bool) (b : BitVec 5) (a : BitVec 5) (d : BitVec 5) : RoundTrip.Statement (.vmergeLo c b a d) :=
  fun hw _ => decode_op43 _ (BitVec.ofBool c) 0 0 b a d _ hw (by simp [decodeOp43])

theorem RoundTrip.vmergeHi (c : Bool) (b : BitVec 5) (a : BitVec 5) (d : BitVec 5) : RoundTrip.Statement (.vmergeHi c b a d) :=
  fun hw _ => decode_op43 _ (BitVec.ofBool c) 0x1#6 0 b a d _ hw (by simp [decodeOp43])

theorem RoundTrip.vmergec (c : Bool) (s : BitVec 5) (b : BitVec 5) (a : BitVec 5) (d : BitVec 5) : RoundTrip.Statement (.vmergec c s b a d) :=
  fun hw _ => decode_op43 _ (BitVec.ofBool c) (0x1#1 ++ s) 0 b a d _ hw (by simp [decodeOp43, at_1_5_0_5, at_1_5_5_1, show ∀ s : BitVec 5, (1#1 ++ s : BitVec 6) ≠ 0#6 by decide, show ∀ s : BitVec 5, (1#1 ++ s : BitVec 6) ≠ 1#6 by decide])

theorem RoundTrip.vinter (c : Bool) (b : BitVec 5) (a : BitVec 5) (d : BitVec 5) : RoundTrip.Statement (.vinter c b a d) :=
  fun hw _ => decode_op44 _ (BitVec.ofBool c) 0 0 b a d _ hw (by simp [decodeOp44])

theorem RoundTrip.vuniq (c : Bool) (a : BitVec 5) (d : BitVec 5) : RoundTrip.Statement (.vuniq c a d) :=
  fun hw _ => decode_op44 _ (BitVec.ofBool c) 0x1#6 0 0 a d _ hw (by simp [decodeOp44])

theorem RoundTrip.vsrev (c : Bool) (a : BitVec 5) (d : BitVec 5) : RoundTrip.Statement (.vsrev c a d) :=
  fun hw _ => decode_op44 _ (BitVec.ofBool c) 0x2#6 0 0 a d _ hw (by simp [decodeOp44])

theorem RoundTrip.vcmx (c : Bool) (k : BitVec 3) (a : BitVec 5) (d : BitVec 5) : RoundTrip.Statement (.vcmx c k a d) :=
  fun hw _ => decode_op44 _ (BitVec.ofBool c) 0x3#6 k 0 a d _ hw (by simp [decodeOp44])

theorem RoundTrip.vrankLb (c : Bool) (b : BitVec 5) (a : BitVec 5) (d : BitVec 5) : RoundTrip.Statement (.vrankLb c b a d) :=
  fun hw _ => decode_op44 _ (BitVec.ofBool c) 0x4#6 0 b a d _ hw (by simp [decodeOp44])

theorem RoundTrip.vrankUb (c : Bool) (b : BitVec 5) (a : BitVec 5) (d : BitVec 5) : RoundTrip.Statement (.vrankUb c b a d) :=
  fun hw _ => decode_op44 _ (BitVec.ofBool c) 0x5#6 0 b a d _ hw (by simp [decodeOp44])

theorem RoundTrip.vpart (c : Bool) (b : BitVec 5) (a : BitVec 5) (d : BitVec 5) : RoundTrip.Statement (.vpart c b a d) :=
  fun hw _ => decode_op44 _ (BitVec.ofBool c) 0x6#6 0 b a d _ hw (by simp [decodeOp44])

theorem RoundTrip.zrcfg (q : BitVec 3) (b : BitVec 5) (a : BitVec 5) (z : BitVec 3) : RoundTrip.Statement (.zrcfg q b a z) :=
  fun hw _ => decode_op45 _ 0 0 q b a (0x0#2 ++ z) _ hw (by simp [decodeOp45, at_2_3_0_3, at_2_3_3_2])

theorem RoundTrip.zrpush (c : Bool) (k : BitVec 3) (a : BitVec 5) (z : BitVec 3) : RoundTrip.Statement (.zrpush c k a z) :=
  fun hw _ => decode_op45 _ (BitVec.ofBool c) 0x1#6 k 0 a (0x0#2 ++ z) _ hw (by simp [decodeOp45, at_2_3_0_3, at_2_3_3_2])

theorem RoundTrip.zrpushL (c : Bool) (k : BitVec 3) (b : BitVec 5) (a : BitVec 5) (z : BitVec 3) : RoundTrip.Statement (.zrpushL c k b a z) :=
  fun hw _ => decode_op45 _ (BitVec.ofBool c) 0x2#6 k b a (0x0#2 ++ z) _ hw (by simp [decodeOp45, at_2_3_0_3, at_2_3_3_2])

theorem RoundTrip.zrmerge (q : BitVec 3) (a : BitVec 5) (z : BitVec 3) : RoundTrip.Statement (.zrmerge q a z) :=
  fun hw _ => decode_op45 _ 0 0x3#6 q 0 a (0x0#2 ++ z) _ hw (by simp [decodeOp45, at_2_3_0_3, at_2_3_3_2])

theorem RoundTrip.zrst (q : BitVec 3) (a : BitVec 5) (z : BitVec 3) : RoundTrip.Statement (.zrst q a z) :=
  fun hw _ => decode_op45 _ 0 0x4#6 q 0 a (0x0#2 ++ z) _ hw (by simp [decodeOp45, at_2_3_0_3, at_2_3_3_2])

theorem RoundTrip.zrread (k : BitVec 5) (a : BitVec 5) (z : BitVec 3) : RoundTrip.Statement (.zrread k a z) :=
  fun hw _ => decode_op45 _ 0 0x5#6 0 k a (0x0#2 ++ z) _ hw (by simp [decodeOp45, at_2_3_0_3, at_2_3_3_2])

theorem RoundTrip.zrhdr (a : BitVec 5) (z : BitVec 3) : RoundTrip.Statement (.zrhdr a z) :=
  fun hw _ => decode_op45 _ 0 0x6#6 0 0 a (0x0#2 ++ z) _ hw (by simp [decodeOp45, at_2_3_0_3, at_2_3_3_2])

theorem RoundTrip.zrth (a : BitVec 5) (z : BitVec 3) : RoundTrip.Statement (.zrth a z) :=
  fun hw _ => decode_op45 _ 0 0x7#6 0 0 a (0x0#2 ++ z) _ hw (by simp [decodeOp45, at_2_3_0_3, at_2_3_3_2])

theorem RoundTrip.vroute (k : BitVec 3) (b : BitVec 5) (a : BitVec 5) (d : BitVec 5) : RoundTrip.Statement (.vroute k b a d) :=
  fun hw _ => decode_op46 _ 0 0 k b a d _ hw (by simp [decodeOp46])

theorem RoundTrip.zop (c : Bool) (k : BitVec 3) (b : BitVec 5) (a : BitVec 5) (z : BitVec 3) : RoundTrip.Statement (.zop c k b a z) :=
  fun hw _ => decode_op50 _ (BitVec.ofBool c) 0 k b a (0x0#2 ++ z) _ hw (by simp [decodeOp50, at_2_3_0_3, at_2_3_3_2])

theorem RoundTrip.zops (c : Bool) (k : BitVec 3) (b : BitVec 5) (a : BitVec 5) (z : BitVec 3) : RoundTrip.Statement (.zops c k b a z) :=
  fun hw _ => decode_op50 _ (BitVec.ofBool c) 0x1#6 k b a (0x0#2 ++ z) _ hw (by simp [decodeOp50, at_2_3_0_3, at_2_3_3_2])

theorem RoundTrip.zpop (c : Bool) (k : BitVec 3) (b : BitVec 5) (a : BitVec 5) (z : BitVec 3) : RoundTrip.Statement (.zpop c k b a z) :=
  fun hw _ => decode_op50 _ (BitVec.ofBool c) 0x2#6 k b a (0x0#2 ++ z) _ hw (by simp [decodeOp50, at_2_3_0_3, at_2_3_3_2])

theorem RoundTrip.zmovv (c : Bool) (k : BitVec 3) (d : BitVec 5) (a : BitVec 5) (m : BitVec 2) (z : BitVec 3) : RoundTrip.Statement (.zmovv c k d a m z) :=
  fun hw _ => decode_op51 _ (BitVec.ofBool c) 0 k d a (m ++ z) _ hw (by simp [decodeOp51, at_2_3_0_3, at_2_3_3_2])

theorem RoundTrip.zmovz (c : Bool) (k : BitVec 3) (d : BitVec 5) (a : BitVec 5) (m : BitVec 2) (z : BitVec 3) : RoundTrip.Statement (.zmovz c k d a m z) :=
  fun hw _ => decode_op51 _ (BitVec.ofBool c) 0x1#6 k d a (m ++ z) _ hw (by simp [decodeOp51, at_2_3_0_3, at_2_3_3_2])

theorem RoundTrip.zcvt (c : Bool) (k : BitVec 3) (d : BitVec 5) (a : BitVec 5) (m : BitVec 2) (z : BitVec 3) : RoundTrip.Statement (.zcvt c k d a m z) :=
  fun hw _ => decode_op51 _ (BitVec.ofBool c) 0x2#6 k d a (m ++ z) _ hw (by simp [decodeOp51, at_2_3_0_3, at_2_3_3_2])

theorem RoundTrip.zcvtSc (c : Bool) (k : BitVec 3) (d : BitVec 5) (a : BitVec 5) (m : BitVec 2) (z : BitVec 3) : RoundTrip.Statement (.zcvtSc c k d a m z) :=
  fun hw _ => decode_op51 _ (BitVec.ofBool c) 0x3#6 k d a (m ++ z) _ hw (by simp [decodeOp51, at_2_3_0_3, at_2_3_3_2])

theorem RoundTrip.zrowstat (c : Bool) (k : BitVec 3) (d : BitVec 5) (a : BitVec 5) (m : BitVec 2) (z : BitVec 3) : RoundTrip.Statement (.zrowstat c k d a m z) :=
  fun hw _ => decode_op51 _ (BitVec.ofBool c) 0x4#6 k d a (m ++ z) _ hw (by simp [decodeOp51, at_2_3_0_3, at_2_3_3_2])

theorem RoundTrip.zclr (m : Bool) (z : BitVec 3) : RoundTrip.Statement (.zclr m z) :=
  fun hw _ => decode_op52 _ 0 0 0 0 0 (0x0#1 ++ (BitVec.ofBool m) ++ z) _ hw (by simp [decodeOp52, at_1_b_3_0_3, at_1_b_3_4_1, at_1_b_3_bit3])

theorem RoundTrip.zwait (a : BitVec 5) (z : BitVec 3) : RoundTrip.Statement (.zwait a z) :=
  fun hw _ => decode_op52 _ 0 0x1#6 0 0 a (0x0#2 ++ z) _ hw (by simp [decodeOp52, at_2_3_0_3, at_2_3_3_2])

theorem RoundTrip.zld (b : BitVec 5) (h : BitVec 4) (t : Bool) (z : BitVec 3) : RoundTrip.Statement (.zld b h t z) :=
  fun hw _ => decode_op53 _ 0 0 0 b (0x0#1 ++ h) (0x0#1 ++ (BitVec.ofBool t) ++ z) _ hw (by simp [decodeOp53, at_1_b_3_0_3, at_1_b_3_4_1, at_1_b_3_bit3, at_1_4_0_4, at_1_4_4_1])

theorem RoundTrip.zst (b : BitVec 5) (h : BitVec 4) (t : Bool) (z : BitVec 3) : RoundTrip.Statement (.zst b h t z) :=
  fun hw _ => decode_op53 _ 0 0x1#6 0 b (0x0#1 ++ h) (0x0#1 ++ (BitVec.ofBool t) ++ z) _ hw (by simp [decodeOp53, at_1_b_3_0_3, at_1_b_3_4_1, at_1_b_3_bit3, at_1_4_0_4, at_1_4_4_1])

theorem RoundTrip.pcvt (c : Bool) (y : Bool) (x : Bool) (p : BitVec 4) (k : BitVec 3) (b : BitVec 5) (a : BitVec 5) (d : BitVec 5) : RoundTrip.Statement (.pcvt c y x p k b a d) :=
  fun hw _ => decode_op54 _ (BitVec.ofBool c) ((BitVec.ofBool y) ++ (BitVec.ofBool x) ++ p) k b a d _ hw (by simp [decodeOp54, at_b_b_4_0_4, at_b_b_4_bit4, at_b_b_4_bit5])

theorem RoundTrip.gtscfg (q : BitVec 3) (b : BitVec 5) (a : BitVec 5) : RoundTrip.Statement (.gtscfg q b a) :=
  fun hw _ => decode_op55 _ 0 0 q b a 0 _ hw (by simp [decodeOp55])

theorem RoundTrip.gtsnext (a : BitVec 5) : RoundTrip.Statement (.gtsnext a) :=
  fun hw _ => decode_op55 _ 0 0x1#6 0 0 a 0 _ hw (by simp [decodeOp55])

theorem RoundTrip.vprobe (b : BitVec 5) (a : BitVec 5) (q : BitVec 3) : RoundTrip.Statement (.vprobe b a q) :=
  fun hw _ => decode_op60 _ 0 0 0 b a (0x0#2 ++ q) _ hw (by simp [decodeOp60, at_2_3_0_3, at_2_3_3_2])

theorem RoundTrip.vprobeFf (b : BitVec 5) (a : BitVec 5) (q : BitVec 3) : RoundTrip.Statement (.vprobeFf b a q) :=
  fun hw _ => decode_op60 _ 0 0x1#6 0 b a (0x0#2 ++ q) _ hw (by simp [decodeOp60, at_2_3_0_3, at_2_3_3_2])

theorem RoundTrip.vunpin (q : BitVec 3) : RoundTrip.Statement (.vunpin q) :=
  fun hw _ => decode_op60 _ 0 0x2#6 0 0 0 (0x0#2 ++ q) _ hw (by simp [decodeOp60, at_2_3_0_3, at_2_3_3_2])

theorem RoundTrip.vld (c : Bool) (q : BitVec 3) (k : BitVec 3) (b : BitVec 5) (a : BitVec 5) (d : BitVec 5) : RoundTrip.Statement (.vld c q k b a d) :=
  fun hw _ => decode_op61 _ (BitVec.ofBool c) (q ++ 0x0#3) k b a d _ hw (by simp [decodeOp61, at_3_3_0_3, at_3_3_3_3])

theorem RoundTrip.vst (c : Bool) (q : BitVec 3) (k : BitVec 3) (b : BitVec 5) (a : BitVec 5) (d : BitVec 5) : RoundTrip.Statement (.vst c q k b a d) :=
  fun hw _ => decode_op61 _ (BitVec.ofBool c) (q ++ 0x1#3) k b a d _ hw (by simp [decodeOp61, at_3_3_0_3, at_3_3_3_3])

theorem RoundTrip.vldx (c : Bool) (q : BitVec 3) (k : BitVec 3) (b : BitVec 5) (a : BitVec 5) (d : BitVec 5) : RoundTrip.Statement (.vldx c q k b a d) :=
  fun hw _ => decode_op62 _ (BitVec.ofBool c) (q ++ 0x0#3) k b a d _ hw (by simp [decodeOp62, at_3_3_0_3, at_3_3_3_3])

theorem RoundTrip.vstx (c : Bool) (q : BitVec 3) (k : BitVec 3) (b : BitVec 5) (a : BitVec 5) (d : BitVec 5) : RoundTrip.Statement (.vstx c q k b a d) :=
  fun hw _ => decode_op62 _ (BitVec.ofBool c) (q ++ 0x1#3) k b a d _ hw (by simp [decodeOp62, at_3_3_0_3, at_3_3_3_3])

theorem RoundTrip.vamoAdd (c : Bool) (q : BitVec 3) (k : BitVec 3) (b : BitVec 5) (a : BitVec 5) (d : BitVec 5) : RoundTrip.Statement (.vamoAdd c q k b a d) :=
  fun hw _ => decode_op63 _ (BitVec.ofBool c) (q ++ 0x0#3) k b a d _ hw (by simp [decodeOp63, at_3_3_0_3, at_3_3_3_3])

theorem RoundTrip.vamoAnd (c : Bool) (q : BitVec 3) (k : BitVec 3) (b : BitVec 5) (a : BitVec 5) (d : BitVec 5) : RoundTrip.Statement (.vamoAnd c q k b a d) :=
  fun hw _ => decode_op63 _ (BitVec.ofBool c) (q ++ 0x1#3) k b a d _ hw (by simp [decodeOp63, at_3_3_0_3, at_3_3_3_3])

theorem RoundTrip.vamoOr (c : Bool) (q : BitVec 3) (k : BitVec 3) (b : BitVec 5) (a : BitVec 5) (d : BitVec 5) : RoundTrip.Statement (.vamoOr c q k b a d) :=
  fun hw _ => decode_op63 _ (BitVec.ofBool c) (q ++ 0x2#3) k b a d _ hw (by simp [decodeOp63, at_3_3_0_3, at_3_3_3_3])

theorem RoundTrip.vamoXor (c : Bool) (q : BitVec 3) (k : BitVec 3) (b : BitVec 5) (a : BitVec 5) (d : BitVec 5) : RoundTrip.Statement (.vamoXor c q k b a d) :=
  fun hw _ => decode_op63 _ (BitVec.ofBool c) (q ++ 0x3#3) k b a d _ hw (by simp [decodeOp63, at_3_3_0_3, at_3_3_3_3])

theorem RoundTrip.vamoMin (c : Bool) (q : BitVec 3) (k : BitVec 3) (b : BitVec 5) (a : BitVec 5) (d : BitVec 5) : RoundTrip.Statement (.vamoMin c q k b a d) :=
  fun hw _ => decode_op63 _ (BitVec.ofBool c) (q ++ 0x4#3) k b a d _ hw (by simp [decodeOp63, at_3_3_0_3, at_3_3_3_3])

theorem RoundTrip.vamoMax (c : Bool) (q : BitVec 3) (k : BitVec 3) (b : BitVec 5) (a : BitVec 5) (d : BitVec 5) : RoundTrip.Statement (.vamoMax c q k b a d) :=
  fun hw _ => decode_op63 _ (BitVec.ofBool c) (q ++ 0x5#3) k b a d _ hw (by simp [decodeOp63, at_3_3_0_3, at_3_3_3_3])

theorem RoundTrip.vamoMinu (c : Bool) (q : BitVec 3) (k : BitVec 3) (b : BitVec 5) (a : BitVec 5) (d : BitVec 5) : RoundTrip.Statement (.vamoMinu c q k b a d) :=
  fun hw _ => decode_op63 _ (BitVec.ofBool c) (q ++ 0x6#3) k b a d _ hw (by simp [decodeOp63, at_3_3_0_3, at_3_3_3_3])

theorem RoundTrip.vamoMaxu (c : Bool) (q : BitVec 3) (k : BitVec 3) (b : BitVec 5) (a : BitVec 5) (d : BitVec 5) : RoundTrip.Statement (.vamoMaxu c q k b a d) :=
  fun hw _ => decode_op63 _ (BitVec.ofBool c) (q ++ 0x7#3) k b a d _ hw (by simp [decodeOp63, at_3_3_0_3, at_3_3_3_3])

theorem RoundTrip.lmld (c : Bool) (k : BitVec 3) (b : BitVec 5) (a : BitVec 5) (d : BitVec 5) : RoundTrip.Statement (.lmld c k b a d) :=
  fun hw _ => decode_op64 _ (BitVec.ofBool c) 0 k b a d _ hw (by simp [decodeOp64])

theorem RoundTrip.lmst (c : Bool) (k : BitVec 3) (b : BitVec 5) (a : BitVec 5) (d : BitVec 5) : RoundTrip.Statement (.lmst c k b a d) :=
  fun hw _ => decode_op64 _ (BitVec.ofBool c) 0x1#6 k b a d _ hw (by simp [decodeOp64])

theorem RoundTrip.thset (q : BitVec 3) (a : BitVec 5) (h : BitVec 4) : RoundTrip.Statement (.thset q a h) :=
  fun hw _ => decode_op65 _ 0 (q ++ 0x0#3) 0 0 a (0x0#1 ++ h) _ hw (by simp [decodeOp65, at_1_4_0_4, at_1_4_4_1, at_3_3_0_3, at_3_3_3_3])

theorem RoundTrip.thget (q : BitVec 3) (a : BitVec 5) (h : BitVec 4) : RoundTrip.Statement (.thget q a h) :=
  fun hw _ => decode_op65 _ 0 (q ++ 0x1#3) 0 0 a (0x0#1 ++ h) _ hw (by simp [decodeOp65, at_1_4_0_4, at_1_4_4_1, at_3_3_0_3, at_3_3_3_3])

theorem RoundTrip.tld (c : Bool) (k : BitVec 3) (b : BitVec 5) (h : BitVec 4) (d : BitVec 5) : RoundTrip.Statement (.tld c k b h d) :=
  fun hw _ => decode_op65 _ (BitVec.ofBool c) 0x2#6 k b (0x0#1 ++ h) d _ hw (by simp [decodeOp65, at_1_4_0_4, at_1_4_4_1])

theorem RoundTrip.tst (c : Bool) (k : BitVec 3) (b : BitVec 5) (h : BitVec 4) (d : BitVec 5) : RoundTrip.Statement (.tst c k b h d) :=
  fun hw _ => decode_op65 _ (BitVec.ofBool c) 0x3#6 k b (0x0#1 ++ h) d _ hw (by simp [decodeOp65, at_1_4_0_4, at_1_4_4_1])

theorem RoundTrip.trelayout (q : BitVec 3) (b : BitVec 5) (a : BitVec 5) (h : BitVec 4) : RoundTrip.Statement (.trelayout q b a h) :=
  fun hw _ => decode_op65 _ 0 (q ++ 0x4#3) 0 b a (0x0#1 ++ h) _ hw (by simp [decodeOp65, at_1_4_0_4, at_1_4_4_1, at_3_3_0_3, at_3_3_3_3, show ∀ q : BitVec 3, (q ++ 4#3 : BitVec 6) ≠ 2#6 by decide, show ∀ q : BitVec 3, (q ++ 4#3 : BitVec 6) ≠ 3#6 by decide])

theorem RoundTrip.twait (h : BitVec 4) : RoundTrip.Statement (.twait h) :=
  fun hw _ => decode_op65 _ 0 0x5#6 0 0 0 (0x0#1 ++ h) _ hw (by simp [decodeOp65, at_1_4_0_4, at_1_4_4_1])

theorem RoundTrip.scfg (q : BitVec 3) (b : BitVec 5) (a : BitVec 5) (f : BitVec 3) : RoundTrip.Statement (.scfg q b a f) :=
  fun hw _ => decode_op66 _ 0 (q ++ 0x0#3) 0 b a (0x0#2 ++ f) _ hw (by simp [decodeOp66, at_2_3_0_3, at_2_3_3_2, at_3_3_0_3, at_3_3_3_3])

theorem RoundTrip.srd (c : Bool) (f : BitVec 3) (d : BitVec 5) : RoundTrip.Statement (.srd c f d) :=
  fun hw _ => decode_op66 _ (BitVec.ofBool c) 0x1#6 0 0 (0x0#2 ++ f) d _ hw (by simp [decodeOp66, at_2_3_0_3, at_2_3_3_2])

theorem RoundTrip.swr (c : Bool) (f : BitVec 3) (d : BitVec 5) : RoundTrip.Statement (.swr c f d) :=
  fun hw _ => decode_op66 _ (BitVec.ofBool c) 0x2#6 0 0 (0x0#2 ++ f) d _ hw (by simp [decodeOp66, at_2_3_0_3, at_2_3_3_2])

theorem RoundTrip.savail (s : BitVec 5) (f : BitVec 3) (d : BitVec 5) : RoundTrip.Statement (.savail s f d) :=
  fun hw _ => decode_op66 _ 0 0x3#6 0 s (0x0#2 ++ f) d _ hw (by simp [decodeOp66, at_2_3_0_3, at_2_3_3_2])

theorem RoundTrip.cpy (q : BitVec 3) (r : BitVec 3) (b : BitVec 5) (a : BitVec 5) (d : BitVec 5) : RoundTrip.Statement (.cpy q r b a d) :=
  fun hw _ => decode_op67 _ 0 (q ++ 0x0#3) r b a d _ hw (by simp [decodeOp67, at_3_3_0_3, at_3_3_3_3])

theorem RoundTrip.vxlate (q : BitVec 3) (x : Bool) (k : BitVec 3) (b : BitVec 5) (a : BitVec 5) (d : BitVec 5) : RoundTrip.Statement (.vxlate q x k b a d) :=
  fun hw _ => decode_op68 _ 0 (q ++ 0x0#2 ++ (BitVec.ofBool x)) k b a d _ hw (by simp [decodeOp68, at_3_2_b_1_2, at_3_2_b_3_3, at_3_2_b_bit0])

theorem RoundTrip.pfxlook (q : BitVec 3) (b : BitVec 5) (a : BitVec 5) (d : BitVec 5) : RoundTrip.Statement (.pfxlook q b a d) :=
  fun hw _ => decode_op69 _ 0 (q ++ 0x0#3) 0 b a d _ hw (by simp [decodeOp69, at_3_3_0_3, at_3_3_3_3])

theorem RoundTrip.pfxins (q : BitVec 3) (b : BitVec 5) (a : BitVec 5) (d : BitVec 5) : RoundTrip.Statement (.pfxins q b a d) :=
  fun hw _ => decode_op69 _ 0 (q ++ 0x1#3) 0 b a d _ hw (by simp [decodeOp69, at_3_3_0_3, at_3_3_3_3])

theorem RoundTrip.pfxdet (q : BitVec 3) (b : BitVec 5) (a : BitVec 5) (d : BitVec 5) : RoundTrip.Statement (.pfxdet q b a d) :=
  fun hw _ => decode_op69 _ 0 (q ++ 0x2#3) 0 b a d _ hw (by simp [decodeOp69, at_3_3_0_3, at_3_3_3_3])

theorem RoundTrip.pfxevict (q : BitVec 3) (b : BitVec 5) (a : BitVec 5) (d : BitVec 5) : RoundTrip.Statement (.pfxevict q b a d) :=
  fun hw _ => decode_op69 _ 0 (q ++ 0x3#3) 0 b a d _ hw (by simp [decodeOp69, at_3_3_0_3, at_3_3_3_3])

theorem RoundTrip.pbay (q : BitVec 3) (b : BitVec 5) (a : BitVec 5) : RoundTrip.Statement (.pbay q b a) :=
  fun hw _ => decode_op6A _ 0 (q ++ 0x0#3) 0 b a 0 _ hw (by simp [decodeOp6A, at_3_3_0_3, at_3_3_3_3])

theorem RoundTrip.psend (q : BitVec 3) (k : BitVec 3) (b : BitVec 5) (a : BitVec 5) (d : BitVec 5) : RoundTrip.Statement (.psend q k b a d) :=
  fun hw _ => decode_op6A _ 0 (q ++ 0x1#3) k b a d _ hw (by simp [decodeOp6A, at_3_3_0_3, at_3_3_3_3])

theorem RoundTrip.waitwWake (g m : Nat) : RoundTrip.Statement (.waitwWake g m) :=
  fun _ h => Bool.noConfusion (show false = true from h)

theorem RoundTrip.gbarWake (g m : Nat) : RoundTrip.Statement (.gbarWake g m) :=
  fun _ h => Bool.noConfusion (show false = true from h)

theorem RoundTrip.pauseExpiry (g m : Nat) : RoundTrip.Statement (.pauseExpiry g m) :=
  fun _ h => Bool.noConfusion (show false = true from h)

theorem RoundTrip.watchdogExpiry (g m : Nat) : RoundTrip.Statement (.watchdogExpiry g m) :=
  fun _ h => Bool.noConfusion (show false = true from h)

theorem RoundTrip.dependenceEvaluation (g : Nat) : RoundTrip.Statement (.dependenceEvaluation g) :=
  fun _ h => Bool.noConfusion (show false = true from h)

theorem RoundTrip.dependenceRetry (g : Nat) : RoundTrip.Statement (.dependenceRetry g) :=
  fun _ h => Bool.noConfusion (show false = true from h)

theorem RoundTrip.dependencePoll (g : Nat) : RoundTrip.Statement (.dependencePoll g) :=
  fun _ h => Bool.noConfusion (show false = true from h)

theorem RoundTrip.gangPlacement (g : Nat) (places : List Place) : RoundTrip.Statement (.gangPlacement g places) :=
  fun _ h => Bool.noConfusion (show false = true from h)

theorem RoundTrip.keyReadRetry (g : Nat) (places : List Place) : RoundTrip.Statement (.keyReadRetry g places) :=
  fun _ h => Bool.noConfusion (show false = true from h)

theorem RoundTrip.entryReserving (g : Nat) : RoundTrip.Statement (.entryReserving g) :=
  fun _ h => Bool.noConfusion (show false = true from h)

theorem RoundTrip.unplaceableReport (g : Nat) : RoundTrip.Statement (.unplaceableReport g) :=
  fun _ h => Bool.noConfusion (show false = true from h)

theorem RoundTrip.preemptionGraceExpiry (g : Nat) (victims : List Nat) : RoundTrip.Statement (.preemptionGraceExpiry g victims) :=
  fun _ h => Bool.noConfusion (show false = true from h)

theorem RoundTrip.gangPreemption (g : Nat) : RoundTrip.Statement (.gangPreemption g) :=
  fun _ h => Bool.noConfusion (show false = true from h)

theorem RoundTrip.contextSaveDone (g : Nat) : RoundTrip.Statement (.contextSaveDone g) :=
  fun _ h => Bool.noConfusion (show false = true from h)

theorem RoundTrip.gangRestore (g : Nat) (places : List Place) : RoundTrip.Statement (.gangRestore g places) :=
  fun _ h => Bool.noConfusion (show false = true from h)

theorem RoundTrip.notificationDelivery (isle : Nat) : RoundTrip.Statement (.notificationDelivery isle) :=
  fun _ h => Bool.noConfusion (show false = true from h)

theorem RoundTrip.probeFaultReply (g m : Nat) : RoundTrip.Statement (.probeFaultReply g m) :=
  fun _ h => Bool.noConfusion (show false = true from h)

theorem RoundTrip.preqPreempt (isle : Nat) : RoundTrip.Statement (.preqPreempt isle) :=
  fun _ h => Bool.noConfusion (show false = true from h)

theorem RoundTrip.preqEnd (isle : Nat) : RoundTrip.Statement (.preqEnd isle) :=
  fun _ h => Bool.noConfusion (show false = true from h)

theorem RoundTrip.preqReserved (isle : Nat) : RoundTrip.Statement (.preqReserved isle) :=
  fun _ h => Bool.noConfusion (show false = true from h)

theorem RoundTrip.mreqRehash (isle region version : Nat) : RoundTrip.Statement (.mreqRehash isle region version) :=
  fun _ h => Bool.noConfusion (show false = true from h)

theorem RoundTrip.mreqMoveHbm (isle region : Nat) : RoundTrip.Statement (.mreqMoveHbm isle region) :=
  fun _ h => Bool.noConfusion (show false = true from h)

theorem RoundTrip.mreqMoveLpddr (isle region : Nat) : RoundTrip.Statement (.mreqMoveLpddr isle region) :=
  fun _ h => Bool.noConfusion (show false = true from h)

theorem RoundTrip.rowMissRehash (region : Nat) : RoundTrip.Statement (.rowMissRehash region) :=
  fun _ h => Bool.noConfusion (show false = true from h)

theorem RoundTrip.migrationStart (region : Nat) : RoundTrip.Statement (.migrationStart region) :=
  fun _ h => Bool.noConfusion (show false = true from h)

theorem RoundTrip.migrationChunk (region chunk : Nat) : RoundTrip.Statement (.migrationChunk region chunk) :=
  fun _ h => Bool.noConfusion (show false = true from h)

theorem RoundTrip.icmdInvalidate (isle : Nat) (value : BitVec 64) : RoundTrip.Statement (.icmdInvalidate isle value) :=
  fun _ h => Bool.noConfusion (show false = true from h)

theorem RoundTrip.invalidationDone (isle : Nat) : RoundTrip.Statement (.invalidationDone isle) :=
  fun _ h => Bool.noConfusion (show false = true from h)

theorem RoundTrip.relayoutUnit (relayout : Nat) : RoundTrip.Statement (.relayoutUnit relayout) :=
  fun _ h => Bool.noConfusion (show false = true from h)

theorem RoundTrip.streamFetch (g m f n : Nat) : RoundTrip.Statement (.streamFetch g m f n) :=
  fun _ h => Bool.noConfusion (show false = true from h)

theorem RoundTrip.streamWriteDrain (g m f n : Nat) : RoundTrip.Statement (.streamWriteDrain g m f n) :=
  fun _ h => Bool.noConfusion (show false = true from h)

theorem RoundTrip.engineTransferComplete (g m : Nat) : RoundTrip.Statement (.engineTransferComplete g m) :=
  fun _ h => Bool.noConfusion (show false = true from h)

theorem RoundTrip.psendComplete (g m : Nat) : RoundTrip.Statement (.psendComplete g m) :=
  fun _ h => Bool.noConfusion (show false = true from h)

theorem RoundTrip.l1dEviction (core line : Nat) : RoundTrip.Statement (.l1dEviction core line) :=
  fun _ h => Bool.noConfusion (show false = true from h)

theorem RoundTrip.remoteLineExpiry (isle line : Nat) : RoundTrip.Statement (.remoteLineExpiry isle line) :=
  fun _ h => Bool.noConfusion (show false = true from h)

theorem RoundTrip.scrub (place : StoragePlace) (group : Bool) (errors : List (Nat × BitVec 8)) : RoundTrip.Statement (.scrub place group errors) :=
  fun _ h => Bool.noConfusion (show false = true from h)

theorem RoundTrip.repair (location : BitVec 64) : RoundTrip.Statement (.repair location) :=
  fun _ h => Bool.noConfusion (show false = true from h)

theorem RoundTrip.repairApproval (location : BitVec 64) : RoundTrip.Statement (.repairApproval location) :=
  fun _ h => Bool.noConfusion (show false = true from h)

theorem RoundTrip.repairComplete (location : BitVec 64) : RoundTrip.Statement (.repairComplete location) :=
  fun _ h => Bool.noConfusion (show false = true from h)

theorem RoundTrip.powerMeasurement (watts : Nat) : RoundTrip.Statement (.powerMeasurement watts) :=
  fun _ h => Bool.noConfusion (show false = true from h)

theorem RoundTrip.thermalHold (degrees : Nat) : RoundTrip.Statement (.thermalHold degrees) :=
  fun _ h => Bool.noConfusion (show false = true from h)

theorem RoundTrip.powerTrip : RoundTrip.Statement (.powerTrip) :=
  fun _ h => Bool.noConfusion (show false = true from h)

theorem RoundTrip.powerGood : RoundTrip.Statement (.powerGood) :=
  fun _ h => Bool.noConfusion (show false = true from h)

theorem RoundTrip.bootgo : RoundTrip.Statement (.bootgo) :=
  fun _ h => Bool.noConfusion (show false = true from h)

theorem RoundTrip.memoryTraining (failed : Bool) (versions : List HashVersion) (image : Nat) (starts : List HartStart) : RoundTrip.Statement (.memoryTraining failed versions image starts) :=
  fun _ h => Bool.noConfusion (show false = true from h)

theorem RoundTrip.serviceReady : RoundTrip.Statement (.serviceReady) :=
  fun _ h => Bool.noConfusion (show false = true from h)

theorem RoundTrip.drainRequest : RoundTrip.Statement (.drainRequest) :=
  fun _ h => Bool.noConfusion (show false = true from h)

theorem RoundTrip.drainRelease : RoundTrip.Statement (.drainRelease) :=
  fun _ h => Bool.noConfusion (show false = true from h)

theorem RoundTrip.seedWrite (i : Nat) (value : BitVec 64) : RoundTrip.Statement (.seedWrite i value) :=
  fun _ h => Bool.noConfusion (show false = true from h)

theorem RoundTrip.controlRegisterWrite (offset : Nat) (value : BitVec 64) : RoundTrip.Statement (.controlRegisterWrite offset value) :=
  fun _ h => Bool.noConfusion (show false = true from h)

theorem RoundTrip.getVersion : RoundTrip.Statement (.getVersion) :=
  fun _ h => Bool.noConfusion (show false = true from h)

theorem RoundTrip.getCapabilities : RoundTrip.Statement (.getCapabilities) :=
  fun _ h => Bool.noConfusion (show false = true from h)

theorem RoundTrip.negotiateAlgorithms : RoundTrip.Statement (.negotiateAlgorithms) :=
  fun _ h => Bool.noConfusion (show false = true from h)

theorem RoundTrip.getDigests : RoundTrip.Statement (.getDigests) :=
  fun _ h => Bool.noConfusion (show false = true from h)

theorem RoundTrip.getCertificate : RoundTrip.Statement (.getCertificate) :=
  fun _ h => Bool.noConfusion (show false = true from h)

theorem RoundTrip.challenge : RoundTrip.Statement (.challenge) :=
  fun _ h => Bool.noConfusion (show false = true from h)

theorem RoundTrip.getMeasurements : RoundTrip.Statement (.getMeasurements) :=
  fun _ h => Bool.noConfusion (show false = true from h)

theorem RoundTrip.read (msg : Message) : RoundTrip.Statement (.read msg) :=
  fun _ h => Bool.noConfusion (show false = true from h)

theorem RoundTrip.write (msg : Message) : RoundTrip.Statement (.write msg) :=
  fun _ h => Bool.noConfusion (show false = true from h)

theorem RoundTrip.atomic (msg : Message) : RoundTrip.Statement (.atomic msg) :=
  fun _ h => Bool.noConfusion (show false = true from h)

theorem RoundTrip.pfxlookMessage (msg : Message) : RoundTrip.Statement (.pfxlookMessage msg) :=
  fun _ h => Bool.noConfusion (show false = true from h)

theorem RoundTrip.pfxinsMessage (msg : Message) : RoundTrip.Statement (.pfxinsMessage msg) :=
  fun _ h => Bool.noConfusion (show false = true from h)

theorem RoundTrip.pfxdetMessage (msg : Message) : RoundTrip.Statement (.pfxdetMessage msg) :=
  fun _ h => Bool.noConfusion (show false = true from h)

theorem RoundTrip.pfxevictMessage (msg : Message) : RoundTrip.Statement (.pfxevictMessage msg) :=
  fun _ h => Bool.noConfusion (show false = true from h)

theorem RoundTrip.atomicWait (msg : Message) : RoundTrip.Statement (.atomicWait msg) :=
  fun _ h => Bool.noConfusion (show false = true from h)

theorem RoundTrip.atomicWaitReply (index : Nat) : RoundTrip.Statement (.atomicWaitReply index) :=
  fun _ h => Bool.noConfusion (show false = true from h)

theorem RoundTrip.atomicWaitTimeout (index : Nat) : RoundTrip.Statement (.atomicWaitTimeout index) :=
  fun _ h => Bool.noConfusion (show false = true from h)

theorem RoundTrip.spawnMessage (msg : Message) : RoundTrip.Statement (.spawnMessage msg) :=
  fun _ h => Bool.noConfusion (show false = true from h)

theorem RoundTrip.parcel (msg : Message) : RoundTrip.Statement (.parcel msg) :=
  fun _ h => Bool.noConfusion (show false = true from h)

theorem RoundTrip.reply (msg : Message) : RoundTrip.Statement (.reply msg) :=
  fun _ h => Bool.noConfusion (show false = true from h)

theorem RoundTrip.requestTimeout (tag : Nat) : RoundTrip.Statement (.requestTimeout tag) :=
  fun _ h => Bool.noConfusion (show false = true from h)

theorem RoundTrip.rdmaWrite (conn addr : Nat) (data : List (BitVec 8)) : RoundTrip.Statement (.rdmaWrite conn addr data) :=
  fun _ h => Bool.noConfusion (show false = true from h)

theorem RoundTrip.rdmaRead (conn addr len : Nat) : RoundTrip.Statement (.rdmaRead conn addr len) :=
  fun _ h => Bool.noConfusion (show false = true from h)

theorem RoundTrip.send (conn : Nat) (data : List (BitVec 64)) : RoundTrip.Statement (.send conn data) :=
  fun _ h => Bool.noConfusion (show false = true from h)

theorem RoundTrip.atomicFetchAdd (conn addr : Nat) (value : BitVec 64) : RoundTrip.Statement (.atomicFetchAdd conn addr value) :=
  fun _ h => Bool.noConfusion (show false = true from h)

theorem RoundTrip.atomicCompareSwap (conn addr : Nat) (compare value : BitVec 64) : RoundTrip.Statement (.atomicCompareSwap conn addr compare value) :=
  fun _ h => Bool.noConfusion (show false = true from h)

theorem RoundTrip.rdmaCompletion (tag : Nat) (data : List (BitVec 64)) : RoundTrip.Statement (.rdmaCompletion tag data) :=
  fun _ h => Bool.noConfusion (show false = true from h)

theorem RoundTrip.connectionError (conn : Nat) : RoundTrip.Statement (.connectionError conn) :=
  fun _ h => Bool.noConfusion (show false = true from h)

theorem RoundTrip.peerLost (node : Nat) : RoundTrip.Statement (.peerLost node) :=
  fun _ h => Bool.noConfusion (show false = true from h)

theorem RoundTrip.illegalInsn (tval : BitVec 64) : RoundTrip.Statement (.illegalInsn tval) :=
  fun _ h => Bool.noConfusion (show false = true from h)

theorem RoundTrip.instructionFetchFault : RoundTrip.Statement (.instructionFetchFault) :=
  fun _ h => Bool.noConfusion (show false = true from h)

theorem RoundTrip.preemptionWindowExpiry (g : Nat) (victims : List Nat) : RoundTrip.Statement (.preemptionWindowExpiry g victims) :=
  fun _ h => Bool.noConfusion (show false = true from h)

end Sys2Proof.Laws
end

