-- ==== Sys2Proof/Tests/Slice0.lean ====
section
/-!
SUPPORT. Tests: ill-formed terms that WellFormed refuses, words written out from the encoding tables, single steps with the
expected values of the spec's tables and worked examples, and a witness for the hypotheses of every statement.
-/
namespace Sys2Proof.Tests
open Sys2Proof Sys2Proof.Machine
set_option Elab.async false

/-! ### Ill-formed terms (R80-R85) -/

/-- Each check of WellFormed refuses a term that breaks it. -/
theorem test_wellFormed_refuses :
    Instr.wellFormed (.fadd false 5 1 2 3) = false ∧ Instr.wellFormed (.fsqrt true 6 1 2) = false ∧
    Instr.wellFormed (.amoAdd 0 9 1 2 3) = false ∧ Instr.wellFormed (.fenceAll 15) = false ∧
    Instr.wellFormed (.waitwEq 9 1 2 3) = false ∧ Instr.wellFormed (.csrr 0x006 1) = false ∧
    Instr.wellFormed (.csrw 0x106 1) = false ∧ Instr.wellFormed (.csrx 0x3FF 1 2) = false ∧
    Instr.wellFormed (.vsetvl 6 1 2) = false ∧ Instr.wellFormed (.vsetvlX 7 1 2) = false ∧
    Instr.wellFormed (.vadcVV false 0 1 2 3) = false ∧ Instr.wellFormed (.vwaddVV false 0 1 2 3) = false ∧
    Instr.wellFormed (.vrnd false 0 5 1 2) = false ∧ Instr.wellFormed (.vcvt false 0 19 1 2) = false ∧
    Instr.wellFormed (.vzip false 2 3) = false ∧ Instr.wellFormed (.vcmpEqVV false 0 1 2 8) = false ∧
    Instr.wellFormed (.kand false 8 1 2) = false ∧ Instr.wellFormed (.kpopc false 9 1) = false ∧
    Instr.wellFormed (.vzip false 3 2) = false ∧ Instr.wellFormed (.vpack2 false true 0 11 2 1) = false ∧
    Instr.wellFormed (.vpack4 false false 0 13 6 1) = false ∧ Instr.wellFormed (.vsoft false 0 0 1 2) = false ∧
    Instr.wellFormed (.vsoft false 0 6 1 2) = false ∧ Instr.wellFormed (.vrope false 0 1 2 3) = false ∧
    Instr.wellFormed (.vsort false false true 3 4) = false ∧ Instr.wellFormed (.vlds false 0 false false true 1 31 2) = false ∧
    Instr.wellFormed (.vcmx false 0 1 2) = false ∧ Instr.wellFormed (.zrpush false 0 1 0) = false := by
  refine ⟨rfl, rfl, rfl, rfl, rfl, rfl, rfl, rfl, rfl, rfl, rfl, rfl, rfl, rfl, rfl, rfl, rfl, rfl, rfl, rfl, rfl, rfl, rfl,
    rfl, rfl, rfl, rfl, rfl⟩

theorem test_wellFormed_refuses_more :
    Instr.wellFormed (.zrread 8 2 0) = false ∧ Instr.wellFormed (.zrhdr 2 0) = false ∧
    Instr.wellFormed (.vroute 0 1 2 4) = false ∧ Instr.wellFormed (.vroute 1 31 2 4) = false ∧
    Instr.wellFormed (.zmovv false 0 3 1 0 0) = false ∧ Instr.wellFormed (.zcvt false 0 2 1 2 0) = false ∧
    Instr.wellFormed (.zcvtSc false 0 2 31 0 0) = false ∧ Instr.wellFormed (.pcvt false true true 1 0 1 2 3) = false ∧
    Instr.wellFormed (.pcvt false true false 0 0 1 2 3) = false ∧ Instr.wellFormed (.gtsnext 3) = false ∧
    Instr.wellFormed (.vprobe 1 2 0) = false ∧ Instr.wellFormed (.vunpin 0) = false ∧
    Instr.wellFormed (.scfg 0 1 30 0) = false ∧ Instr.wellFormed (.savail 2 0 1) = false ∧
    Instr.wellFormed (.vxlate 0 false 0 30 1 2) = false ∧ Instr.wellFormed (.pfxlook 0 31 1 2) = false := by
  refine ⟨rfl, rfl, rfl, rfl, rfl, rfl, rfl, rfl, rfl, rfl, rfl, rfl, rfl, rfl, rfl, rfl⟩

/-- R85: words that are no instruction are refused: an unassigned opcode, a reserved bit, an unassigned selector. -/
theorem test_decode_refuses :
    (∀ i, decode 0x00000000 0 ≠ .ok i) ∧ (∀ i, decode 0x80000001 0 ≠ .ok i) ∧ (∀ i, decode 0x0000007F 0 ≠ .ok i) ∧
    (∀ i, decode 0x00806287 0 ≠ .ok i) ∧ (∀ i, decode 0x010202FE 0 ≠ .ok i) := by
  refine ⟨fun i h => ?_, fun i h => ?_, fun i h => ?_, fun i h => ?_, fun i h => ?_⟩ <;> cases h

/-! ### Words of the encoding tables, with an operand in every field (R78-R84) -/

theorem test_decode_integer :
    decode 0x000C7281 0 = .ok (.add 6 7 5) ∧
    decode 0x004C7281 0 = .ok (.sub 6 7 5) ∧
    decode 0x008C7281 0 = .ok (.and 6 7 5) ∧
    decode 0x00CC7281 0 = .ok (.or 6 7 5) ∧
    decode 0x010C7281 0 = .ok (.xor 6 7 5) ∧
    decode 0x014C7281 0 = .ok (.andn 6 7 5) ∧
    decode 0x018C7281 0 = .ok (.sll 6 7 5) ∧
    decode 0x01CC7281 0 = .ok (.srl 6 7 5) ∧
    decode 0x020C7281 0 = .ok (.sra 6 7 5) ∧
    decode 0x024C7281 0 = .ok (.mul 6 7 5) ∧
    decode 0x028C7281 0 = .ok (.mulh 6 7 5) ∧
    decode 0x02CC7281 0 = .ok (.mulhu 6 7 5) ∧
    decode 0x030C7281 0 = .ok (.div 6 7 5) ∧
    decode 0x034C7281 0 = .ok (.divu 6 7 5) ∧
    decode 0x038C7281 0 = .ok (.rem 6 7 5) ∧
    decode 0x03CC7281 0 = .ok (.remu 6 7 5) ∧
    decode 0x040C7281 0 = .ok (.min 6 7 5) ∧
    decode 0x044C7281 0 = .ok (.max 6 7 5) ∧
    decode 0x048C7281 0 = .ok (.minu 6 7 5) ∧
    decode 0x04CC7281 0 = .ok (.maxu 6 7 5) ∧
    decode 0x050C7281 0 = .ok (.slt 6 7 5) ∧
    decode 0x054C7281 0 = .ok (.sltu 6 7 5) ∧
    decode 0x05807281 0 = .ok (.clz 7 5) ∧
    decode 0x05C07281 0 = .ok (.ctz 7 5) ∧
    decode 0x06007281 0 = .ok (.popc 7 5) ∧
    decode 0x80027282 0 = .ok (.addi 0x4001 7 5) ∧
    decode 0x80027283 0 = .ok (.andi 0x4001 7 5) ∧
    decode 0x80027284 0 = .ok (.ori 0x4001 7 5) ∧
    decode 0x80027285 0 = .ok (.xori 0x4001 7 5) ∧
    decode 0x80027286 0 = .ok (.slti 0x4001 7 5) ∧
    decode 0x00087287 0 = .ok (.slli 4 7 5) ∧
    decode 0x40087287 0 = .ok (.srli 4 7 5) ∧
    decode 0x80087287 0 = .ok (.srai 4 7 5) ∧
    decode 0x80003288 0 = .ok (.lih 0x80003 5) ∧
    decode 0x80003289 0 = .ok (.addpc 0x80003 5) ∧
    decode 0x000202FE 0x80000001 = .ok (.liw 5 0x80000001) :=
  ⟨rfl, rfl, rfl, rfl, rfl, rfl, rfl, rfl, rfl, rfl, rfl, rfl, rfl, rfl, rfl, rfl, rfl, rfl, rfl, rfl, rfl, rfl, rfl,
  rfl, rfl, rfl, rfl, rfl, rfl, rfl, rfl, rfl, rfl, rfl, rfl, rfl⟩

theorem test_decode_scalar_fp :
    decode 0x028C728A 0 = .ok (.fadd true 2 6 7 5) ∧
    decode 0x068C728A 0 = .ok (.fsub true 2 6 7 5) ∧
    decode 0x0A8C728A 0 = .ok (.fmul true 2 6 7 5) ∧
    decode 0x0E8C728A 0 = .ok (.ffma true 2 6 7 5) ∧
    decode 0x128C728A 0 = .ok (.fdiv true 2 6 7 5) ∧
    decode 0x1680728A 0 = .ok (.fsqrt true 2 7 5) ∧
    decode 0x1A0C728A 0 = .ok (.fmin true 6 7 5) ∧
    decode 0x1E0C728A 0 = .ok (.fmax true 6 7 5) ∧
    decode 0x220C728A 0 = .ok (.fcmpEq true 6 7 5) ∧
    decode 0x224C728A 0 = .ok (.fcmpLt true 6 7 5) ∧
    decode 0x228C728A 0 = .ok (.fcmpLe true 6 7 5) ∧
    decode 0x22CC728A 0 = .ok (.fcmpUnord true 6 7 5) ∧
    decode 0x2680728A 0 = .ok (.fcvtToInt32 true 2 7 5) ∧
    decode 0x2682728A 0 = .ok (.fcvtToUint32 true 2 7 5) ∧
    decode 0x2684728A 0 = .ok (.fcvtToInt64 true 2 7 5) ∧
    decode 0x2686728A 0 = .ok (.fcvtToUint64 true 2 7 5) ∧
    decode 0x2690728A 0 = .ok (.fcvtFromInt32 true 2 7 5) ∧
    decode 0x2692728A 0 = .ok (.fcvtFromUint32 true 2 7 5) ∧
    decode 0x2694728A 0 = .ok (.fcvtFromInt64 true 2 7 5) ∧
    decode 0x2696728A 0 = .ok (.fcvtFromUint64 true 2 7 5) ∧
    decode 0x26A0728A 0 = .ok (.fcvtFp true 2 7 5) :=
  ⟨rfl, rfl, rfl, rfl, rfl, rfl, rfl, rfl, rfl, rfl, rfl, rfl, rfl, rfl, rfl, rfl, rfl, rfl, rfl, rfl, rfl⟩

theorem test_decode_scalar_memory :
    decode 0x8002728B 0 = .ok (.ldB 0x4001 7 5) ∧
    decode 0x8002728C 0 = .ok (.ldH 0x4001 7 5) ∧
    decode 0x8002728D 0 = .ok (.ldW 0x4001 7 5) ∧
    decode 0x8002728E 0 = .ok (.ldD 0x4001 7 5) ∧
    decode 0x8002728F 0 = .ok (.ldBu 0x4001 7 5) ∧
    decode 0x80027290 0 = .ok (.ldHu 0x4001 7 5) ∧
    decode 0x80027291 0 = .ok (.ldWu 0x4001 7 5) ∧
    decode 0x80706392 0 = .ok (.stB 0x807 6 7) ∧
    decode 0x80726392 0 = .ok (.stH 0x807 6 7) ∧
    decode 0x80746392 0 = .ok (.stW 0x807 6 7) ∧
    decode 0x80766392 0 = .ok (.stD 0x807 6 7) ∧
    decode 0x048C7293 0 = .ok (.amoAdd 1 2 6 7 5) ∧
    decode 0x148C7293 0 = .ok (.amoAnd 1 2 6 7 5) ∧
    decode 0x248C7293 0 = .ok (.amoOr 1 2 6 7 5) ∧
    decode 0x348C7293 0 = .ok (.amoXor 1 2 6 7 5) ∧
    decode 0x448C7293 0 = .ok (.amoMin 1 2 6 7 5) ∧
    decode 0x548C7293 0 = .ok (.amoMax 1 2 6 7 5) ∧
    decode 0x648C7293 0 = .ok (.amoMinu 1 2 6 7 5) ∧
    decode 0x748C7293 0 = .ok (.amoMaxu 1 2 6 7 5) ∧
    decode 0x048C7294 0 = .ok (.cas 1 2 6 7 5) ∧
    decode 0x148C7294 0 = .ok (.amoSwap 1 2 6 7 5) :=
  ⟨rfl, rfl, rfl, rfl, rfl, rfl, rfl, rfl, rfl, rfl, rfl, rfl, rfl, rfl, rfl, rfl, rfl, rfl, rfl, rfl, rfl⟩

theorem test_decode_control :
    decode 0x80706395 0 = .ok (.beq 0x807 6 7) ∧
    decode 0x80726395 0 = .ok (.bne 0x807 6 7) ∧
    decode 0x80746395 0 = .ok (.blt 0x807 6 7) ∧
    decode 0x80766395 0 = .ok (.bge 0x807 6 7) ∧
    decode 0x80786395 0 = .ok (.bltu 0x807 6 7) ∧
    decode 0x807A6395 0 = .ok (.bgeu 0x807 6 7) ∧
    decode 0x80005296 0 = .ok (.jal 0x80005 5) ∧
    decode 0x80027297 0 = .ok (.jalr 0x4001 7 5) :=
  ⟨rfl, rfl, rfl, rfl, rfl, rfl, rfl, rfl⟩

theorem test_decode_system :
    decode 0x40800298 0 = .ok (.csrr 0x102 5) ∧
    decode 0x40827018 0 = .ok (.csrw 0x102 7) ∧
    decode 0x40847298 0 = .ok (.csrx 0x102 7 5) ∧
    decode 0x00000019 0 = .ok .ecall ∧
    decode 0x00400019 0 = .ok .ebreak ∧
    decode 0x00800019 0 = .ok .tret ∧
    decode 0x00C00019 0 = .ok .pause ∧
    decode 0x01000019 0 = .ok .yield ∧
    decode 0x01400019 0 = .ok .hexit ∧
    decode 0x01800019 0 = .ok .gbar ∧
    decode 0x0080001A 0 = .ok (.fenceSv 2) ∧
    decode 0x0480001A 0 = .ok (.fenceVS 2) ∧
    decode 0x0880001A 0 = .ok (.fenceVV 2) ∧
    decode 0x0C80001A 0 = .ok (.fenceAll 2) ∧
    decode 0x040C729B 0 = .ok (.waitwEq 2 6 7 5) ∧
    decode 0x044C729B 0 = .ok (.waitwNe 2 6 7 5) ∧
    decode 0x048C729B 0 = .ok (.waitwGeu 2 6 7 5) ∧
    decode 0x04CC729B 0 = .ok (.waitwLtu 2 6 7 5) ∧
    decode 0x050C729B 0 = .ok (.waitwGe 2 6 7 5) ∧
    decode 0x054C729B 0 = .ok (.waitwLt 2 6 7 5) ∧
    decode 0x0000729C 0 = .ok (.spawn 7 5) :=
  ⟨rfl, rfl, rfl, rfl, rfl, rfl, rfl, rfl, rfl, rfl, rfl, rfl, rfl, rfl, rfl, rfl, rfl, rfl, rfl, rfl, rfl⟩

theorem test_decode_vector_config :
    decode 0x040072A0 0 = .ok (.vsetvl 2 7 5) ∧
    decode 0x240072A0 0 = .ok (.vsetvlX 2 7 5) ∧
    decode 0x400C02A0 0 = .ok (.vcfg 6 5) :=
  ⟨rfl, rfl, rfl⟩

theorem test_decode_vector_arithmetic :
    decode 0x80CC72A1 0 = .ok (.vaddVV true 3 6 7 5) ∧
    decode 0x80CC72A2 0 = .ok (.vaddVS true 3 6 7 5) ∧
    decode 0x80E272A3 0 = .ok (.vaddVI true 3 17 7 5) ∧
    decode 0x82CC72A1 0 = .ok (.vsubVV true 3 6 7 5) ∧
    decode 0x82CC72A2 0 = .ok (.vsubVS true 3 6 7 5) ∧
    decode 0x82E272A3 0 = .ok (.vsubVI true 3 17 7 5) ∧
    decode 0x84CC72A1 0 = .ok (.vmulVV true 3 6 7 5) ∧
    decode 0x84CC72A2 0 = .ok (.vmulVS true 3 6 7 5) ∧
    decode 0x86CC72A1 0 = .ok (.vmulhVV true 3 6 7 5) ∧
    decode 0x86CC72A2 0 = .ok (.vmulhVS true 3 6 7 5) ∧
    decode 0x88CC72A1 0 = .ok (.vfmaVV true 3 6 7 5) ∧
    decode 0x88CC72A2 0 = .ok (.vfmaVS true 3 6 7 5) ∧
    decode 0x8ACC72A1 0 = .ok (.vdivVV true 3 6 7 5) ∧
    decode 0x8ACC72A2 0 = .ok (.vdivVS true 3 6 7 5) ∧
    decode 0x8CCC72A1 0 = .ok (.vminVV true 3 6 7 5) ∧
    decode 0x8CCC72A2 0 = .ok (.vminVS true 3 6 7 5) ∧
    decode 0x8ECC72A1 0 = .ok (.vmaxVV true 3 6 7 5) ∧
    decode 0x8ECC72A2 0 = .ok (.vmaxVS true 3 6 7 5) ∧
    decode 0x90CC72A1 0 = .ok (.vandVV true 3 6 7 5) ∧
    decode 0x90CC72A2 0 = .ok (.vandVS true 3 6 7 5) ∧
    decode 0x90E272A3 0 = .ok (.vandVI true 3 17 7 5) ∧
    decode 0x92CC72A1 0 = .ok (.vorVV true 3 6 7 5) ∧
    decode 0x92CC72A2 0 = .ok (.vorVS true 3 6 7 5) ∧
    decode 0x92E272A3 0 = .ok (.vorVI true 3 17 7 5) ∧
    decode 0x94CC72A1 0 = .ok (.vxorVV true 3 6 7 5) ∧
    decode 0x94CC72A2 0 = .ok (.vxorVS true 3 6 7 5) ∧
    decode 0x94E272A3 0 = .ok (.vxorVI true 3 17 7 5) ∧
    decode 0x96CC72A1 0 = .ok (.vshlVV true 3 6 7 5) ∧
    decode 0x96CC72A2 0 = .ok (.vshlVS true 3 6 7 5) ∧
    decode 0x96E272A3 0 = .ok (.vshlVI true 3 17 7 5) ∧
    decode 0x98CC72A1 0 = .ok (.vshrVV true 3 6 7 5) ∧
    decode 0x98CC72A2 0 = .ok (.vshrVS true 3 6 7 5) ∧
    decode 0x98E272A3 0 = .ok (.vshrVI true 3 17 7 5) ∧
    decode 0x9ACC72A1 0 = .ok (.vldexpVV true 3 6 7 5) ∧
    decode 0x9ACC72A2 0 = .ok (.vldexpVS true 3 6 7 5) ∧
    decode 0x9AE272A3 0 = .ok (.vldexpVI true 3 17 7 5) ∧
    decode 0x9CCC72A1 0 = .ok (.vselVV true 3 6 7 5) ∧
    decode 0x9CCC72A2 0 = .ok (.vselVS true 3 6 7 5) ∧
    decode 0x9CE272A3 0 = .ok (.vselVI true 3 17 7 5) ∧
    decode 0x9ECC72A1 0 = .ok (.vadcVV true 3 6 7 5) ∧
    decode 0x9ECC72A2 0 = .ok (.vadcVS true 3 6 7 5) ∧
    decode 0xA0CC72A1 0 = .ok (.vsbcVV true 3 6 7 5) ∧
    decode 0xA0CC72A2 0 = .ok (.vsbcVS true 3 6 7 5) ∧
    decode 0xA2CC7221 0 = .ok (.vwaddVV true 3 6 7 4) ∧
    decode 0xA2CC7222 0 = .ok (.vwaddVS true 3 6 7 4) ∧
    decode 0xA4CC7221 0 = .ok (.vwmulVV true 3 6 7 4) ∧
    decode 0xA4CC7222 0 = .ok (.vwmulVS true 3 6 7 4) ∧
    decode 0xA6CC7221 0 = .ok (.vwfmaVV true 3 6 7 4) ∧
    decode 0xA6CC7222 0 = .ok (.vwfmaVS true 3 6 7 4) ∧
    decode 0xA8CC72A1 0 = .ok (.vsgnVV true 3 6 7 5) ∧
    decode 0xA8CC72A2 0 = .ok (.vsgnVS true 3 6 7 5) ∧
    decode 0x80C072A4 0 = .ok (.vabs true 3 7 5) ∧
    decode 0x82C472A4 0 = .ok (.vrnd true 3 2 7 5) ∧
    decode 0x84C472A4 0 = .ok (.vcvt true 3 2 7 5) ∧
    decode 0x86C472A4 0 = .ok (.vunpack true 3 2 7 5) ∧
    decode 0x88C072A4 0 = .ok (.vsfuRcp true 3 7 5) ∧
    decode 0x88C272A4 0 = .ok (.vsfuRsqrt true 3 7 5) ∧
    decode 0x88C472A4 0 = .ok (.vsfuSqrt true 3 7 5) ∧
    decode 0x88C672A4 0 = .ok (.vsfuExp2 true 3 7 5) ∧
    decode 0x88C872A4 0 = .ok (.vsfuLog2 true 3 7 5) ∧
    decode 0x88CA72A4 0 = .ok (.vsfuSin true 3 7 5) ∧
    decode 0x88CC72A4 0 = .ok (.vsfuCos true 3 7 5) :=
  ⟨rfl, rfl, rfl, rfl, rfl, rfl, rfl, rfl, rfl, rfl, rfl, rfl, rfl, rfl, rfl, rfl, rfl, rfl, rfl, rfl, rfl, rfl, rfl,
  rfl, rfl, rfl, rfl, rfl, rfl, rfl, rfl, rfl, rfl, rfl, rfl, rfl, rfl, rfl, rfl, rfl, rfl, rfl, rfl, rfl, rfl, rfl,
  rfl, rfl, rfl, rfl, rfl, rfl, rfl, rfl, rfl, rfl, rfl, rfl, rfl, rfl, rfl, rfl⟩

theorem test_decode_vector_compare :
    decode 0x80CC72A5 0 = .ok (.vcmpEqVV true 3 6 7 5) ∧
    decode 0x82CC72A5 0 = .ok (.vcmpNeVV true 3 6 7 5) ∧
    decode 0x84CC72A5 0 = .ok (.vcmpLtVV true 3 6 7 5) ∧
    decode 0x86CC72A5 0 = .ok (.vcmpLeVV true 3 6 7 5) ∧
    decode 0x88CC72A5 0 = .ok (.vcmpGtVV true 3 6 7 5) ∧
    decode 0x8ACC72A5 0 = .ok (.vcmpGeVV true 3 6 7 5) ∧
    decode 0x8CCC72A5 0 = .ok (.vcmpOrdVV true 3 6 7 5) ∧
    decode 0x8ECC72A5 0 = .ok (.vcmpUnordVV true 3 6 7 5) ∧
    decode 0x80CC72A6 0 = .ok (.vcmpEqVS true 3 6 7 5) ∧
    decode 0x82CC72A6 0 = .ok (.vcmpNeVS true 3 6 7 5) ∧
    decode 0x84CC72A6 0 = .ok (.vcmpLtVS true 3 6 7 5) ∧
    decode 0x86CC72A6 0 = .ok (.vcmpLeVS true 3 6 7 5) ∧
    decode 0x88CC72A6 0 = .ok (.vcmpGtVS true 3 6 7 5) ∧
    decode 0x8ACC72A6 0 = .ok (.vcmpGeVS true 3 6 7 5) ∧
    decode 0x8CCC72A6 0 = .ok (.vcmpOrdVS true 3 6 7 5) ∧
    decode 0x8ECC72A6 0 = .ok (.vcmpUnordVS true 3 6 7 5) :=
  ⟨rfl, rfl, rfl, rfl, rfl, rfl, rfl, rfl, rfl, rfl, rfl, rfl, rfl, rfl, rfl, rfl⟩

theorem test_decode_vector_mask :
    decode 0x800C72A7 0 = .ok (.kand true 6 7 5) ∧
    decode 0x820C72A7 0 = .ok (.kor true 6 7 5) ∧
    decode 0x840C72A7 0 = .ok (.kxor true 6 7 5) ∧
    decode 0x860C72A7 0 = .ok (.kandn true 6 7 5) ∧
    decode 0x880072A7 0 = .ok (.knot true 7 5) ∧
    decode 0x8A0072A7 0 = .ok (.kshl true 7 5) ∧
    decode 0x8C0072A7 0 = .ok (.kshr true 7 5) ∧
    decode 0x8E0072A7 0 = .ok (.kpopc true 7 5) ∧
    decode 0x900072A7 0 = .ok (.kfirst true 7 5) ∧
    decode 0x920072A7 0 = .ok (.kmovs true 7 5) :=
  ⟨rfl, rfl, rfl, rfl, rfl, rfl, rfl, rfl, rfl, rfl⟩

theorem test_decode_vector_move :
    decode 0x80008228 0 = .ok (.vzip true 8 4) ∧
    decode 0x82008228 0 = .ok (.vunzip true 8 4) ∧
    decode 0xC49A82A8 0 = .ok (.vpack2 true true 2 13 8 5) ∧
    decode 0xC69A82A8 0 = .ok (.vpack4 true true 2 13 8 5) ∧
    decode 0x80CC72A9 0 = .ok (.vgather true 3 6 7 5) ∧
    decode 0x82C072A9 0 = .ok (.vcompress true 3 7 5) ∧
    decode 0x84C072A9 0 = .ok (.vexpand true 3 7 5) ∧
    decode 0x86C072A9 0 = .ok (.vmv true 3 7 5) ∧
    decode 0x88C002A9 0 = .ok (.viota true 3 5) ∧
    decode 0x8AC002A9 0 = .ok (.vidx true 3 5) ∧
    decode 0x80CC72AA 0 = .ok (.vslideup true 3 6 7 5) ∧
    decode 0x82CC72AA 0 = .ok (.vslidedn true 3 6 7 5) ∧
    decode 0x84CC72AA 0 = .ok (.vslide1 true 3 6 7 5) ∧
    decode 0x86CC02AA 0 = .ok (.vbcast true 3 6 5) ∧
    decode 0x880C72AA 0 = .ok (.vext true 6 7 5) ∧
    decode 0x8A0C72AA 0 = .ok (.vins true 6 7 5) ∧
    decode 0x0C0C72AA 0 = .ok (.vxchg 6 7 5) :=
  ⟨rfl, rfl, rfl, rfl, rfl, rfl, rfl, rfl, rfl, rfl, rfl, rfl, rfl, rfl, rfl, rfl, rfl⟩

theorem test_decode_vector_reduce :
    decode 0x80C072AB 0 = .ok (.vrsumO true 3 7 5) ∧
    decode 0x82C072AB 0 = .ok (.vrsumT true 3 7 5) ∧
    decode 0x84C072AB 0 = .ok (.vrmax true 3 7 5) ∧
    decode 0x86C072AB 0 = .ok (.vrmin true 3 7 5) ∧
    decode 0x88C072AB 0 = .ok (.vrlog true 3 7 5) ∧
    decode 0x8AC072AB 0 = .ok (.vmaxidx true 3 7 5) ∧
    decode 0x80D072AC 0 = .ok (.vsoft true 3 8 7 5) ∧
    decode 0x82C002AC 0 = .ok (.vrand true 3 5) ∧
    decode 0x84CC722C 0 = .ok (.vrope true 3 6 7 4) :=
  ⟨rfl, rfl, rfl, rfl, rfl, rfl, rfl, rfl, rfl⟩

theorem test_decode_sorted :
    decode 0x86008240 0 = .ok (.vsort true true true 8 4) ∧
    decode 0x840072C1 0 = .ok (.vchks true true 7 5) ∧
    decode 0x9E047242 0 = .ok (.vlds true 1 true true true 2 7 4) ∧
    decode 0x800C72C3 0 = .ok (.vmergeLo true 6 7 5) ∧
    decode 0x820C72C3 0 = .ok (.vmergeHi true 6 7 5) ∧
    decode 0xC40C72C3 0 = .ok (.vmergec true 2 6 7 5) ∧
    decode 0x800C72C4 0 = .ok (.vinter true 6 7 5) ∧
    decode 0x820072C4 0 = .ok (.vuniq true 7 5) ∧
    decode 0x840072C4 0 = .ok (.vsrev true 7 5) ∧
    decode 0x86C08244 0 = .ok (.vcmx true 3 8 4) ∧
    decode 0x880C72C4 0 = .ok (.vrankLb true 6 7 5) ∧
    decode 0x8A0C72C4 0 = .ok (.vrankUb true 6 7 5) ∧
    decode 0x8C0C72C4 0 = .ok (.vpart true 6 7 5) :=
  ⟨rfl, rfl, rfl, rfl, rfl, rfl, rfl, rfl, rfl, rfl, rfl, rfl, rfl⟩

theorem test_decode_ranked :
    decode 0x004C7145 0 = .ok (.zrcfg 1 6 7 2) ∧
    decode 0x82C08145 0 = .ok (.zrpush true 3 8 2) ∧
    decode 0x84CC8145 0 = .ok (.zrpushL true 3 6 8 2) ∧
    decode 0x06407145 0 = .ok (.zrmerge 1 7 2) ∧
    decode 0x08407145 0 = .ok (.zrst 1 7 2) ∧
    decode 0x0A068145 0 = .ok (.zrread 3 8 2) ∧
    decode 0x0C008145 0 = .ok (.zrhdr 8 2) ∧
    decode 0x0E007145 0 = .ok (.zrth 7 2) ∧
    decode 0x00CC7246 0 = .ok (.vroute 3 6 7 4) :=
  ⟨rfl, rfl, rfl, rfl, rfl, rfl, rfl, rfl, rfl⟩

theorem test_decode_matrix :
    decode 0x80CC7150 0 = .ok (.zop true 3 6 7 2) ∧
    decode 0x82CC7150 0 = .ok (.zops true 3 6 7 2) ∧
    decode 0x84CC7150 0 = .ok (.zpop true 3 6 7 2) ∧
    decode 0x80C87551 0 = .ok (.zmovv true 3 4 7 1 2) ∧
    decode 0x82C87551 0 = .ok (.zmovz true 3 4 7 1 2) ∧
    decode 0x84C87551 0 = .ok (.zcvt true 3 4 7 1 2) ∧
    decode 0x86C87551 0 = .ok (.zcvtSc true 3 4 7 1 2) ∧
    decode 0x88C87551 0 = .ok (.zrowstat true 3 4 7 1 2) ∧
    decode 0x00000552 0 = .ok (.zclr true 2) ∧
    decode 0x02007152 0 = .ok (.zwait 7 2) ∧
    decode 0x000C4153 0 = .ok (.zld 6 4 false 2) ∧
    decode 0x020C4153 0 = .ok (.zst 6 4 false 2) ∧
    decode 0xC2CC72D4 0 = .ok (.pcvt true true false 1 3 6 7 5) :=
  ⟨rfl, rfl, rfl, rfl, rfl, rfl, rfl, rfl, rfl, rfl, rfl, rfl, rfl⟩

theorem test_decode_tiles_scheduler :
    decode 0x004C7055 0 = .ok (.gtscfg 1 6 7) ∧
    decode 0x02008055 0 = .ok (.gtsnext 8) ∧
    decode 0x000C70E0 0 = .ok (.vprobe 6 7 1) ∧
    decode 0x020C70E0 0 = .ok (.vprobeFf 6 7 1) ∧
    decode 0x040000E0 0 = .ok (.vunpin 1) :=
  ⟨rfl, rfl, rfl, rfl, rfl⟩

theorem test_decode_vector_memory :
    decode 0x90CC72E1 0 = .ok (.vld true 1 3 6 7 5) ∧
    decode 0x92CC72E1 0 = .ok (.vst true 1 3 6 7 5) ∧
    decode 0x90CC72E2 0 = .ok (.vldx true 1 3 6 7 5) ∧
    decode 0x92CC72E2 0 = .ok (.vstx true 1 3 6 7 5) ∧
    decode 0x90CC72E3 0 = .ok (.vamoAdd true 1 3 6 7 5) ∧
    decode 0x92CC72E3 0 = .ok (.vamoAnd true 1 3 6 7 5) ∧
    decode 0x94CC72E3 0 = .ok (.vamoOr true 1 3 6 7 5) ∧
    decode 0x96CC72E3 0 = .ok (.vamoXor true 1 3 6 7 5) ∧
    decode 0x98CC72E3 0 = .ok (.vamoMin true 1 3 6 7 5) ∧
    decode 0x9ACC72E3 0 = .ok (.vamoMax true 1 3 6 7 5) ∧
    decode 0x9CCC72E3 0 = .ok (.vamoMinu true 1 3 6 7 5) ∧
    decode 0x9ECC72E3 0 = .ok (.vamoMaxu true 1 3 6 7 5) ∧
    decode 0x80CC72E4 0 = .ok (.lmld true 3 6 7 5) ∧
    decode 0x82CC72E4 0 = .ok (.lmst true 3 6 7 5) :=
  ⟨rfl, rfl, rfl, rfl, rfl, rfl, rfl, rfl, rfl, rfl, rfl, rfl, rfl, rfl⟩

theorem test_decode_handles_engines :
    decode 0x10007265 0 = .ok (.thset 1 7 4) ∧
    decode 0x12007265 0 = .ok (.thget 1 7 4) ∧
    decode 0x84CC42E5 0 = .ok (.tld true 3 6 4 5) ∧
    decode 0x86CC42E5 0 = .ok (.tst true 3 6 4 5) ∧
    decode 0x180C7265 0 = .ok (.trelayout 1 6 7 4) ∧
    decode 0x0A000265 0 = .ok (.twait 4) ∧
    decode 0x100C70E6 0 = .ok (.scfg 1 6 7 1) ∧
    decode 0x820012E6 0 = .ok (.srd true 1 5) ∧
    decode 0x840012E6 0 = .ok (.swr true 1 5) ∧
    decode 0x060212E6 0 = .ok (.savail 1 1 5) ∧
    decode 0x108C72E7 0 = .ok (.cpy 1 2 6 7 5) ∧
    decode 0x12CC72E8 0 = .ok (.vxlate 1 true 3 6 7 5) ∧
    decode 0x100C72E9 0 = .ok (.pfxlook 1 6 7 5) ∧
    decode 0x120C72E9 0 = .ok (.pfxins 1 6 7 5) ∧
    decode 0x140C72E9 0 = .ok (.pfxdet 1 6 7 5) ∧
    decode 0x160C72E9 0 = .ok (.pfxevict 1 6 7 5) ∧
    decode 0x100C706A 0 = .ok (.pbay 1 6 7) ∧
    decode 0x12CC72EA 0 = .ok (.psend 1 3 6 7 5) :=
  ⟨rfl, rfl, rfl, rfl, rfl, rfl, rfl, rfl, rfl, rfl, rfl, rfl, rfl, rfl, rfl, rfl, rfl, rfl⟩

/-! ### Single steps -/

/-- A hart of a gang of one on core 0 that runs in user mode at the first byte of its scratchpad, with VL = 4. -/
def hart0 : Hart :=
  { loadedHart with st := .run, csr := { loadedHart.csr with vl := 4, vstat := 0x100, tvec := 0x000F800000001000 } }
/-- The machine with that hart under the cursor, its gang resident. -/
def on (h : Hart) : State := { State.reset with hart := h, gangs := [loadedGang], nextGid := 2 }
/-- Scalar registers from `r` on. -/
def regs (h : Hart) (r : Nat) : List Word → Hart
  | [] => h
  | v :: l => regs { h with s := h.s.set (r % 32) v (Nat.mod_lt _ (by decide)) } (r + 1) l
/-- Vector register `r` of TYPE `ty` with the elements `l`. -/
def vec (h : Hart) (r : Nat) (tag : VTag) (l : List Nat) : Hart :=
  let x : VReg := l.zipIdx.foldl (fun x p => x.setElem 1 (elTy tag) p.2 p.1) ⟨tag, 0, 0⟩
  { h with v := h.v.set (r % 32) x (Nat.mod_lt _ (by decide)) }
/-- The instruction ends in a next state of which `p` holds. -/
def ends (i : Instr) (s : State) (p : State → Bool) : Bool :=
  match exec i s with
  | .next t => p t
  | _ => false

/-- R99: division by zero and the most negative number by -1. -/
theorem test_division :
    ends (.div 6 5 7) (on (regs hart0 5 [12, 0])) (fun t => t.rs 7 == 0xFFFFFFFFFFFFFFFF) = true ∧
    ends (.rem 6 5 7) (on (regs hart0 5 [12, 0])) (fun t => t.rs 7 == 12) = true ∧
    ends (.div 6 5 7) (on (regs hart0 5 [0x8000000000000000, -1])) (fun t => t.rs 7 == 0x8000000000000000) = true ∧
    ends (.rem 6 5 7) (on (regs hart0 5 [0x8000000000000000, -1])) (fun t => t.rs 7 == 0) = true ∧
    ends (.div 6 5 7) (on (regs hart0 5 [-7, 2])) (fun t => t.rs 7 == -3) = true ∧
    ends (.rem 6 5 7) (on (regs hart0 5 [-7, 2])) (fun t => t.rs 7 == -1) = true := by decide +kernel

/-- R98: wrapping, the high halves, shifts by sb[5:0], the counts of a zero. -/
theorem test_integer :
    ends (.add 6 5 7) (on (regs hart0 5 [-1, 2])) (fun t => t.rs 7 == 1) = true ∧
    ends (.mulh 6 5 7) (on (regs hart0 5 [-1, 2])) (fun t => t.rs 7 == -1) = true ∧
    ends (.mulhu 6 5 7) (on (regs hart0 5 [-1, 2])) (fun t => t.rs 7 == 1) = true ∧
    ends (.sra 6 5 7) (on (regs hart0 5 [-8, 65])) (fun t => t.rs 7 == -4) = true ∧
    ends (.clz 5 7) (on (regs hart0 5 [0])) (fun t => t.rs 7 == 64) = true ∧
    ends (.andn 6 5 7) (on (regs hart0 5 [0xFF, 0x0F])) (fun t => t.rs 7 == 0xF0) = true ∧
    ends (.add 6 5 0) (on (regs hart0 5 [1, 2])) (fun t => t.rs 0 == 0 && t.hart.pc == hart0.pc + 4) = true ∧
    ends (.lih 0x80000 7) (on hart0) (fun t => t.rs 7 == 0xFFFFFFFF80000000) = true := by decide +kernel

/-- R66, R104, R105: 1.0 + 2.0 in FP64, sqrt of -1 (NaN, NV), 1/0 (infinity, DZ), an ordered compare with a NaN, a
conversion that truncates and one that clamps. -/
theorem test_scalar_fp :
    ends (.fadd true 0 6 5 7) (on (regs hart0 5 [0x3FF0000000000000, 0x4000000000000000]))
      (fun t => t.rs 7 == 0x4008000000000000 && t.hart.csr.vflags == 0) = true ∧
    ends (.fsqrt true 0 5 7) (on (regs hart0 5 [0xBFF0000000000000])) (fun t => t.rs 7 == 0x7FF8000000000000) = true ∧
    ends (.fdiv false 0 6 5 7) (on (regs hart0 5 [0x3F800000, 0])) (fun t => t.rs 7 == 0x7F800000) = true ∧
    ends (.fcmpLe false 6 5 7) (on (regs hart0 5 [0x7FC00000, 0])) (fun t => t.rs 7 == 0 && t.hart.csr.vflags == 0) = true ∧
    ends (.fcvtToInt32 false 1 5 7) (on (regs hart0 5 [0xC0200000])) (fun t => t.rs 7 == -2) = true ∧
    ends (.fcvtToInt32 false 1 5 7) (on (regs hart0 5 [0x4F800000]))
      (fun t => t.rs 7 == 0x7FFFFFFF && t.hart.csr.vstat == 0x102) = true := by decide +kernel

/-- R112, R113: a branch 3 words on and a jump 5 words back; JALR to a misaligned target traps ALIGN. -/
theorem test_control :
    ends (.beq 3 0 3) (on hart0) (fun t => t.hart.pc == hart0.pc + 12) = true ∧
    ends (.jal 0xFFFFB 1) (on hart0) (fun t => t.hart.pc == hart0.pc - 20 && t.rs 1 == hart0.pc + 4) = true ∧
    ends (.jalr 2 5 1) (on (regs hart0 5 [0x1000])) (fun t => t.hart.csr.tcause == 6 && t.hart.csr.tval == 0x1002 && t.rs 1 == 0) =
      true := by decide +kernel

/-- R116-R118: ECALL saves the pc and the privilege and goes to TVEC; TRET comes back. -/
theorem test_trap_and_return :
    ends .ecall (on hart0) (fun t => t.hart.pc == 0x000F800000001000 && t.hart.csr.tpc == hart0.pc && t.hart.csr.tcause == 4 &&
      t.hart.csr.priv == 0x11 && t.hart.st == .trapped && ends .tret t (fun u => u.hart.pc == hart0.pc && u.hart.csr.priv == 0 &&
        u.hart.st == .run)) = true := by decide +kernel

/-- R114, R115: the old value of a register goes to sd; user mode traps PRIV on a register of the supervisor. -/
theorem test_csr :
    ends (.csrx 0x003 5 7) (on (regs hart0 5 [0xFF])) (fun t => t.rs 7 == 0 && t.hart.csr.vflags == 0x1F) = true ∧
    ends (.csrw 0x103 9) (on hart0) (fun t => t.hart.csr.tcause == 3 && t.hart.csr.tval == 0x40C29018) = true := by decide +kernel

/-- R10, R107, R108: a store of four bytes and loads of its bytes, sign- and zero-extended. -/
theorem test_load_store :
    ends (.stW 0 6 5) (on (regs hart0 5 [0x000F800000000040, 0x123488FF])) (fun t =>
      ends (.ldB 0 5 7) t (fun u => u.rs 7 == -1) && ends (.ldHu 0 5 7) t (fun u => u.rs 7 == 0x88FF) &&
      ends (.ldW 0 5 7) t (fun u => u.rs 7 == 0x123488FF) && ends (.ldD 0 5 7) t (fun u => u.rs 7 == 0x123488FF)) = true ∧
    ends (.ldW 2 5 7) (on (regs hart0 5 [0x000F800000000040])) (fun t => t.hart.csr.tcause == 6) = true ∧
    ends (.ldW 0 5 7) (on (regs hart0 5 [0x000FB00000000000])) (fun t => t.hart.csr.tcause == 7) = true := by decide +kernel

/-- R109: the old word comes back, and a compare that fails leaves the word. -/
theorem test_atomics :
    ends (.amoMax 0 4 6 5 7) (on (regs hart0 5 [0x000F800000000040, -1])) (fun t =>
      t.rs 7 == 0 && ends (.amoAdd 3 4 6 5 7) t (fun u => u.rs 7 == 0 &&
        ends (.cas 0 4 0 5 8) u (fun v => v.rs 8 == -1 && ends (.ldD 0 5 9) v (fun w => w.rs 9 == -1)))) = true := by
  decide +kernel

/-- R250: the window addresses of the example: core 17 of Isle 3, its lane 5, and the alias of its own core. -/
theorem test_window :
    windowPlace State.reset 0 0x000F344000002000 = .core (3 * 64 + 17) 0x2000 ∧
    windowPlace State.reset 0 0x000F344001028000 = .core (3 * 64 + 17) (0x1000000 + 5 * 0x8000) ∧
    windowPlace State.reset (3 * 64 + 17) 0x000F800000002000 = .core (3 * 64 + 17) 0x2000 := by decide +kernel

/-- R308: the example: span 2, L = 6: a request of 5,000 gets 3,072, and VSETVL.X gets its 4,096. -/
theorem test_vsetvl :
    let h := { hart0 with csr := { hart0.csr with span := 2, vlmaxc := 131072, budget := 98304 } }
    ends (.vsetvl 3 6 5) (on (regs h 6 [5000])) (fun t => t.rs 5 == 3072) = true ∧
    ends (.vsetvlX 3 6 5) (on (regs h 6 [4096])) (fun t => t.rs 5 == 4096) = true ∧
    ends (.vsetvlX 3 6 5) (on (regs h 6 [4097])) (fun t => t.hart.csr.tcause == 9) = true := by decide +kernel

/-- R131, R139: INT8 addition wraps, an inactive element and one beyond n keep their values. -/
theorem test_vadd :
    let h := vec (vec (vec hart0 2 1 [127, 1, 2, 3, 4]) 3 1 [1, 1, 1, 1, 1]) 4 1 [9, 9, 9, 9, 9]
    let h := { h with k := h.k.set 3 ⟨0b1011, 0⟩ }
    ends (.vaddVV false 3 3 2 4) (on h) (fun t => (List.range 5).map (t.elem 4 (plain 1)) == [128, 2, 9, 4, 9]) = true := by
  decide +kernel

/-- R145: a carry out of an unsigned sum, with a carry in. -/
theorem test_vadc :
    let h := vec (vec hart0 2 7 [0xFFFFFFFF, 1]) 3 7 [0, 1]
    let h := { h with k := h.k.set 1 ⟨0b0001, 0⟩ }
    ends (.vadcVV false 1 3 2 4) (on h) (fun t => (List.range 2).map (t.elem 4 (plain 7)) == [0, 2] && (t.mask 1).bits == 1) = true := by
  decide +kernel

/-- R171: the example of the merges: LO gives the three 1, 3, 3 and the 3 of vb, HI the 4, VMERGEC the count 3. -/
theorem test_merge :
    let tag := fun n => sortedTag 3 false false false n
    let h := vec (vec hart0 4 (tag 3) [1, 3, 3]) 6 (tag 2) [3, 4]
    ends (.vmergeLo false 6 4 8) (on h) (fun t => (List.range 4).map (t.elem 8 (plain 3)) == [1, 3, 3, 3] &&
      VTag.len (t.vtag 8) == 4) = true ∧
    ends (.vmergeHi false 6 4 8) (on h) (fun t => (List.range 4).map (t.elem 8 (plain 3)) == [4, 0, 0, 0] &&
      VTag.len (t.vtag 8) == 1) = true ∧
    ends (.vmergec false 9 6 4 8) (on h) (fun t => t.rs 9 == 3) = true := by decide +kernel

/-- R201: the example: 0.7, -3.2, 9.0, -9.0 become 1, -3, 7, -7 as PL4, with NX and VSTAT.SAT; without .sat the third traps. -/
theorem test_pcvt :
    let h := regs (vec hart0 4 10 [0x3F333333, 0xC04CCCCD, 0x41100000, 0xC1100000]) 9 [0x3F800000]
    ends (.pcvt false true false 3 0 9 4 10) (on h) (fun t =>
      (List.range 4).map (fun e => planeValue (elTy (t.vtag 10)) (t.elem 10 (elTy (t.vtag 10)) e)) == [1, -3, 7, -7] &&
      t.hart.csr.vstat == 0x102 && t.hart.csr.vflags == 1) = true ∧
    ends (.pcvt false false false 3 0 9 4 10) (on h) (fun t => t.hart.csr.tcause == 0x0D && t.hart.csr.vstart == 2) = true := by
  decide +kernel

/-- R162: the example: a quarter turn at position 5 takes (1.0, 0.0) to (0.0, 1.0). -/
theorem test_vrope :
    let h := regs (vec (vec (vec hart0 4 7 [5]) 10 10 [0x3F800000]) 11 10 [0]) 7 [0x400000000000]
    ends (.vrope false 0 7 4 10) (on { h with csr := { h.csr with vl := 1 } })
      (fun t => t.elem 10 (plain 10) 0 == 0 && t.elem 11 (plain 10) 0 == 0x3F800000) = true := by decide +kernel

/-- R182, R187: the example: six pushes to a list of K = 3, then the header, the sums 15.0 and 7.0, and the threshold 5.0. -/
theorem test_ranked :
    let h := vec (vec hart0 8 10 [0x40000000, 0x40A00000, 0x40A00000, 0x3F800000, 0x40800000, 0x40A00000]) 9 7 [7, 3, 1, 9, 4, 8]
    let h := regs { h with z := h.z.set 1 { Tile.zero with ranked := true }, csr := { h.csr with vl := 6 } } 5 [3]
    ends (.zrcfg 0 0 5 1) (on h) (fun t => ends (.zrpush false 0 8 1) t (fun u => ends (.zwait 6 1) u (fun v =>
      ends (.zrhdr 8 1) v (fun w => w.rs 8 == 0x30003 && w.rs 9 == 0x40A00000 && w.rs 10 == 0x402E000000000000 &&
        w.rs 11 == 0x401C000000000000)))) = true := by decide +kernel

/-- R202: the example: planes of (1, -1, 0, 1) as PL2 against (1, 1, 0, 1) as PZ1 give 1. -/
theorem test_zpop :
    let h := vec (vec hart0 8 (planeTag 16 2) [1, 3, 0, 1]) 10 (planeTag 18 1) [1, 1, 0, 1]
    ends (.zpop false 0 10 8 0) (on h) (fun t => (t.tile 0).elem 0 0 == 1 && (t.tile 0).kind == .int) = true := by decide +kernel

/-- R223: the example: the offsets of element (10, 37) of a 20 by 40 tensor in four layouts. -/
theorem test_layouts :
    layoutOffset ⟨0, 0, 0, 0⟩ [20, 40] [10, 37] = 437 ∧ layoutOffset ⟨0, 1, 0, 0⟩ [20, 40] [10, 37] = 750 ∧
    layoutOffset ⟨1, 0, 0, 1⟩ [20, 40] [10, 37] = 677 ∧ layoutOffset ⟨2, 0, 0, 1⟩ [20, 40] [10, 37] = 682 := by decide +kernel

/-- R234: the example: five positions through a table of two entries; VXLATE.FF leaves VL = 4. -/
theorem test_vxlate :
    let h := regs (vec hart0 4 7 [14, 16, 28, 31, 40]) 9 [0x000F800000000100, 4 + 16 * 2 ^ 16 + 2 * 2 ^ 32, 0x8000000000]
    let s := { on { h with csr := { h.csr with vl := 5 } } with mem := [(coreKey 0 0x100, 5), (coreKey 0 0x104, 9)] }
    ends (.vxlate 0 true 2 9 4 8) s (fun t => (List.range 5).map (t.elem 8 (plain 8)) ==
      [0x80000005E0, 0x8000000900, 0x80000009C0, 0x80000009F0, 0] && t.hart.csr.vl == 4 && (t.mask 2).bits == 16) = true := by
  decide +kernel

/-- R78, R309: from reset with one word placed, the step runs it. -/
theorem test_step_runs_the_word :
    (match step (State.reset.withFetchWord 32 0xFFF04202) with
      | .next t => t.rs 4 == -8 && t.hart.pc == 0x000F800000000004
      | _ => false) = true := by decide +kernel

/-- R150: two FP32 registers narrowed into one of BF16: their elements alternate. -/
theorem test_vpack :
    let h := vec (vec hart0 4 10 [0x3F800000, 0x40400000]) 5 10 [0x40000000, 0x40800000]
    ends (.vpack2 false false 0 11 4 2) (on { h with csr := { h.csr with vl := 2 } }) (fun t =>
      (List.range 4).map (t.elem 2 (plain 11)) == [0x3F80, 0x4000, 0x4040, 0x4080]) = true := by decide +kernel

/-- R203, R204: a row moved into a tile and out again in the transposed form: element (3, 0) is element 3 of column 0. -/
theorem test_tile_moves :
    let h := regs (vec (vec hart0 2 8 [1, 2, 3, 0xFFFFFFFFFFFFFFFF]) 3 4 [0, 0, 0, 0xFFFFFFFFFFFFFFFF]) 5 [3, 0]
    ends (.zmovz false 0 2 5 0 1) (on h) (fun t => ends (.zwait 7 1) t (fun t => t.rs 7 == 4 &&
      ends (.zmovv false 0 8 6 1 1) t (fun u => (List.range 4).map (u.elem 8 (plain 8)) == [0, 0, 0, 1] && u.vtype 9 == 4) &&
      ends (.zmovv false 0 8 5 0 1) t (fun u => (List.range 4).map (u.elem 8 (plain 8)) == [1, 2, 3, 2 ^ 64 - 1] &&
        (List.range 4).map (u.elem 9 (plain 4)) == [0, 0, 0, 0xFFFF]))) = true := by decide +kernel

/-- R210, R211: the eight items of the three groups of the example: items 3, 4, 6 and the end. -/
theorem test_gts :
    let g0 : GroupRec := ⟨300, 256, 1024, 128, 128, 0⟩
    let s := fun next => { on hart0 with gangs := [{ loadedGang with groups := [g0, { g0 with m := 0 }, { g0 with m := 40 }], nextItem := next }] }
    ends (.gtsnext 8) (s 3) (fun t => [t.rs 8, t.rs 9, t.rs 10, t.rs 11] == [0, 0x8000000080, 0x40000000000, 0x300800080]) = true ∧
    ends (.gtsnext 8) (s 4) (fun t => [t.rs 8, t.rs 9, t.rs 11] == [0, 0x100, 0x30080002C]) = true ∧
    ends (.gtsnext 8) (s 6) (fun t => [t.rs 8, t.rs 9, t.rs 11] == [2, 0, 0x300800028]) = true ∧
    ends (.gtsnext 8) (s 8) (fun t => [t.rs 8, t.rs 9, t.rs 10, t.rs 11] == [0x8000000000000000, 0, 0, 0]) = true := by decide +kernel

/-- A handle of a 4 by 4 FP32 tensor at the window address 0x400, STRIDED. -/
def handle0 : Handle := 0x000F800000000400 + (10 + 2 * 2 ^ 8) * 2 ^ 128 + (4 + 4 * 2 ^ 32) * 2 ^ 320

/-- R206, R207, R225: a row of a tensor stored from (1, 2) on, where only two elements lie within the extents; the block read
into a tile, its statistics, and the block stored to another place. -/
theorem test_tensor :
    let h := regs (vec (vec hart0 2 10 [0x3F800000, 0x40000000, 0x40400000, 0x40800000]) 9 10 []) 4 [1, 2, 0x20002, 2, 0, 0, 0x20002]
    let h := { h with h := h.h.set 3 (some handle0) }
    ends (.tst false 0 4 3 2) (on h) (fun t => readLE t.mem (coreKey 0 0x418) 8 == 0x400000003F800000 && t.mem.length == 3 &&
      ends (.zld 4 3 false 1) t (fun t => (t.tile 1).kind == .fp && ends (.zwait 0 1) t (fun t =>
        ends (.zrowstat false 0 20 7 0 1) t (fun u =>
          [u.elem 20 (plain 10) 0, u.elem 21 (plain 10) 0, u.elem 22 (plain 10) 0] == [0x40000000, 0x40400000, 0x40A00000]) &&
        ends (.zst 8 3 true 1) t (fun u => readLE u.mem (coreKey 0 0x400) 4 == 0x3F800000 &&
          readLE u.mem (coreKey 0 0x410) 4 == 0x40000000) &&
        ends (.tld false 2 4 3 9) t (fun u => (List.range 4).map (u.elem 9 (plain 10)) == [0x3F800000, 0x40000000, 0, 0] &&
          u.hart.csr.vl == 2 && (u.mask 2).bits == 3)))) = true := by decide +kernel

/-- R230, R231: a write stream takes two elements, the engine stores them, and a read stream gives them back. -/
theorem test_streams :
    let h := regs (vec hart0 6 7 [5, 6, 7, 8]) 4 [0x000F800000000500, 0, 2, 0xC3, 0x43]
    ends (.scfg 0 7 4 2) (on h) (fun t => ends (.savail 0 2 20) t (fun u => u.rs 20 == 2048) &&
      ends (.swr false 2 6) t (fun t => t.hart.csr.vl == 2 && ends (.streamWriteDrain 1 0 2 2) t (fun t =>
        readLE t.mem (coreKey 0 0x500) 8 == 0x600000005 && ends (.scfg 0 8 4 1) t (fun t =>
          ends (.streamFetch 1 0 1 2) t (fun t => ends (.savail 0 1 20) t (fun u => u.rs 20 == 2) &&
            ends (.srd false 1 6) { t with hart := vec t.hart 6 7 [] } (fun t =>
              (List.range 3).map (t.elem 6 (plain 7)) == [5, 6, 0] && t.hart.csr.vl == 2 &&
              ends (.savail 1 1 20) t (fun u => u.rs 20 == 2))))))) = true := by decide +kernel

/-- R276: of four UINT32 elements in two aligned words, a fetch of one brings in the two of its word. -/
theorem test_stream_words :
    let y : Stream := { base := 0x000F800000000500, stride := 0, avl := 4, ctl := 0x43, token := 0, position := 0, buf := [], moved := 0 }
    ends (.streamFetch 1 0 1 1) (on { hart0 with f := hart0.f.set 1 (some y) }) (fun t =>
      (t.hart.f[1].map fun y => (y.buf.length, y.moved)) == some (2, 2)) = true := by decide +kernel

/-- R26, R392: a VCVT in place from FP32 to INT32 goes on to its end in a turn that would stop it at element 2; one to another register
stands there. -/
theorem test_vcvt_in_place :
    let s := { on (vec (vec hart0 5 10 []) 2 10 [0x40000000, 0x40400000, 0x40800000]) with stopAt := some 2 }
    ends (.vcvt false 0 3 2 2) s (fun t => t.hart.pc == s.hart.pc + 4 && (List.range 3).map (t.elem 2 (plain 3)) == [2, 3, 4]) = true ∧
    ends (.vcvt false 0 3 2 5) s (fun t => t.hart.pc == s.hart.pc && t.hart.csr.vstart == 2) = true := by decide +kernel

/-- R235, R236: the example: a sequence of 48 tokens is stored in three pages; a request that differs at token 40 matches 40
and gets the three pages; PFXDET over 40 tokens detaches all three. -/
theorem test_prefix :
    let toks := (List.range 48).map (· + 100)
    let h := vec (vec hart0 4 3 toks) 5 3 (toks.take 40 ++ [7])
    let h := regs { h with csr := { h.csr with vl := 48 } } 8 [0x000F800000000600, 9]
    let s := { on h with mem := [(coreKey 0 0x600, 11), (coreKey 0 0x604, 12), (coreKey 0 0x608, 13)] }
    ends (.pfxins 0 8 4 20) s (fun t => t.rs 20 == 0 && t.atoll.length == 3 &&
      ends (.pfxlook 0 8 5 20) { t with hart := regs t.hart 8 [0x000F800000000700] } (fun t => t.rs 20 == 40 &&
        (List.range 3).map (fun i => readLE t.mem (coreKey 0 (0x700 + 4 * i)) 4) == [11, 12, 13] &&
        t.atoll.map (·.count) == [2, 2, 2] &&
        ends (.pfxdet 0 8 5 20) { t with hart := { t.hart with csr := { t.hart.csr with vl := 40 } } } (fun t =>
          t.rs 20 == 3 && t.atoll.map (·.count) == [1, 1, 1]) &&
        ends (.pfxevict 0 8 4 20) t (fun t => t.rs 20 == 0x0100000000000000))) = true := by decide +kernel

/-- R237, R238: a bay of one slot of 64 bytes takes the first of two parcels and counts the second as dropped. -/
theorem test_parcels :
    let h := vec (vec hart0 4 8 [0x10000003, 0x10000003]) 6 8 [0x000F800000000800, 0x000F800000000800]
    let h := regs { h with csr := { h.csr with vl := 2 } } 5 [64, 0x000F800000000900, 0x10003]
    let s := { on h with mem := [(coreKey 0 0x800, 77)] }
    ends (.pbay 0 7 6) s (fun t => t.bays.length == 1 && ends (.psend 0 0 6 4 5) t (fun t => t.rs 5 == 0x100000001 &&
      loadWord t (coreKey 0 0x900) == 1 && loadWord t (coreKey 0 0x908) == 1 && loadWord t (coreKey 0 0x940) == 77)) = true := by
  decide +kernel

/-! ### States that meet the hypotheses of the statements -/

/-- The convoy with an instruction that names `u`. -/
def cvOf (s : State) (u : VUse) : Convoy := match joinConvoy s.hart.convoy u with | .ok c => c | .error _ => s.hart.convoy
/-- Do the checks of issue pass? -/
def issuesB (s : State) (u : VUse) : Bool :=
  (!u.needsVl || s.von) && (u.vr ++ u.vw).all (fun r => decide (r < s.foot ∧ r < 32)) &&
  u.zs.all (fun z => decide (z < s.tiles ∧ z < 8)) && (u.kr ++ u.kw).all (fun k => decide (k < 8)) &&
  (match joinConvoy s.hart.convoy u with | .ok _ => true | .error _ => false) &&
  ((u.sr.map (BitVec.ofNat 5)).all fun r => r == 0 || !s.hart.sPoison.getLsbD r.toNat) && s.stopAt == none &&
  s.hart.progress == none
theorem issues_of {s : State} {u : VUse} (h : issuesB s u = true) : s.issues u (cvOf s u) := by
  simp only [issuesB, Bool.and_eq_true, List.all_eq_true, decide_eq_true_eq, Bool.or_eq_true, Bool.not_eq_true', beq_iff_eq] at h
  obtain ⟨⟨⟨⟨⟨⟨⟨h1, h2⟩, h3⟩, h4⟩, h5⟩, h6⟩, h7⟩, h8⟩ := h
  refine ⟨fun hv => ?_, h2, h3, h4, ?_, fun r hr h0 => (h6 r hr).resolve_left h0, h7, h8⟩
  · cases h1 with
    | inl h => rw [hv] at h; cases h
    | inr h => exact h
  · unfold cvOf; revert h5; cases joinConvoy s.hart.convoy u <;> simp
theorem some_of {α : Type} {o : Option α} {P : α → Prop} [DecidablePred P] (h : (o.any fun x => decide (P x)) = true) :
    ∃ x, o = some x ∧ P x := by
  cases o with
  | none => cases h
  | some x => exact ⟨x, rfl, by simpa using h⟩
/-- Storage of core 0 in the window of its own core. -/
theorem window_of {s : State} {a : Word} {n core off : Nat} (h : a.toNat % n = 0 ∧ bits a 52 12 = 0 ∧ inWindow a = true ∧
    windowPlace s s.hart.home a = .core core off ∧ coreAccessOk s s.hart core off = true) :
    s.windowKey a n (coreKey core off) := ⟨h.1, h.2.1, h.2.2.1, core, off, h.2.2.2.1, h.2.2.2.2, rfl⟩
/-- A page of 4 KiB at 0x5000 that is mapped, readable, writable and executable by user mode, to 0x3000. -/
def mapped (h : Hart) : State := { on h with stc := [⟨0, h.asid, 0x5000, 4096, 0x30FD⟩] }
/-- Page tables that map page 5 of address space 0 to 0x3000 for every access, and page 6 to 0x4000 for loads. -/
def tables : List Host.Cell :=
  writeLE (writeLE (writeLE (writeLE (writeLE (writeLE [] 0 8 0x8000000000010000) 0x10000 8 0x20001) 0x20000 8 0x21001)
    0x21000 8 0x22001) 0x22028 8 0x303D) 0x22030 8 0x4025
def walked (h : Hart) : State := { on h with mem := tables }
theorem all_some {α : Type} {l : List Nat} {o : Nat → Option α} {P : α → Prop} [DecidablePred P]
    (h : (l.all fun e => (o e).any fun x => decide (P x)) = true) : ∀ e ∈ l, ∃ x, o e = some x ∧ P x :=
  fun e he => some_of (List.all_eq_true.mp h e he)
/-- The numbers below `n` as a list. -/
theorem below {n : Nat} {P : Nat → Prop} (h : ∀ j ∈ List.range n, P j) : ∀ j < n, P j := fun j hj => h j (List.mem_range.mpr hj)
/-- The state after the instruction, where it ends in one. -/
noncomputable def after (i : Instr) (s : State) : State := match exec i s with | .next t => t | _ => s
/-- The keys of `n` words of eight bytes of core 0's storage from `off` on. -/
def wordKeys (off n : Nat) : List Nat := (List.range n).map fun j => coreKey 0 (off + 8 * j)
theorem ok_of {ε α : Type} {e : Except ε α} {P : α → Prop} [DecidablePred P]
    (h : (match e with | .ok x => decide (P x) | .error _ => false) = true) : ∃ x, e = .ok x ∧ P x := by
  cases e with
  | ok x => exact ⟨x, rfl, by simpa using h⟩
  | error _ => cases h
theorem ok_eq {ε α : Type} [DecidableEq α] {e : Except ε α} {v : α}
    (h : (match e with | .ok x => decide (x = v) | .error _ => false) = true) : e = .ok v :=
  let ⟨_, h1, h2⟩ := ok_of (P := fun x => x = v) h; h2 ▸ h1
/-- Two options that are equal, where equality is decided by the kernel. -/
theorem some_eq {α : Type} [DecidableEq α] {o : Option α} {v : α} (h : (o.any fun x => decide (x = v)) = true) : o = some v :=
  let ⟨_, h1, h2⟩ := some_of (P := fun x => x = v) h; h2 ▸ h1
/-- Nothing of the hart is still to be performed, as a check. -/
def settledB (s : State) : Bool :=
  decide (s.hart.order = .prompt) && decide (s.hart.transfers = []) &&
    decide (∀ i : Fin 8, (s.hart.f[i].any fun f => f.writes && f.buf != []) = false)
theorem settled_of {s : State} (h : settledB s = true) : s.settled := by
  simp only [settledB, Bool.and_eq_true, decide_eq_true_eq] at h
  refine ⟨h.1.1, h.1.2, fun i f hf hw => ?_⟩
  have hi := h.2 i
  rw [hf] at hi
  simpa [hw] using hi
theorem quiet_of {s : State} {n : Nat} (h : settledB s = true) (hp : s.hart.psend = none)
    (hr : remoteWritesPending s s.hart.name.1 s.hart.name.2 = false) : s.quiet n := ⟨settled_of h, hp, fun _ => hr⟩


/-- IntegerOperations, ImmediatesAndConstants, ScalarFloatingPoint, ControlTransfer (JALR to an aligned and to a misaligned
target): no source is poisoned, and no handler runs. -/
theorem witness_scalars :
    let s := on (regs hart0 5 [0x1000, 2])
    s.unpoisoned [5, 6, 7] ∧ (s.rs 5 + (4 : BitVec 15).signExtend 64).toNat % 4 = 0 ∧
      (s.rs 5 + (2 : BitVec 15).signExtend 64).toNat % 4 ≠ 0 ∧ s.hart.tact = false := by
  unfold State.unpoisoned; decide +kernel

/-- IntegerOperations, ImmediatesAndConstants: CLZ with a B field, an ADD with the convoy bit, a shift with selector 3, one with
a reserved bit, and LIW with each of its fixed fields wrong. -/
theorem witness_rejected :
    (((0x16 : BitVec 10) ∈ ([0x16, 0x17, 0x18] : List (BitVec 10)) ∧ (1 : BitVec 5) ≠ 0) ∧ (0x200 : BitVec 10).getMsbD 0 = true) ∧
    ((3 : BitVec 2) = 3 ∧ (1 : BitVec 7) ≠ 0) ∧
    ((1 : BitVec 8) ≠ 0 ∧ (2 : BitVec 7) ≠ 1 ∧ (1 : BitVec 5) ≠ 0) := by decide

/-- ControlRegisterAccess: a register any mode may use, in user mode, and one of the supervisor outside it. -/
theorem witness_csr :
    let s := on hart0
    let t := on { hart0 with csr := { hart0.csr with priv := 1 } }
    (s.hart.user = true → (0x000 : BitVec 10) ∉ supervisorCsrs) ∧ csrListed 0x000 = true ∧ s.unpoisoned [5] ∧
    (t.hart.user = true → (0x105 : BitVec 10) ∉ supervisorCsrs) ∧ csrListed 0x105 = true ∧ t.unpoisoned [5] := by
  unfold State.unpoisoned; decide +kernel

/-- PrivilegeIsGuarded: a user-mode hart and a register of the supervisor; a supervisor-mode hart and one in service mode whose
PREV is supervisor mode. -/
theorem witness_privilege :
    let at_ := fun p : Word => on { hart0 with csr := { hart0.csr with priv := p } }
    ((at_ 0).hart.user = true ∧ (at_ 0).hart.tact = false ∧ 0x103 ∈ supervisorCsrs) ∧
    ((at_ 1).hart.user = false ∧ (at_ 1).hart.privOk ∧ (at_ 1).unpoisoned [5] ∧ (at_ 1).hart.cur = 1) ∧
    ((at_ 6).hart.user = false ∧ (at_ 6).hart.privOk ∧ (at_ 6).unpoisoned [5] ∧ (at_ 6).hart.cur = 2) := by
  unfold State.unpoisoned Hart.privOk; decide +kernel

/-- EcallAndEbreakTrap, TrapAndReturnComeBack, TretReturns, DoubleTrapStopsTheHart: a hart that runs no handler, in user
mode, one in a handler, one in a handler of no gang. -/
theorem witness_traps :
    let s := on hart0
    let t := on { hart0 with csr := { hart0.csr with priv := 0x11 }, st := .trapped }
    (s.hart.user = true ∧ s.hart.tact = false ∧ s.hart.st = .run ∧ s.hart.pc.toNat % 4 = 0) ∧ (t.hart.user = false ∧ t.hart.tact = true) ∧
    ({ t with gangs := [] }.hart.tact = true ∧ findGang { t with gangs := [] } t.hart.name.1 = none) ∧ t.memoryOk ∧
    (findGang t t.hart.name.1 = some loadedGang ∧ t.hart.name.1 ≠ 0 ∧ (t.harts.map Hart.name).Nodup ∧
      (∀ h ∈ t.harts, h.name.1 = t.hart.name.1 → h.settled = true ∧ h.order = .prompt ∧
        remoteWritesPending t h.name.1 h.name.2 = false) ∧
      (∀ l ∈ t.l1d, 64 * l.line + 64 ≤ mainBytes) ∧ loadedGang.fpol = 0 ∧ loadedGang.caddr = 0) ∧
    (let g := { loadedGang with record := setRecWord 0 2 0x40010208101 }
     findGang { t with gangs := [g] } t.hart.name.1 = some g ∧ g.fpol ≠ 0) := by
  refine ⟨?_, ?_, ?_, ?_, ?_, ?_⟩ <;>
    first
    | decide +kernel
    | (unfold State.memoryOk; decide +kernel)

/-- IllegalWordsAndFetchFaultsTrap: a pc outside 52 bits, in an unmapped part of the window, and without a mapping. -/
theorem witness_fetch_faults :
    let at_ := fun p : Word => on { hart0 with pc := p }
    ((at_ 0x0010000000000000).hart.pc.toNat % 4 = 0 ∧ bits (at_ 0x0010000000000000).hart.pc 52 12 ≠ 0) ∧
    (let s := at_ 0x000FB00000000000
     s.hart.pc.toNat % 4 = 0 ∧ bits s.hart.pc 52 12 = 0 ∧ inWindow s.hart.pc = true ∧
      windowPlace s s.hart.home s.hart.pc = .unmapped) ∧
    (let s := at_ 0x1000
     s.hart.pc.toNat % 4 = 0 ∧ inWindow s.hart.pc = false ∧
      translate s s.hart.home s.hart.asid s.hart.user .fetch s.hart.pc.toNat = none) := by decide +kernel

/-- PoisonedScalarsTrap: ADD whose second source is poisoned. -/
theorem witness_poisoned_scalar :
    let s := on { hart0 with sPoison := 0x40 }
    scalarSources (.add 6 5 7) = some [5, 6] ∧ s.hart.tact = false ∧
      [5, 6].find? (fun r => r != 0 && s.hart.sPoison.getLsbD (BitVec.toNat (w := 5) r)) = some 6 := by decide +kernel

/-- ScalarLoads, ScalarStores: a word of the window, a mapped word of main memory, and a word of another module whose line the
remote-line buffer holds. -/
theorem witness_loads_and_stores :
    let s := on (regs hart0 5 [0x000F800000000040])
    let m := mapped (regs hart0 5 [0x5FF8])
    let r := { m with stc := [⟨0, 0, 0x5000, 4096, 0x00800000000000FD⟩], rlb := [⟨0, 0x80000000000FF8 / 64, 0, 0, 0⟩] }
    (s.unpoisoned [5] ∧ s.settled ∧ s.memoryOk ∧ s.windowKey (s.rs 5 + (0 : BitVec 15).signExtend 64) 8 (coreKey 0 0x40) ∧
      poisoned s (coreKey 0 0x40) 8 = false ∧ plainKey (coreKey 0 0x40) 8) ∧
    (m.unpoisoned [5] ∧ m.settled ∧ m.memoryOk ∧ m.mappedAt (m.rs 5 + (0 : BitVec 15).signExtend 64) 8 .load 0x3FF8 m ∧
      m.mappedAt (m.rs 5 + (0 : BitVec 12).signExtend 64) 8 .store 0x3FF8 m ∧ 0x3FF8 < mainBytes ∧
      m.agentPoison m.hart.home 0x3FF8 = false) ∧
    (r.unpoisoned [5] ∧ r.settled ∧ r.memoryOk ∧ r.mappedAt (r.rs 5 + (0 : BitVec 15).signExtend 64) 8 .load 0x80000000000FF8 r ∧
      mainBytes ≤ 0x80000000000FF8 ∧ isConnection 0x80000000000FF8 = false ∧
      remoteStorePending r r.hart.name.1 r.hart.name.2 0x80000000000FF8 = false ∧
      ∃ l, rlbFind r (isleOf r.hart.home) 0x80000000000FF8 = some l ∧ l.poison.getLsbD (0x80000000000FF8 % 64 / 8) = false) := by
  refine ⟨⟨?_, ?_, ?_, window_of ?_, ?_, ?_⟩, ⟨?_, ?_, ?_, ⟨?_, ?_, ?_, ?_, ?_⟩, ⟨?_, ?_, ?_, ?_, ?_⟩, ?_, ?_⟩,
    ⟨?_, ?_, ?_, ⟨?_, ?_, ?_, ?_, ?_⟩, ?_, ?_, ?_, some_of ?_⟩⟩ <;>
    first
    | decide +kernel
    | (refine settled_of ?_; decide +kernel)
    | (unfold State.unpoisoned; decide +kernel)
    | (unfold State.memoryOk; decide +kernel)
    | (unfold State.pagesOk; decide +kernel)
    | (unfold plainKey; decide +kernel)

/-- AddressChecks: a load whose address is misaligned; one beyond 52 bits; in a hole of the window; without a mapping. -/
theorem witness_address_checks :
    let at_ := fun a : Word => on (regs hart0 5 [a])
    let addr := fun s : State => s.rs 5 + (0 : BitVec 15).signExtend 64
    (scalarAccess (.ldW 0 5 7)).map (fun x => (x.1, x.2.2)) = some ([5], 4, .load) ∧
    (∀ a : Fin 4, let s := at_ ([0x1002, 0x0010000000000000, 0x000FB00000000000, 0x1000].getD a.val 0)
      s.unpoisoned [5] ∧ s.hart.tact = false) ∧
    (addr (at_ 0x1002)).toNat % 4 ≠ 0 ∧
    ((addr (at_ 0x0010000000000000)).toNat % 4 = 0 ∧ bits (addr (at_ 0x0010000000000000)) 52 12 ≠ 0) ∧
    (let s := at_ 0x000FB00000000000
     (addr s).toNat % 4 = 0 ∧ bits (addr s) 52 12 = 0 ∧ inWindow (addr s) = true ∧ windowPlace s s.hart.home (addr s) = .unmapped) ∧
    (let s := at_ 0x1000
     (addr s).toNat % 4 = 0 ∧ bits (addr s) 52 12 = 0 ∧ inWindow (addr s) = false ∧
      translate s s.hart.home s.hart.asid s.hart.user .load (addr s).toNat = none) := by
  unfold State.unpoisoned; decide +kernel

/-- TranslationKeepsPageOffsets: a page found by a walk of the tables. -/
theorem witness_translation :
    let s := walked hart0
    s.pagesOk ∧ s.memoryOk ∧ (∃ s1, translate s 0 0 true .store 0x5ABC = some (0x3ABC, s1)) ∧
      (∃ l, walk s (isleOf 0) 0 0x5ABC = some l ∧ l.key = 0x22028) := by
  refine ⟨?_, ?_, ⟨_, rfl⟩, some_of ?_⟩
  · unfold State.pagesOk; decide +kernel
  · unfold State.memoryOk; decide +kernel
  · decide +kernel

/-- ScalarAtomics: a word of the window; and a word of main memory, at scope HART and, with release and acquire, at SYSTEM. -/
theorem witness_atomics :
    let s := on (regs hart0 5 [0x000F800000000040])
    let m := mapped (regs hart0 5 [0x5FF8])
    (s.unpoisoned [5, 6] ∧ s.settled ∧ s.memoryOk ∧ s.linesOfMain s.hart.home ∧
      remoteWritesPending s s.hart.name.1 s.hart.name.2 = false ∧ s.windowKey (s.rs 5) 8 (coreKey 0 0x40) ∧
      mainBytes ≤ coreKey 0 0x40 ∧ plainKey (coreKey 0 0x40) 8 ∧ poisoned s (coreKey 0 0x40) 8 = false) ∧
    (m.unpoisoned [5, 6] ∧ m.settled ∧ m.memoryOk ∧ m.linesOfMain m.hart.home ∧
      remoteWritesPending m m.hart.name.1 m.hart.name.2 = false ∧ m.mappedAt (m.rs 5) 8 .store 0x3FF8 m ∧
      (releaseL1d m 8).mappedAt (m.rs 5) 8 .store 0x3FF8 (releaseL1d m 8) ∧ 0x3FF8 < mainBytes ∧
      m.agentPoison m.hart.home 0x3FF8 = false ∧
      poisoned (dropLine (releaseL1d m 8) m.hart.home (0x3FF8 / 64)) 0x3FF8 8 = false) := by
  refine ⟨⟨?_, ?_, ?_, ?_, ?_, window_of ?_, ?_, ?_, ?_⟩, ⟨?_, ?_, ?_, ?_, ?_, ⟨?_, ?_, ?_, ?_, ?_⟩, ⟨?_, ?_, ?_, ?_, ?_⟩, ?_, ?_, ?_⟩⟩ <;>
    first
    | decide +kernel
    | (refine settled_of ?_; decide +kernel)
    | (unfold State.unpoisoned; decide +kernel)
    | (unfold State.memoryOk; decide +kernel)
    | (unfold State.pagesOk; decide +kernel)
    | (unfold State.linesOfMain; decide +kernel)
    | (unfold plainKey; decide +kernel)

/-- MemoryLaws: memories in the canonical form, and a line of the L1D with a dirty byte. -/
theorem witness_memory :
    memWf tables = true ∧ (on hart0).memoryOk ∧ (⟨0, 5, 0xAB00, 2, 0⟩ : L1dLine).dirty.getLsbD 1 = true := by
  unfold State.memoryOk; decide +kernel

/-- SpawnPostsOrRejects, GangBarrier, HartExit, Fences: a hart with nothing under way, in a gang of one. -/
theorem witness_quiet :
    let s := on (regs hart0 5 [0x000F800000000040])
    (∀ n, s.quiet n) ∧ s.memoryOk ∧ s.linesOfMain s.hart.home ∧ s.hart.tact = false ∧
      findGang s s.hart.name.1 = some loadedGang ∧ loadedGang.arrived + 1 + loadedGang.exits = loadedGang.expected ∧
      loadedGang.exits < loadedGang.expected ∧
      ((findGang s s.hart.name.1).map Gang.cscope).getD 6 = loadedGang.cscope := by
  refine ⟨fun n => quiet_of ?_ ?_ ?_, ?_, ?_, ?_, ?_, ?_, ?_, ?_⟩ <;>
    first
    | decide +kernel
    | (unfold State.memoryOk; decide +kernel)
    | (unfold State.linesOfMain; decide +kernel)

/-- Fences: a hart whose vector agent lags, with a store of it not yet performed and a line of the L1D that its vector agent has
written to; one whose scalar agent lags; and the words they reach, for SYSTEM and for ISLE. -/
theorem witness_fences :
    let q (a b : Bool) (l : List Pending) : AgentQueues := ⟨a, b, [], l, []⟩
    let k := coreKey 0 0x40
    let s := { on { regs hart0 5 [0x000F800000000040, 7] with order := q false true [.store k 8 5 2], written := [5] } with
      l1d := [⟨0, 5, 0xAB00, 0, 0⟩] }
    let t := on { regs hart0 5 [0x000F800000000040, 7] with order := q true false [] }
    let w := on { regs hart0 5 [0x000F800000000040, 7] with order := q false true [] }
    let two := on { hart0 with order := q false true [.store k 4 5 2, .store (k + 4) 4 6 2] }
    let p := { on { hart0 with covered := [3] } with requests := [⟨3, 1, 0x80000000000FF8, 8, 0, some (2, 0), 0, 0, none, false⟩] }
    ((∀ n, (setOrder s .prompt).quiet n) ∧ s.memoryOk ∧ s.hart.order = ⟨false, true, [], [.store k 8 5 2], []⟩ ∧ plainKey k 8 ∧
      (∀ l ∈ s.l1d, l.dirty = 0) ∧ 5 ∈ s.hart.written ∧ s.unpoisoned [5] ∧
      s.windowKey (s.rs 5 + (0 : BitVec 15).signExtend 64) 8 k ∧ poisoned s k 8 = false) ∧
    ((∀ n, (setOrder t .prompt).quiet n) ∧ t.memoryOk ∧ t.hart.order = ⟨true, false, [], [], []⟩ ∧ t.unpoisoned [5, 6] ∧
      t.windowKey (t.rs 5 + (0 : BitVec 12).signExtend 64) 8 k ∧ mainBytes ≤ k ∧ poisoned t k 8 = false ∧
      t.linesOfMain t.hart.home) ∧
    (w.hart.order = ⟨false, true, [], [], []⟩ ∧ poisoned w k 8 = false ∧ w.hart.csr.vstart = 0 ∧ w.hart.progress = none) ∧
    ((∀ n, (setOrder two .prompt).quiet n) ∧ two.memoryOk ∧ two.hart.order = ⟨false, true, [], [.store k 4 5 2, .store (k + 4) 4 6 2], []⟩ ∧
      k / 8 = (k + 4) / 8 ∧ k % 8 + 4 + 4 ≤ 8 ∧ plainKey k (4 + 4) ∧ two.l1d = []) ∧
    (p.settled ∧ p.hart.psend = none ∧ ∃ r ∈ p.requests, r.stores = true ∧ r.hart ≠ some p.hart.name ∧ r.tag ∈ p.hart.covered) ∧
    (7 ≤ (8 : BitVec 4).toNat ∧ 2 ≤ (5 : BitVec 4).toNat ∧ (5 : BitVec 4).toNat < 7 ∧ (1 : BitVec 4).toNat < 2) := by
  refine ⟨⟨fun n => quiet_of ?_ ?_ ?_, ?_, ?_, ?_, ?_, ?_, ?_, window_of ?_, ?_⟩,
    ⟨fun n => quiet_of ?_ ?_ ?_, ?_, ?_, ?_, window_of ?_, ?_, ?_, ?_⟩, ?_,
    ⟨fun n => quiet_of ?_ ?_ ?_, ?_, ?_, ?_, ?_, ?_, ?_⟩, ⟨settled_of ?_, ?_, ⟨_, List.mem_cons_self .., ?_, ?_, ?_⟩⟩, ?_⟩ <;>
    first
    | decide +kernel
    | (unfold State.memoryOk; decide +kernel)
    | (unfold plainKey; decide +kernel)
    | (unfold State.unpoisoned; decide +kernel)
    | (unfold State.linesOfMain; decide +kernel)

/-- GangBarrier: a member of a gang of two, of whom the other has not arrived. -/
theorem witness_barrier_of_two :
    let g := { loadedGang with expected := 2 }
    let s := { on hart0 with gangs := [g] }
    findGang s s.hart.name.1 = some g ∧ g.arrived + 1 + g.exits ≠ g.expected := by decide +kernel

/-- WaitForWord: a word of the window and a word of main memory, with a value that each condition holds and fails for. -/
theorem witness_waits :
    let s := { on (regs hart0 5 [0x000F800000000040, 7]) with mem := [(coreKey 0 0x40, 7)] }
    let m := mapped (regs hart0 5 [0x5FF8, 0])
    (s.unpoisoned [5, 6] ∧ s.settled ∧ s.memoryOk ∧ s.windowKey (s.rs 5) 8 (coreKey 0 0x40) ∧
      poisoned s (coreKey 0 0x40) 8 = false ∧ loadWord s (coreKey 0 0x40) = s.rs 6) ∧
    (m.unpoisoned [5, 6] ∧ m.settled ∧ m.memoryOk ∧ m.mappedAt (m.rs 5) 8 .load 0x3FF8 m ∧ 0x3FF8 < mainBytes ∧
      poisoned m 0x3FF8 8 = false ∧ ¬ (loadWord m 0x3FF8).toNat < (m.rs 6).toNat) := by
  refine ⟨⟨?_, ?_, ?_, window_of ?_, ?_, ?_⟩, ⟨?_, ?_, ?_, ⟨?_, ?_, ?_, ?_, ?_⟩, ?_, ?_, ?_⟩⟩ <;>
    first
    | decide +kernel
    | (refine settled_of ?_; decide +kernel)
    | (unfold State.unpoisoned; decide +kernel)
    | (unfold State.memoryOk; decide +kernel)
    | (unfold State.pagesOk; decide +kernel)

/-- SpawnPostsOrRejects: a record in the window that is accepted, the same in main memory, and the record of zeros, which is not. -/
theorem witness_spawn :
    let rec_ := loadedGang.record
    let s := { on (regs hart0 5 [0x000F800000000040]) with mem := writeLE [] (coreKey 0 0x40) 64 rec_.toNat }
    let m := { mapped (regs hart0 5 [0x5FC0]) with mem := writeLE [] 0x3FC0 64 rec_.toNat }
    let z := on (regs hart0 5 [0x000F800000000040])
    let fits := fun (x : State) (k : Nat) => x.unpoisoned [5] ∧ x.quiet 6 ∧ x.memoryOk ∧ x.linesOfMain x.hart.home ∧
      x.gangs.length < 4096 ∧ poisoned (cleanL1d x x.hart.home) k 64 = false
    let code := fun (x : State) (k : Nat) =>
      recordCode x (BitVec.ofNat 512 (readLE (cleanL1d x x.hart.home).mem k 64)) x.hart.user
    (fits s (coreKey 0 0x40) ∧ s.windowKey (s.rs 5) 64 (coreKey 0 0x40) ∧ mainBytes ≤ coreKey 0 0x40 ∧ code s (coreKey 0 0x40) = 0) ∧
    (fits m 0x3FC0 ∧ m.mappedAt (m.rs 5) 64 .load 0x3FC0 m ∧ 0x3FC0 < mainBytes ∧ code m 0x3FC0 = 0) ∧
    (fits z (coreKey 0 0x40) ∧ code z (coreKey 0 0x40) = 1) := by
  refine ⟨⟨⟨?_, quiet_of ?_ ?_ ?_, ?_, ?_, ?_, ?_⟩, window_of ?_, ?_, ?_⟩,
    ⟨⟨?_, quiet_of ?_ ?_ ?_, ?_, ?_, ?_, ?_⟩, ⟨?_, ?_, ?_, ?_, ?_⟩, ?_, ?_⟩,
    ⟨⟨?_, quiet_of ?_ ?_ ?_, ?_, ?_, ?_, ?_⟩, ?_⟩⟩ <;>
    first
    | decide +kernel
    | (unfold State.unpoisoned; decide +kernel)
    | (unfold State.memoryOk; decide +kernel)
    | (unfold State.pagesOk; decide +kernel)
    | (unfold State.linesOfMain; decide +kernel)

/-- VectorLengthIsGranted: a request at the limit, one above it, and a hart that has no vector length yet. -/
theorem witness_vsetvl :
    let s := on (regs hart0 6 [2048, 2049])
    let t := on { hart0 with csr := { hart0.csr with vstat := 0 } }
    s.unpoisoned [6] ∧ (s.rs 6).toNat ≤ s.hart.csr.vlmaxc.toNat / 32 ∧ s.hart.csr.vlmaxc.toNat / 32 < (s.rs 7).toNat ∧
      s.hart.tact = false ∧ s.von = true ∧ t.von = false := by
  unfold State.unpoisoned; decide +kernel

/-- VcfgSetsTheTag: the tag of FP32, and one of a reserved TYPE. -/
theorem witness_vcfg :
    let s := on (regs hart0 6 [10, 31])
    let good := fun b : BitVec 5 => bit (s.rs b) 5 = false ∧ bits (s.rs b) 32 32 = 0 ∧
      tagOk ((s.rs b).extractLsb' 0 32 &&& 0xFF00001F) 4 s.foot = true
    issuesB s { whole := true, vw := [4], sr := [6] } = true ∧ issuesB s { whole := true, vw := [4], sr := [7] } = true ∧
      good 6 ∧ ¬ good 7 := by decide +kernel

/-- A hart with v2 and v3 of TYPEs `t` and `u`, v4 and v5 of TYPE `x`, and k3 set for elements 0, 1 and 3. -/
def typed4 (t u x : Nat) : Hart :=
  let h := vec (vec (vec (vec hart0 2 (typeTag t) [1, 2, 3, 4]) 3 (typeTag u) [5, 6, 7, 8]) 4 (typeTag x) []) 5 (typeTag x) []
  { h with k := h.k.set 3 ⟨0b1011, 0⟩ }
/-- What the element-wise statements ask of the state besides issue: SPAN and VLMAXC go together, the registers and masks hold no
poison, and no register is ILLEGAL or has a scale. -/
def plainly (s : State) (vs ks : List Nat) : Prop := s.spanOk ∧ s.cleanFor vs ks ∧ s.legalTypes vs ∧ s.noScale vs
/-- The same as a check. -/
def plainlyB (s : State) (vs ks : List Nat) : Bool :=
  decide (s.hart.csr.span.toNat ∈ [1, 2, 4, 8] ∧ s.hart.csr.vlmaxc.toNat = 65536 * s.hart.csr.span.toNat) &&
  vs.all (fun r => (s.v r).poison == 0 && s.vtype r != 0 && !VTag.sc (s.vtag r)) &&
  ks.all fun k => k == 0 || (s.mask k).poison == 0
theorem plainly_of {s : State} {vs ks : List Nat} (h : plainlyB s vs ks = true) : plainly s vs ks := by
  simp only [plainlyB, Bool.and_eq_true, List.all_eq_true, decide_eq_true_eq, Bool.or_eq_true, beq_iff_eq, bne_iff_ne, Bool.not_eq_true'] at h
  obtain ⟨⟨h1, h2⟩, h3⟩ := h
  exact ⟨h1, ⟨fun r hr => (h2 r hr).1.1, fun k hk h0 => (h3 k hk).resolve_left h0⟩, fun r hr => (h2 r hr).1.2, fun r hr => (h2 r hr).2⟩

/-- ElementArithmetic: FP32 and INT8 pairs, integers of one width, patterns of one width, FP32 with INT32, an immediate. -/
theorem witness_elements :
    let s := fun t u => on (typed4 t u t)
    let use := useOf false .ab 3 2 4 (.vec 3)
    (∀ p ∈ [(10, 10), (1, 1), (3, 7), (13, 14), (10, 3)], (s p.1 p.2).issues use (cvOf (s p.1 p.2) use) ∧ plainly (s p.1 p.2) [2, 3] [3]) ∧
    (sameNumber 10 (some 10) = true ∧ sameNumber 1 (some 1) = true ∧ integerPair 3 (some 7) = true ∧ patternPair 13 (some 14) = true ∧
      scalePair 10 (some 3) = true ∧ sameFloat 10 (some 10) = true) ∧
    (VSrc.vec 3).type (s 10 10) = some 10 ∧ (VSrc.imm 7).fits 3 = true ∧ (s 10 10).lanes 3 ((s 10 10).nOf 32) = [0, 1, 3] ∧
    (s 10 10).issues (useOf false .b 3 2 4 (.sca 6)) (cvOf (s 10 10) (useOf false .b 3 2 4 (.sca 6))) := by
  refine ⟨fun p hp => ⟨issues_of ?_, plainly_of ?_⟩, ?_, ?_, ?_, ?_, issues_of ?_⟩
  · revert p; decide +kernel
  · revert p; decide +kernel
  all_goals decide +kernel

/-- FusedCarriedAndWidened: FP32 for VFMA, INT32 for VADC, FP16 into FP32 for the widening ones, whose pair is not a source. -/
theorem witness_fused :
    let s := on (typed4 10 10 10)
    let i := on (typed4 3 7 3)
    let w := on (typed4 12 12 10)
    (let u := { useOf false .ab 3 2 4 (.vec 3) with vr := [2, 3, 4] }
     s.issues u (cvOf s u) ∧ plainly s [2, 3, 4] [3] ∧ sameNumber 10 (some 10) = true ∧ s.vtype 4 = s.vtype 2) ∧
    (let u := { useOf false .ab 3 2 4 (.vec 3) with kw := [3] }
     i.issues u (cvOf i u) ∧ plainly i [2, 3] [3] ∧ integerPair (i.vtype 2) (some (i.vtype 3)) = true) ∧
    (let u : VUse := { c := false, cls := some .ab, vr := [2, 3, 4, 5], vw := [4, 5], kr := [3] }
     w.issues u (cvOf w u) ∧ plainly w [2, 3, 4, 5] [3] ∧ w.vtype 2 ∈ [1, 2, 3, 5, 6, 7, 10, 11, 12] ∧ w.vtype 3 = w.vtype 2 ∧
      (∀ r ∈ [4, 5], w.vtype r = wideType (w.vtype 2)) ∧ ∀ x ∈ [2, 3], x < 4 ∨ 4 + 2 ≤ x) := by
  refine ⟨⟨issues_of ?_, plainly_of ?_, ?_, ?_⟩, ⟨issues_of ?_, plainly_of ?_, ?_⟩, ⟨issues_of ?_, plainly_of ?_, ?_, ?_, ?_, ?_⟩⟩ <;>
    decide +kernel

/-- UnaryAndConversions: FP32 for the unary ones; VCVT of a scaled INT8 to UINT8 with its scale register v6; VUNPACK of INT8 to
INT32 into four registers; VPACK2 of two FP32 registers to BF16, VPACK4 of four. -/
theorem witness_conversions :
    let s := on (typed4 10 10 10)
    let scaled := on (vec (vec (typed4 1 1 1) 2 0x31000001 [1, 2, 3, 4]) 6 (typeTag 11) [0x4000])
    (let u : VUse := { c := false, cls := some .ab, vr := [2], vw := [4], kr := [3] }
     s.issues u (cvOf s u) ∧ plainly s [2] [3] ∧ 9 ≤ s.vtype 2 ∧ s.vtype 2 ≤ 12) ∧
    (let u : VUse := { c := false, cls := some .ab, vr := [2], vw := [4], reads := scaleUse scaled 2, kr := [3] }
     scaled.issues u (cvOf scaled u) ∧ scaled.spanOk ∧ scaled.cleanFor (2 :: scaleUse scaled 2) [3] ∧ scaleUse scaled 2 = [6] ∧
      VTag.sc (scaled.vtag 2) = true ∧ scaled.scaled 2 ∧ scaled.vtype 2 = 1 ∧ isPlaneType 1 = false ∧ typeWidth 5 = typeWidth 1 ∧
      ∀ e ∈ scaled.lanes 3 (scaled.nOf 8), isReserved (elTy (scaled.vtag 2)) (scaled.elem 2 (elTy (scaled.vtag 2)) e) = false) ∧
    (let u : VUse := { c := false, cls := some .b, vr := [2], vw := [4], reads := scaleUse scaled 2, writes := [4, 5, 6, 7], kr := [3] }
     scaled.issues u (cvOf scaled u) ∧ unpackLegal (scaled.vtype 2) 3 = true ∧ typeWidth 3 / typeWidth (scaled.vtype 2) = 4 ∧ 4 % 4 = 0 ∧
      ∀ j < 4, 4 + j < scaled.foot ∧ 4 + j < 32) ∧
    (let u : VUse := { c := false, cls := some .b, vr := [2, 3], vw := [9] }
     s.issues u (cvOf s u) ∧ plainly s [2, 3] [] ∧ (∀ x ∈ [2, 3], s.vtype x = 10) ∧ 11 ∈ [11, 12]) ∧
    (let u : VUse := { c := false, cls := some .b, vr := [2, 3, 4, 5], vw := [9] }
     s.issues u (cvOf s u) ∧ plainly s [2, 3, 4, 5] [] ∧ ∀ x ∈ [2, 3, 4, 5], s.vtype x = 10) := by
  refine ⟨⟨issues_of ?_, plainly_of ?_, ?_, ?_⟩, ⟨issues_of ?_, ?_, ?_, ?_, ?_, ?_, ?_, ?_, ?_, ?_⟩, ⟨issues_of ?_, ?_, ?_, ?_, ?_⟩,
    ⟨issues_of ?_, plainly_of ?_, ?_, ?_⟩, ⟨issues_of ?_, plainly_of ?_, ?_⟩⟩ <;>
    first
    | decide +kernel
    | (unfold State.spanOk Hart.spanOk; decide +kernel)
    | (unfold State.cleanFor; decide +kernel)
    | (unfold State.scaled; decide +kernel)

/-- VectorCompares, MaskOperations. -/
theorem witness_masks :
    let s := on (typed4 10 10 10)
    (let u : VUse := { c := false, cls := some .ab, vr := [2, 3], kr := [3], kw := [2] }
     s.issues u (cvOf s u) ∧ plainly s [2, 3] [3] ∧ sameNumber (s.vtype 2) (some (s.vtype 3)) = true) ∧
    (let u : VUse := { c := false, cls := some .ab, whole := true, kr := [3, 1], kw := [2] }
     s.issues u (cvOf s u) ∧ plainly s [] [3, 1]) ∧
    (let u : VUse := { c := false, cls := some .ab, whole := true, kr := [3], sw := [9] }
     s.issues u (cvOf s u) ∧ plainly s [] [3]) := by
  refine ⟨⟨issues_of ?_, plainly_of ?_, ?_⟩, ⟨issues_of ?_, plainly_of ?_⟩, ⟨issues_of ?_, plainly_of ?_⟩⟩ <;> decide +kernel

/-- MovesAndPermutes: a sorted INT32 run for VMV; VEXT inside and beyond the register; VGATHER by signed indices from the pair
v2, v3; VZIP of that pair. -/
theorem witness_permutes :
    let s := on (regs (vec (typed4 3 3 3) 6 (typeTag 3) [3, 0, 1, 2]) 6 [1, 9])
    let sorted := on (vec (typed4 3 3 3) 2 (sortedTag 3 false false false 4) [1, 2, 3, 4])
    (let u : VUse := { c := false, cls := some .mp, vr := [2], vw := [4], kr := [0] }
     sorted.issues u (cvOf sorted u) ∧ plainly sorted [2] [0] ∧ VTag.s (sorted.vtag 2) = true ∧ VTag.pay (sorted.vtag 2) = false ∧
      sorted.vstart = 0) ∧
    (let u : VUse := { c := false, cls := some .mp, cross := true, whole := true, vr := [2], sr := [6], sw := [8] }
     s.issues u (cvOf s u) ∧ plainly s [2] [] ∧ (s.rs 6).toNat < s.nOf 32 ∧ s.nOf 32 ≤ (s.rs 7).toNat) ∧
    (let u : VUse := { c := false, cls := some .mp, cross := true, whole := true, vr := [2, 6], reads := [3], vw := [4], kr := [3] }
     s.issues u (cvOf s u) ∧ plainly s [2, 6, 3] [3] ∧ isInt (s.vtype 6) = true ∧ isSigned (s.vtype 6) = true ∧ s.vtype 3 = s.vtype 2 ∧
      3 < s.foot) ∧
    (let u : VUse := { c := false, cls := some .mp, cross := true, whole := true, vr := [2, 3], vw := [4, 5] }
     s.issues u (cvOf s u) ∧ plainly s [2, 3] [] ∧ s.vtype 3 = s.vtype 2) ∧
    (let u : VUse := { c := false, cls := some .mp, cross := true, whole := true, vw := [4], kr := [3] }
     s.issues u (cvOf s u) ∧ isInt (s.vtype 4) = true) ∧
    (let u : VUse := { cross := true, whole := true, vr := [2], vw := [4], sr := [6] }
     s.issues u (cvOf s u)) := by
  refine ⟨⟨issues_of ?_, plainly_of ?_, ?_, ?_, ?_⟩, ⟨issues_of ?_, plainly_of ?_, ?_, ?_⟩, ⟨issues_of ?_, plainly_of ?_, ?_, ?_, ?_, ?_⟩,
    ⟨issues_of ?_, plainly_of ?_, ?_⟩, ⟨issues_of ?_, ?_⟩, issues_of ?_⟩ <;> decide +kernel

/-- ReductionsAndGenerators: FP32 for the reductions and VSOFT, UINT32 for VRAND, an UINT32 position and an FP32 pair for VROPE. -/
theorem witness_reductions :
    let s := on (regs (typed4 10 7 10) 12 [0xFF800000, 0])
    (let u : VUse := { c := false, cls := some .b, cross := true, whole := true, vr := [2], kr := [3], sw := [7] }
     s.issues u (cvOf s u) ∧ plainly s [2] [3] ∧ 9 ≤ s.vtype 2 ∧ s.vtype 2 ≤ 12) ∧
    (let u : VUse := { c := false, cls := some .b, cross := true, whole := true, vr := [2], vw := [9], kr := [3], sr := [12, 13],
                       sw := [12, 13, 14] }
     s.issues u (cvOf s u) ∧ (12 : BitVec 5).toNat % 4 = 0) ∧
    (let u : VUse := { c := false, cls := some .b, vw := [3], kr := [3] }
     s.issues u (cvOf s u) ∧ plainly s [3] [3] ∧ isPlaneType (s.vtype 3) = false) ∧
    (let u : VUse := { c := false, cls := some .b, vr := [3, 4, 5], vw := [4, 5], kr := [3], sr := [7] }
     s.issues u (cvOf s u) ∧ plainly s [3, 4, 5] [3] ∧ s.vtype 3 = 7 ∧ s.vtype 4 = 10 ∧ s.vtype 5 = 10) := by
  refine ⟨⟨issues_of ?_, plainly_of ?_, ?_, ?_⟩, ⟨issues_of ?_, ?_⟩, ⟨issues_of ?_, plainly_of ?_, ?_⟩,
    ⟨issues_of ?_, plainly_of ?_, ?_, ?_, ?_⟩⟩ <;> decide +kernel

/-- VectorIssueChecks, ConvoyConditions: no vector length; a register just beyond a footprint of 8; a convoy that an instruction of
class AB does not join, and one it joins; a source of TYPE ILLEGAL. -/
theorem witness_issue_checks :
    let s := on { typed4 10 10 10 with csr := { hart0.csr with vstat := 0 } }
    let f := on { typed4 10 10 10 with csr := { hart0.csr with footprint := 0x0808 } }
    let i := on (typed4 0 10 10)
    let use : VUse := { c := true, cls := some .ab, vr := [2, 3], vw := [4], kr := [3] }
    let head : VUse := { c := false, cls := some .mp, vr := [6], vw := [7] }
    let one := on { typed4 10 10 10 with convoy := cvOf i head }
    let full := on { typed4 10 10 10 with convoy := { cvOf i head with size := 4 } }
    s.von = false ∧ s.hart.tact = false ∧
    (f.von = true ∧ f.foot = 8 ∧ f.foot ≤ 8 ∧ ∀ x ∈ [2, 3], x < f.foot) ∧
    (full.von = true ∧ ∃ n, joinConvoy full.hart.convoy use = .error n) ∧
    (one.hart.convoy.fresh = false ∧ ∃ cv, joinConvoy one.hart.convoy use = .ok cv) ∧
    (i.von = true ∧ (∃ cv, joinConvoy i.hart.convoy use = .ok cv) ∧ i.vtype 2 = 0) := by
  refine ⟨?_, ?_, ?_, ⟨?_, ⟨_, rfl⟩⟩, ⟨?_, ⟨_, rfl⟩⟩, ⟨?_, ⟨_, rfl⟩, ?_⟩⟩ <;> decide +kernel

/-- ConvoyConditions: convoys that an instruction of class AB with its C bit set does not join for each of the five reasons, and one
that it joins; a cross-group one. -/
theorem witness_convoys :
    let u : VUse := { c := true, cls := some .ab, cross := true, vr := [2, 3], vw := [4], kr := [3], kw := [2], sw := [9] }
    let cv : Convoy := { Convoy.none with fresh := false, joinable := true, size := 1, pipes := [.mp], vread := 0x40, vwritten := 0x80 }
    u.cls = some .ab ∧ u.c = true ∧ cv.fresh = false ∧ { cv with joinable := false }.joinable = false ∧ cv.joinable = true ∧
    4 ≤ { cv with size := 4 }.size ∧ cv.size < 4 ∧
    (∀ x, (x = Pipe.a ∨ x = .b) → x ∈ { cv with pipes := [.b, .a] }.pipes) ∧ (Pipe.a = .a ∧ Pipe.a ∉ cv.pipes) ∧
    ({ cv with kread := 4 }.kread.getLsbD 2 = true ∧ 2 ∈ u.kw) ∧ ({ cv with swritten := 0x200 }.swritten.getLsbD 9 = true ∧ 9 ∈ u.sw) ∧
    ({ cv with vread := 0x10 }.vread.getLsbD 4 = true ∧ 4 ∈ u.vw ++ u.writes) ∧
    ({ cv with vwritten := 8 }.vwritten.getLsbD 3 = true ∧ 3 ∈ u.vr ++ u.reads) ∧
    ((∀ r ∈ u.vw, cv.vread.getLsbD r = false ∧ cv.vwritten.getLsbD r = false) ∧ cv.kread = 0 ∧ cv.kwritten = 0 ∧ cv.sread = 0 ∧
      cv.swritten = 0 ∧ ∀ r ∈ u.vr, cv.vwritten.getLsbD r = false) ∧
    ({ u with cls := none }.cls = none ∧ Convoy.none.fresh = true) := by
  refine ⟨?_, ?_, ?_, ?_, ?_, ?_, ?_, fun x h => ?_, ?_, ?_, ?_, ?_, ?_, ?_, ?_⟩
  all_goals first
    | decide +kernel
    | (rcases h with rfl | rfl <;> decide +kernel)

/-- PoisonedElementStops: v2 is poisoned at element 3, which is active, and the active elements before it are not; v2 is clean and
the instruction is to stop at element 2. -/
theorem witness_poisoned_element :
    let h := typed4 10 10 10
    let s := on { h with v := h.v.set 2 { h.v[2] with poison := 2 } }
    let t := on h
    let u := useOf false .ab 3 2 4 (.vec 3)
    let fits := fun x : State => x.issues u (cvOf x u) ∧ x.spanOk ∧ x.hart.tact = false ∧ x.legalTypes [2, 3] ∧ x.noScale [2, 3] ∧
      sameNumber (x.vtype 2) (some (x.vtype 3)) = true ∧ (x.v 3).poison = 0 ∧ (x.mask 3).poison = 0
    (fits s ∧ 3 ∈ s.lanes 3 (s.nOf 32) ∧ (s.v 2).elemPoisoned s.span (plain 10) 3 = true ∧
      ∀ e ∈ (s.lanes 3 (s.nOf 32)).filter (· < 3), (s.v 2).elemPoisoned s.span (plain 10) e = false) ∧
    (fits t ∧ (t.v 2).poison = 0 ∧ t.vstart < 2 ∧ 2 < t.nOf 32) ∧
    (let u : VUse := { c := false, cls := some .ab, vr := [2], vw := [2], kr := [3] }
     t.issues u (cvOf t u) ∧ t.spanOk ∧ t.cleanFor [2] [3] ∧ t.vtype 2 = 10 ∧ VTag.sc (t.vtag 2) = false ∧ typeWidth 3 = typeWidth 10 ∧
      isPlaneType 10 = false) := by
  refine ⟨⟨⟨issues_of ?_, ?_, ?_, ?_, ?_, ?_, ?_, ?_⟩, ?_, ?_, ?_⟩, ⟨⟨issues_of ?_, ?_, ?_, ?_, ?_, ?_, ?_, ?_⟩, ?_, ?_, ?_⟩,
    ⟨issues_of ?_, ?_, ?_, ?_, ?_, ?_, ?_⟩⟩ <;>
    first
    | decide +kernel
    | (unfold State.spanOk Hart.spanOk; decide +kernel)
    | (unfold State.legalTypes; decide +kernel)
    | (unfold State.noScale; decide +kernel)
    | (unfold State.cleanFor; decide +kernel)


/-- VectorMemoryAccess: strided accesses of v2 with a stride of 8 in the window; indexed ones by v3 (UINT32); lane memory; and the
atomics on INT32 words. -/
theorem witness_vector_memory :
    let s := on (regs (vec (typed4 3 7 3) 3 (typeTag 7) [0, 8, 16, 24]) 6 [0x000F800000000100, 8, 0])
    (let u : VUse := { c := false, cls := some .ls, vw := [2], kr := [3], sr := [6, 7] }
     s.issues u (cvOf s u) ∧ plainly s [2, 3] [3] ∧ s.settled ∧ s.memoryOk ∧ isPlaneType (s.vtype 2) = false ∧
      isUnsigned (s.vtype 3) = true) ∧
    (∀ e ∈ s.lanes 3 (s.nOf 32), ∃ p, s.strided 0 6 7 32 false e = some p ∧ poisoned s p.1 4 = false) ∧
    (∀ e ∈ s.lanes 3 (s.nOf 32), ∃ p, s.strided 0 6 7 32 true e = some p ∧ plainKey p.1 4) ∧ s.movables [2] ∧
    (let u : VUse := { c := false, cls := some .ls, vr := [2, 3], vw := [2], kr := [3], sr := [6] }
     s.issues u (cvOf s u)) ∧
    (∀ e ∈ s.lanes 3 (s.nOf 32), ∃ p, s.indexed 0 6 3 32 true e = some p ∧ poisoned s p.1 4 = false ∧ plainKey p.1 4) ∧
    (∀ e ∈ s.lanes 3 (s.nOf 32), ∃ p, s.inLane 8 3 32 e = some p ∧ poisoned s p.1 4 = false ∧ plainKey p.1 4) := by
  refine ⟨⟨issues_of ?_, plainly_of ?_, settled_of ?_, ?_, ?_, ?_⟩, all_some ?_, ?_, ?_, issues_of ?_, ?_, ?_⟩
  · decide +kernel
  · decide +kernel
  · decide +kernel
  · unfold State.memoryOk; decide +kernel
  · decide +kernel
  · decide +kernel
  · decide +kernel
  · unfold plainKey; exact all_some (by decide +kernel)
  · unfold State.movables State.scaled; decide +kernel
  · decide +kernel
  all_goals unfold plainKey; exact all_some (by decide +kernel)

/-- SortedRuns: runs that are in order; VSORT of a register with payload; a sorted pair of runs for the merges, VINTER, VRANK;
VCHKS; VLDS of keys with payload from the window; VCMX of two pairs. -/
theorem witness_sorted :
    let t := sortedTag 3 false false false
    let s := on (regs (vec (vec (typed4 3 3 3) 2 (t 3) [1, 3, 3]) 6 (t 2) [3, 4]) 10 [0x000F800000000100, 0x000F800000000200])
    let keys := fun l : List Nat => l.map fun k => (⟨k, 0, true⟩ : Item)
    ((keys [1, 3]).Pairwise (fun x y => isAhead 3 false y.key x.key = false) ∧ (keys [1, 3]).length + (keys [2]).length < 4) ∧
    (let u : VUse := { c := false, cls := some .mp, cross := true, whole := true, vr := [2, 3], vw := [4, 5] }
     s.issues u (cvOf s u) ∧ plainly s [2, 3] [] ∧ s.span = 1 ∧ isSortable (s.vtype 2) = true ∧ s.vtype 3 = VTag.type (s.vtag 3) ∧
      4 % 2 = 0) ∧
    (let u : VUse := { c := false, cls := some .mp, cross := true, whole := true, vr := [2, 6], vw := [4], sw := [9] }
     s.issues u (cvOf s u) ∧ plainly s [2, 6] [] ∧ (∀ x ∈ [2, 6], s.vtype x = s.vtype 2) ∧
      ∀ x ∈ [2, 6], VTag.s (s.vtag x) = true ∧ VTag.dir (s.vtag x) = VTag.dir (s.vtag 2) ∧ VTag.pay (s.vtag x) = VTag.pay (s.vtag 2)) ∧
    (let u : VUse := { c := false, cls := some .mp, cross := true, whole := true, vr := [2], sw := [9] }
     s.issues u (cvOf s u)) ∧
    (let u : VUse := { c := false, cls := some .ls, vw := [4, 5], sw := [9], sr := [10, 11] }
     s.issues u (cvOf s u) ∧ (s.v 4).poison = 0 ∧ s.settled ∧ isSortable (s.vtype 4) = true ∧ s.vtype 5 ≠ 0 ∧
      isPlaneType (s.vtype 5) = false ∧ s.nOf 32 = 4 ∧
      (∀ e ∈ List.range 4, ∃ k, s.keyAt s.hart.home 0 (s.rs 10 + BitVec.ofNat 64 (e * 32 / 8)) 4 false = some k ∧
        poisoned s k 4 = false) ∧
      ∀ e ∈ List.range 4, ∃ k, s.keyAt s.hart.home 0 (s.rs 11 + BitVec.ofNat 64 (e * 32 / 8)) 4 false = some k ∧
        poisoned s k 4 = false) ∧
    (let u : VUse := { c := false, cls := some .mp, vr := [4, 2, 5, 3], vw := [4, 2, 5, 3], kr := [3] }
     s.issues u (cvOf s u) ∧ plainly s [4, 2, 5, 3] [3] ∧ s.vtype 2 = s.vtype 4 ∧ s.vtype 3 = s.vtype 5 ∧ isInt (s.vtype 5) = true) ∧
    (let p := on (vec (typed4 3 3 3) 2 (sortedTag 3 false true false 3) [1, 3, 3])
     let u : VUse := { c := false, cls := some .mp, cross := true, whole := true, vr := [2, 6], vw := [4] }
     p.issues u (cvOf p u) ∧ plainly p [2] [] ∧ VTag.s (p.vtag 2) = true ∧ VTag.pay (p.vtag 2) = true) := by
  refine ⟨⟨?_, ?_⟩, ⟨issues_of ?_, plainly_of ?_, ?_, ?_, ?_, ?_⟩, ⟨issues_of ?_, plainly_of ?_, ?_, ?_⟩, issues_of ?_,
    ⟨issues_of ?_, ?_, settled_of ?_, ?_, ?_, ?_, ?_, all_some ?_, all_some ?_⟩, ⟨issues_of ?_, plainly_of ?_, ?_, ?_, ?_⟩,
    ⟨issues_of ?_, plainly_of ?_, ?_, ?_⟩⟩ <;> decide +kernel

/-- TileOperations: BF16 operands for ZOP, the same with a scale for ZOPS, planes for ZPOP into an integer tile; an UINT64 pair for
ZMOVV and ZMOVZ; FP32 for ZCVT and PCVT; lines 0 and 127, and line counts 1 and 128. -/
theorem witness_tiles :
    let h := regs (typed4 11 11 10) 6 [0, 127, 1, 128, 0x3F800000]
    let s := on { h with z := h.z.set 1 { Tile.zero with kind := .fp } }
    let sc := on (vec (typed4 11 11 11) 2 0x2100000B [0x3F80, 0x4000])
    let pl := on (vec (vec hart0 2 (planeTag 16 2) [1, 3, 0, 1]) 3 (planeTag 18 1) [1, 1, 0, 1])
    let w := on (vec (vec hart0 4 (typeTag 8) [1, 2]) 5 (typeTag 4) [0, 1])
    (let u : VUse := { needsVl := false, zs := [1], sw := [9] }
     s.issues u (cvOf s u) ∧ (s.tile 1).ranked = false ∧ s.tileIdle 1) ∧
    (let u : VUse := { c := false, cls := some .mp, whole := true, vr := [2, 3], kr := [3], zs := [1] }
     s.issues u (cvOf s u) ∧ plainly s [2, 3] [3] ∧ productPair (s.vtype 2) (s.vtype 3) = some (2, .fp) ∧ (s.tile 1).kind = .fp ∧
      s.nOf 16 ≤ 128 * 2) ∧
    (let u : VUse := { c := false, cls := some .mp, cross := true, whole := true, vr := [2, 3],
                       reads := [2, 3].flatMap (scaleUse sc), kr := [3], zs := [1] }
     sc.issues u (cvOf sc u) ∧ scaleUse sc 2 = [4] ∧ (∀ x ∈ [2, 3], sc.scaled x) ∧ productPair (sc.vtype 2) (sc.vtype 3) = some (2, .fp)) ∧
    (let u : VUse := { c := false, cls := some .mp, whole := true, vr := [2, 3], kr := [0], zs := [1] }
     pl.issues u (cvOf pl u) ∧ pl.spanOk ∧ (∀ x ∈ [2, 3], isPlaneType (pl.vtype x) = true ∧ VTag.sc (pl.vtag x) = false) ∧ (pl.tile 1).kind ≠ .fp ∧ pl.nOf 16 ≤ 8192 ∧
      ∀ x ∈ [2, 3], ∀ e ∈ List.range (pl.nOf 16), isReserved (elTy (pl.vtag x)) (pl.elem x (elTy (pl.vtag x)) e) = false) ∧
    (let u : VUse := { c := false, cls := some .mp, vw := [4, 5], kr := [3], sr := [7], zs := [1] }
     s.issues u (cvOf s u) ∧ (s.rs 6).toNat ≤ 127 ∧ (s.rs 7).toNat ≤ 127 ∧
      ∀ x ∈ s.lanes 3 (min 128 (s.nOf 64)), lineBad (s.tile 1) false 127 x = false) ∧
    (let u : VUse := { c := false, cls := some .mp, whole := true, vr := [4, 5], kr := [3], sr := [6], zs := [1] }
     w.issues u (cvOf w u) ∧ plainly w [4, 5] [3] ∧ w.vtype 4 = 8 ∧ w.vtype 5 ∈ [4, 8] ∧ (w.tile 1).kind = .none) ∧
    (let u : VUse := { c := false, cls := some .mp, vw := [4], kr := [3], sr := [7, 8], zs := [1] }
     s.issues u (cvOf s u) ∧ s.legalTypes [4] ∧ s.vtype 4 ≤ 15) ∧
    (let u : VUse := { c := false, cls := some .mp, vw := [4, 5, 6], kr := [3], sr := [8], zs := [1] }
     s.issues u (cvOf s u) ∧ (s.rs 8).toNat = 1 ∧ (s.rs 9).toNat = 128 ∧
      ∀ x ∈ s.lanes 3 (min 128 (s.nOf 32)), ∀ j ∈ List.range 128, lineBad (s.tile 1) false x j = false) ∧
    (let u : VUse := { c := false, cls := some .ab, vr := [4], vw := [9], reads := scaleUse s 4, kr := [3], sr := [10] }
     s.issues u (cvOf s u) ∧ s.vtype 4 ∈ [1, 2, 10] ∧ s.scaled 4 ∧
      ∀ e ∈ s.lanes 3 (s.nOf 32), planeConvert (elTy (planeTag 16 4)) false s.rm ((s.exactElem 4 e).1.mul (fp32.val 0x3F800000)) ≠ none) := by
  refine ⟨⟨issues_of ?_, ?_, ?_⟩, ⟨issues_of ?_, plainly_of ?_, ?_, ?_, ?_⟩, ⟨issues_of ?_, ?_, ?_, ?_⟩, ⟨issues_of ?_, ?_, ?_, ?_, ?_, ?_⟩,
    ⟨issues_of ?_, ?_, ?_, ?_⟩, ⟨issues_of ?_, plainly_of ?_, ?_, ?_, ?_⟩, ⟨issues_of ?_, ?_, ?_⟩, ⟨issues_of ?_, ?_, ?_, ?_⟩,
    ⟨issues_of ?_, ?_, ?_, ?_⟩⟩ <;>
    first
    | decide +kernel
    | (unfold State.spanOk Hart.spanOk; decide +kernel)
    | (unfold State.tileIdle; decide +kernel)
    | (unfold State.scaled; decide +kernel)
    | (unfold State.legalTypes; decide +kernel)

/-- A tile configured for lists of K = 3 FP32 keys, list 0 with two pairs in it, stored at the window address 0x400. -/
noncomputable def rankedState : State :=
  let h := vec (vec hart0 8 (typeTag 10) [0x40000000, 0x40A00000]) 9 (typeTag 7) [7, 3]
  let h := regs { h with z := h.z.set 1 { Tile.zero with ranked := true }, csr := { h.csr with vl := 2 } } 5
    [3, 0x8003, 0x000F800000000040, 0x000F800000000400]
  after (.zwait 0 1) (after (.zrst 0 8 1) (after (.zrpush false 0 8 1) (after (.zrcfg 0 0 5 1) (on h))))

/-- RankedLists: ZRCFG with and without a shared threshold; pushes; a stored list; and the configured tile read. -/
theorem witness_ranked :
    let s := rankedState
    ∃ cfg : RankedConfig, (s.tile 1).rankedAs cfg ∧ s.hart.csr.zlist.toNat < cfg.lists ∧ cfg.sh = false ∧ cfg.k = 3 ∧
    s.vtype 8 = keyType cfg.kt ∧ s.vtype 9 ∈ [3, 7] ∧ (s.listOf 1 cfg 0).entries.length = 2 ∧
    (∀ e ∈ (s.listOf 1 cfg 0).entries, e.bad = false) ∧ s.tileIdle 1 ∧ s.settled ∧ s.memoryOk ∧
    (rankedWordOk (s.rs 5) = true ∧ bit (s.rs 5) 15 = false ∧ rankedWordOk (s.rs 6) = true ∧ bit (s.rs 6) 15 = true ∧
      (s.keyAt s.hart.home 0 (s.rs 7) 8 true).isSome = true) ∧
    (let u : VUse := { c := false, cls := some .mp, vr := [8, 9], kr := [0], zs := [1] }
     s.issues u (cvOf s u) ∧ plainly s [8, 9] [0]) ∧
    (let u : VUse := { needsVl := false, whole := true, zs := [1], sr := [8] }
     s.issues u (cvOf s u) ∧ (s.rs 8).toNat % 64 = 0 ∧ (s.hart.token 0).w = true ∧
      tokenCovers (s.hart.token 0) 0 (s.rs 8) (32 + 16 * 3) = true ∧ s.wordsAt 0 (s.rs 8) (4 + 2 * 3) (wordKeys 0x400 10) true ∧
      wordsApart (wordKeys 0x400 10)) ∧
    (let word := fun j => loadWord s ((wordKeys 0x400 10).getD j 0)
     bits (word 0) 16 11 = 3 ∧ storedHeaderOk cfg (word 0) (word 2) (word 3) = true ∧
      (∀ y ∈ wordKeys 0x400 10, poisoned s y 8 = false) ∧ s.wordsAt 0 (s.rs 8) (4 + 2 * 3) (wordKeys 0x400 10) false) ∧
    (let u : VUse := { needsVl := false, whole := true, sw := (List.range 4).map (10 + ·), zs := [1] }
     s.issues u (cvOf s u)) ∧
    (let u : VUse := { whole := true, vw := [10, 11], kw := [3], zs := [1] }
     s.issues u (cvOf s u)) := by
  refine ⟨⟨3, 0, 0, .key 0⟩, ⟨?_, ?_, ?_, ?_, ?_⟩, ?_, ?_, ?_, ?_, ?_, ?_, ?_, ?_, ?_, ?_, ?_, ⟨issues_of ?_, plainly_of ?_⟩,
    ⟨issues_of ?_, ?_, ?_, ?_, ?_, ?_⟩, ⟨?_, ?_, ?_, ?_⟩, issues_of ?_, issues_of ?_⟩ <;>
    first
    | decide +kernel
    | (refine settled_of ?_; decide +kernel)
    | (unfold State.tileIdle; decide +kernel)
    | (unfold State.memoryOk; decide +kernel)
    | (unfold State.wordsAt; decide +kernel)
    | (unfold wordsApart plainKey; decide +kernel)

/-- A handle of a 4 by 4 FP32 tensor at the window address 0x400, with a table at 0x600 and no counter. -/
def handle1 : Handle := handle0 + 0x000F800000000600 * 2 ^ 192

/-- TensorHandles: a record in memory; a row of the tensor of which two elements lie outside; a relayout to another base; a hart
that waits for it; and a block of a tile. -/
theorem witness_tensors :
    let h := regs (vec (vec hart0 2 (typeTag 10) [1, 2, 3, 4]) 9 (typeTag 10) []) 4
      [1, 2, 0x20002, 0x000F800000000800, 0x000F800000001000, 0x4000]
    let s := { on { h with h := h.h.set 3 (some handle1) } with mem := writeLE [] (coreKey 0 0x800) 64 handle1.toNat }
    s.handle 3 = some handle1 ∧ handle1.rly = false ∧ s.quiet 6 ∧ s.memoryOk ∧ s.linesOfMain s.hart.home ∧
    (let u : VUse := { needsVl := false, whole := true, sr := [7] }
     s.issues u (cvOf s u) ∧ (s.rs 7).toNat % 64 = 0 ∧ tokenCovers (s.hart.token 0) 0 (s.rs 7) 64 = true ∧
      s.wordsAt 0 (s.rs 7) 8 (wordKeys 0x800 8) true ∧ s.wordsAt 0 (s.rs 7) 8 (wordKeys 0x800 8) false ∧
      wordsApart (wordKeys 0x800 8) ∧ (∀ y ∈ wordKeys 0x800 8, poisoned s y 8 = false) ∧ (s.hart.token 0).w = true ∧
      Handle.ok (recordOf ((wordKeys 0x800 8).map (loadWord s))) = true) ∧
    (let u : VUse := { c := false, cls := some .ls, vw := [9], kw := [3], sr := originRegs s 3 4 }
     s.issues u (cvOf s u) ∧ plainly s [2, 9] [3] ∧ s.tensorFits 3 4 9 handle1 ∧
      (List.range 4).map (fun e => inExtents handle1.extents (tensorCoords s handle1 4 e)) = [true, true, false, false] ∧
      ∀ e ∈ [0, 1], ∃ p, s.tensorAt handle1 (s.coreOf 32 e) (tensorCoords s handle1 4 e) true = some p ∧
        poisoned s p.1 4 = false ∧ plainKey p.1 4) ∧ s.movables [9] ∧
    (let u : VUse := { needsVl := false, whole := true, sr := [8, 9] }
     s.issues u (cvOf s u) ∧ relayoutOperands s 3 9 8 = .ok handle1 ∧ s.relayoutFits handle1 0 8 9 ∧
      s.wordsAt 0 (Handle.tstab handle1) (tableBytes handle1 / 8) (wordKeys 0x600 1) true ∧ wordsApart (wordKeys 0x600 1)) := by
  refine ⟨?_, ?_, quiet_of ?_ ?_ ?_, ?_, ?_, ⟨issues_of ?_, ?_, ?_, ?_, ?_, ?_, ?_, ?_, ?_⟩,
    ⟨issues_of ?_, plainly_of ?_, ⟨?_, ?_, ?_, ?_⟩, ?_, ?_⟩, ?_, ⟨issues_of ?_, ?_, ⟨?_, ?_, ?_, ?_, ?_, ?_⟩, ?_, ?_⟩⟩ <;>
    first
    | decide +kernel
    | (unfold State.memoryOk; decide +kernel)
    | (unfold State.linesOfMain; decide +kernel)
    | (unfold State.movables State.scaled; decide +kernel)
    | (unfold plainKey; exact all_some (by decide +kernel))
    | (unfold State.wordsAt; decide +kernel)
    | (unfold wordsApart plainKey; decide +kernel)
    | exact ok_eq (by decide +kernel)

/-- A hart with handle 3 in a relayout whose one unit is NEW, and handle 4 in none. -/
def blockState : State :=
  let h := regs hart0 4 [1, 2, 0x20002]
  { on { h with h := (h.h.set 3 (some (relaid handle1 0x000F800000001000 0 0))).set 4 (some handle1) } with
    mem := [(coreKey 0 0x600, 2)] }

/-- TensorHandles, TWAIT: the handle in a relayout; ZLD, ZST: a block of two by two of the other. -/
theorem witness_relayout_and_block :
    let s := blockState
    let r := relaid handle1 0x000F800000001000 0 0
    (s.handle 3 = some r ∧ Handle.rly r = true ∧ s.linesOfMain s.hart.home ∧ s.memoryOk ∧ unitCount (Handle.extents r) = 1 ∧
      deviceSite s s.hart.home s.hart.asid s.hart.user .load (tableWordAddr r 0) 8 = some (.key (coreKey 0 0x600), s) ∧
      bits (loadWord s (coreKey 0 0x600)) (2 * (0 % 32)) 2 = 2) ∧
    ((s.tile 1).ranked = false ∧ (s.tile 1).kind = .none ∧ s.tileIdle 1 ∧ s.settled) ∧
    (let u : VUse := { needsVl := false, zs := [1] }
     s.issues u (cvOf s u) ∧ s.issues { u with whole := true } (cvOf s { u with whole := true })) ∧
    ∃ blk, tileBlock s 4 4 false = .ok blk ∧ blk.handle = handle1 ∧ blk.m = 2 ∧ blk.n = 2 ∧
      ∀ e ∈ List.range 4, ((s.blockAt blk true (e / 2) (e % 2)).any fun p => !poisoned s p.1 4 && !isMailboxKey p.1 && !isMailboxKey (p.1 + 4 - 1)) = true := by
  refine ⟨⟨?_, ?_, ?_, ?_, ?_, ?_, ?_⟩, ⟨?_, ?_, ?_, ?_⟩, ⟨issues_of ?_, issues_of ?_⟩, ok_of ?_⟩ <;>
    first
    | decide +kernel
    | (refine settled_of ?_; decide +kernel)
    | (unfold State.memoryOk; decide +kernel)
    | (unfold State.linesOfMain; decide +kernel)
    | (unfold State.tileIdle; decide +kernel)

theorem no_streams {s : State} (h : ∀ i : Fin 8, s.hart.f[i] = none) (q : BitVec 3) : ∀ f, ¬ s.streamsThrough q f := by
  rintro f ⟨⟨i, hi⟩, _⟩; rw [h i] at hi; cases hi

/-- ProbeTokens: a mapped range of one page; a range whose second page is not mapped; an empty range; one beyond 52 bits. -/
theorem witness_probe :
    let s := walked (regs hart0 5 [0x5000, 0x1000, 0x6000, 0x2000, 0, 0x0010000000000000])
    s.probes 6 5 2 ∧ s.probes 8 7 2 ∧ s.memoryOk ∧ s.hart.tact = false ∧
    (match probePages 0x6000 3 0x5000 ⟨[], true⟩ (s.beforeProbe 2) with
      | .ok (.all p) t => p.w && p.pins == [⟨0x5000, 0x3000, 4096⟩] && bits (loadWord t 0x22028) 6 2 == 3
      | _ => false) = true ∧
    (match probePages 0x8000 4 0x6000 ⟨[], true⟩ (s.beforeProbe 2) with
      | .ok (.unmapped va p) _ => !p.w && va == 0x7000
      | _ => false) = true ∧
    (∃ l, walk (s.beforeProbe 2) (isleOf s.hart.home) s.hart.asid 0x5000 = some l ∧ pteAllows l.pte s.hart.user .load = true ∧
      pageMigrates s l.pa l.size = false ∧ 0x5000 % l.size + 0x1000 ≤ l.size) ∧
    (s.rs 9 = 0 ∧ s.unpoisoned [5, 9]) ∧ (s.rs 6 ≠ 0 ∧ probeRangeBad (s.rs 10) (s.rs 6) = true) := by
  have q : ∀ i : Fin 8, (walked (regs hart0 5 [0x5000, 0x1000, 0x6000, 0x2000, 0, 0x0010000000000000])).hart.f[i] = none := by
    decide +kernel
  refine ⟨⟨?_, ?_, no_streams q 2, ?_, ?_⟩, ⟨?_, ?_, no_streams q 2, ?_, ?_⟩, ?_, ?_, ?_, ?_, some_of ?_, ?_, ?_⟩ <;>
    first
    | decide +kernel
    | (refine settled_of ?_; decide +kernel)
    | (unfold State.unpoisoned; decide +kernel)
    | (unfold State.memoryOk; decide +kernel)

/-- SchedulerAndRouting: a record of six items at 0x400; the last item and the end of them; two tokens of one choice each for
VROUTE, whose counters lie at 0x800. -/
theorem witness_scheduler :
    let g0 : GroupRec := ⟨300, 256, 1024, 128, 128, 0⟩
    let rec_ : Nat := (300 + 256 * 2 ^ 32) * 2 ^ 192 + (1024 + 128 * 2 ^ 32 + 128 * 2 ^ 40) * 2 ^ 256
    let h := regs (vec (vec (vec hart0 4 (typeTag 6) [0, 3]) 10 (typeTag 6) []) 11 (typeTag 7) []) 5
      [0x000F800000000400, 1, 0x000F800000000800, 0x40001]
    let h := { h with k := h.k.set 3 ⟨0b11, 0⟩ }
    let s := { on { h with csr := { h.csr with vl := 2 } } with mem := writeLE [] (coreKey 0 0x400) 64 rec_ }
    let s := { s with gangs := [{ loadedGang with groups := [g0], nextItem := 5 }] }
    (let u : VUse := { needsVl := false, whole := true, sr := [5, 6] }
     s.issues u (cvOf s u) ∧ s.settled ∧ bits (s.rs 6) 16 48 = 0 ∧ bits (s.rs 6) 0 16 = 1 ∧ (s.rs 5).toNat % 64 = 0 ∧
      tokenCovers (s.hart.token 0) 0 (s.rs 5) 64 = true ∧ s.wordsAt 0 (s.rs 5) 8 (wordKeys 0x400 8) false ∧
      (∀ y ∈ wordKeys 0x400 8, poisoned s y 8 = false) ∧
      (recordsOf 1 ((wordKeys 0x400 8).map (loadWord s))).map groupRec = [(g0, true)] ∧ (findGang s s.hart.name.1).isSome = true) ∧
    (let u : VUse := { needsVl := false, whole := true, sw := [8, 9, 10, 11] }
     s.issues u (cvOf s u) ∧ g0.items = 6 ∧ ([g0][0]? = some g0) ∧ 0 ≤ 5 ∧ 5 < 0 + g0.items ∧ ([g0].map GroupRec.items).sum ≤ 6) ∧
    (let u : VUse := { vr := [4], vw := [10, 11], kr := [3], kw := [3], sr := [7, 8] }
     s.issues u (cvOf s u) ∧ plainly s [4] [3] ∧ s.memoryOk ∧ routeParamsOk (s.rs 8) = true ∧ bits (s.rs 8) 0 4 = 1 ∧ s.vtype 4 = 6 ∧
      bits (s.rs 8) 16 16 = 4 ∧ (s.lanes 3 (s.nOf 32)).map (s.elem 4 (plain 6)) = [0, 3] ∧
      ∀ x ∈ [0, 3], ∃ k, s.keyAt (s.coreOf 16 0) 0 (s.rs 7 + BitVec.ofNat 64 (8 * x)) 8 true = some k ∧
        poisoned s k 8 = false ∧ plainKey k 8) := by
  refine ⟨⟨issues_of ?_, ?_, ?_, ?_, ?_, ?_, ?_, ?_, ?_, ?_⟩, ⟨issues_of ?_, ?_, ?_, ?_, ?_, ?_⟩,
    ⟨issues_of ?_, plainly_of ?_, ?_, ?_, ?_, ?_, ?_, ?_, ?_⟩⟩ <;>
    first
    | decide +kernel
    | (unfold plainKey; exact all_some (by decide +kernel))
    | (refine settled_of ?_; decide +kernel)
    | (unfold State.memoryOk; decide +kernel)
    | (unfold State.wordsAt; decide +kernel)

/-- An answer and the state it comes with, where equality is decided by the kernel. -/
theorem res_eq {α : Type} [DecidableEq α] {r : Res α} {x : α} {s : State}
    (h : (match r with | .ok y t => decide (y = x ∧ t = s) | _ => false) = true) : r = .ok x s := by
  cases r with
  | ok y t => obtain ⟨rfl, rfl⟩ := of_decide_eq_true h; rfl
  | trap _ _ => cases h
  | hold _ => cases h

/-- A read stream f1 of two UINT32 elements at 0x500 that are fetched, and an empty write stream f2. -/
def streams : State :=
  let y : Stream := { base := 0x000F800000000500, stride := 0, avl := 2, ctl := 0x43, token := 0, position := 0, 
                       buf := [⟨7, false, none, 0⟩, ⟨8, false, none, 0⟩], moved := 2 }
  let h := regs (vec (typed4 7 7 7) 6 (typeTag 7) [5, 6]) 6
    [0x000F800000000500, 0, 2, 0x43, 0, 0x000F800000000900, 64, 0x000F800000000A00, 0x000F800000000B00, 0x10004, 0x1000]
  let h := { h with f := (h.f.set 1 (some y)).set 2 (some { y with ctl := 0xC3, buf := [], moved := 0 }) }
  { on { h with csr := { h.csr with vl := 2 } } with mem := [(coreKey 0 0xB00, 5)] }

/-- StreamsAndCopies: SCFG off and on; SRD and SWR of two elements; SAVAIL; CPY of a block; VXLATE of two tokens. -/
theorem witness_streams :
    let s := streams
    (let u : VUse := { needsVl := false, whole := true, sr := [6, 7, 8, 9] }
     s.issues u (cvOf s u) ∧ s.stream 3 = none ∧ bits (s.rs 9) 13 51 = 0 ∧ bits (s.rs 9) 3 3 = 0 ∧ bit (s.rs 9) 6 = true ∧
      bit (s.rs 10) 6 = false ∧ bits (s.rs 10) 13 51 = 0 ∧
      (let new : Stream := { base := s.rs 6, stride := s.rs 7, avl := s.rs 8, ctl := s.rs 9, token := 0, position := 0, buf := [], moved := 0 }
       streamWordOk s 3 new = .ok () ∧ new.hmode = false ∧ new.width = 32 ∧ new.base.toNat % 4 = 0 ∧
        ∀ i ∈ List.range 2, tokenCovers (s.hart.token 0) 0 (BitVec.ofInt 64 ((new.base.toNat : Int) + i * 4)) 4 = true)) ∧
    (∃ y, s.stream 1 = some y ∧ y.writes = false ∧ typeWidth (s.vtype 4) = y.width ∧ streamCounter s.hart y = 2 ∧
      y.buf = [⟨7, false, none, 0⟩, ⟨8, false, none, 0⟩] ∧ y.position = 0 ∧
      ∀ e ∈ [0, 1], streamSite s y (streamCore s y e) e false =
        .ok (.key (coreKey 0 (0x500 + 4 * e)), 0x000F800000000500 + BitVec.ofNat 64 (4 * e), 0) s) ∧
    (∃ y, s.stream 2 = some y ∧ y.writes = true ∧ typeWidth (s.vtype 6) = y.width ∧ 0 < streamCounter s.hart y ∧ y.buf = [] ∧
      ∀ e ∈ [0, 1], streamSite s y (s.coreOf 32 e) e true =
        .ok (.key (coreKey 0 (0x500 + 4 * e)), 0x000F800000000500 + BitVec.ofNat 64 (4 * e), 0) s) ∧
    (let u : VUse := { c := false, cls := some .ls, vw := [4] }
     s.issues u (cvOf s u) ∧ plainly s [4, 6] []) ∧
    (let u : VUse := { c := false, cls := some .ls, vr := [6] }
     s.issues u (cvOf s u) ∧ s.settled ∧ s.movables [6]) ∧
    (let u : VUse := { needsVl := false, sr := [13, 11, 12] }
     s.issues u (cvOf s u) ∧ (s.rs 11).toNat % 8 = 0 ∧ (s.rs 13).toNat % 8 = 0 ∧ (s.rs 12).toNat = 64 ∧ (s.hart.token 0).w = true ∧
      tokenCovers (s.hart.token 0) 0 (s.rs 11) 64 = true ∧ tokenCovers (s.hart.token 0) 0 (s.rs 13) 64 = true ∧
      ∀ i ∈ List.range 8, ∃ k, tokenSite s s.hart.home 0 (s.rs 11 + BitVec.ofNat 64 (8 * i)) 8 false true = .ok k ∧ k = .key (coreKey 0 (0x900 + 8 * i))) ∧
    (let u : VUse := { vr := [6], vw := [9], kw := [3], sr := [14, 15, 16] }
     s.issues u (cvOf s u) ∧ xlateWordOk (s.rs 15) = true ∧ s.vtype 6 = 7 ∧ s.settled ∧
      (List.range 2).map (fun e => decide (s.elem 6 (plain 7) e / 2 ^ 4 < 1)) = [true, true] ∧
      ∃ k, tokenSite s (s.coreOf 64 0) 0 (s.rs 14) 4 false false = .ok k ∧ k = .key (coreKey 0 0xB00)) := by
  refine ⟨⟨issues_of ?_, ?_, ?_, ?_, ?_, ?_, ?_, ?_⟩, ⟨_, rfl, ?_, ?_, ?_, ?_, ?_, fun e he => res_eq ?_⟩, ⟨_, rfl, ?_, ?_, ?_, ?_, fun e he => res_eq ?_⟩,
    ⟨issues_of ?_, plainly_of ?_⟩, ⟨issues_of ?_, settled_of ?_, ?_⟩,
    ⟨issues_of ?_, ?_, ?_, ?_, ?_, ?_, ?_, fun i hi => ok_of ?_⟩, ⟨issues_of ?_, ?_, ?_, settled_of ?_, ?_, ok_of ?_⟩⟩ <;>
    first
    | decide +kernel
    | (refine ⟨ok_eq ?_, ?_, ?_, ?_, ?_⟩ <;> decide +kernel)
    | (unfold State.movables State.scaled; decide +kernel)
    | (revert e; decide +kernel)
    | (revert i; decide +kernel)

/-- PrefixStore: 16 token ids and a buffer of one page id, for each of the four instructions. -/
theorem witness_prefix :
    let h := regs (vec hart0 4 (typeTag 3) ((List.range 16).map (· + 100))) 8 [0x000F800000000600, 9]
    let s := on { h with csr := { h.csr with vl := 16 } }
    s.prefixFits .look 0 8 4 20 [coreKey 0 0x600] (cvOf s { whole := true, vr := [4], sr := [8, 9], sw := [20] }) ∧
    s.prefixFits .insert 0 8 4 20 [coreKey 0 0x600] (cvOf s { whole := true, vr := [4], sr := [8, 9], sw := [20] }) ∧
    s.prefixFits .detach 0 8 4 20 [] (cvOf s { whole := true, vr := [4], sr := [8, 9], sw := [20] }) ∧
    s.prefixFits .evict 0 8 4 20 [coreKey 0 0x600] (cvOf s { whole := true, vr := [4], sr := [8, 9], sw := [20] }) := by
  refine ⟨⟨issues_of ?_, ?_, ?_, ?_, ?_, ?_, ?_, ?_, ?_, ?_, ⟨quiet_of ?_ ?_ ?_, ?_, ?_⟩⟩,
    ⟨issues_of ?_, ?_, ?_, ?_, ?_, ?_, ?_, ?_, ?_, ?_, ⟨quiet_of ?_ ?_ ?_, ?_, ?_⟩⟩,
    ⟨issues_of ?_, ?_, ?_, ?_, ?_, ?_, ?_, ?_, ?_, ?_, ⟨quiet_of ?_ ?_ ?_, ?_, ?_⟩⟩,
    ⟨issues_of ?_, ?_, ?_, ?_, ?_, ?_, ?_, ?_, ?_, ?_, ⟨quiet_of ?_ ?_ ?_, ?_, ?_⟩⟩⟩ <;>
    first
    | decide +kernel
    | (unfold State.spanOk Hart.spanOk; decide +kernel)
    | (unfold State.cleanFor; decide +kernel)
    | (unfold State.memoryOk; decide +kernel)
    | (unfold State.linesOfMain; decide +kernel)
    | (unfold plainKey; decide +kernel)
    | (intro j hj; refine ok_eq ?_; revert j; decide +kernel)

/-- A hart with two parcels to bay 3 of core 0 in v4 and v6, the open bays `l`, and memory `m`. -/
def parcelsOn (l : List Bay) (m : List Host.Cell) : State :=
  let h := vec (vec hart0 4 (typeTag 8) [0x10000003, 0x10000003]) 6 (typeTag 8) [0x000F800000000800, 0x000F800000000840]
  { on (regs { h with csr := { h.csr with vl := 2 } } 5 [64, 0x000F800000000900, 0x10003]) with bays := l, mem := m }
/-- Bay 3 of core 0, of one slot. -/
def bay3 : Bay := ⟨0, 3, 1, 0, 0x900, 1, 0⟩

/-- Parcels: PBAY that opens a bay of one slot of 64 bytes; PSEND of two parcels to that bay, of which it takes one, to it when it is
full, and to a bay that is closed. -/
theorem witness_parcels :
    (let s := parcelsOn [] []
     let u : VUse := { needsVl := false, whole := true, sr := [6, 7] }
     s.issues u (cvOf s u) ∧ bayWordOk (s.rs 7) = true ∧ (s.rs 6).toNat % 64 = 0 ∧ bits (s.rs 7) 16 16 = 1 ∧
      bayOffset s 0 (s.rs 6) (64 + 1 * 64) = some 0x900 ∧ bayTaken s s.hart.home 3 = false ∧ s.settled ∧ s.memoryOk) ∧
    (∀ s ∈ [parcelsOn [] [], parcelsOn [bay3] [], parcelsOn [bay3] [(coreKey 0 0x900, 1)]],
     let u : VUse := { engine := true, whole := true, vr := [4, 6], kr := [0], sr := [5], sw := [5] }
     s.issues u (cvOf s u) ∧ plainly s [4, 6] [0] ∧ parcelLengthOk (s.rs 5) = true ∧ s.vtype 4 = 8 ∧ s.vtype 6 = 8 ∧ s.settled ∧
      s.hart.psend = none ∧ s.memoryOk ∧ (List.range (s.nOf 64)).filter (s.active 0) = [0, 1] ∧
      ∀ e ∈ [0, 1], s.elem 4 (plain 8) e = 0x10000003 ∧ destOk 0x10000003 = true ∧ destLocal s 0x10000003 = true ∧
        s.elem 6 (plain 8) e = 0x000F800000000800 + 64 * e ∧
        tokenCovers (s.hart.token 0) 0 (0x000F800000000800 + BitVec.ofNat 64 (64 * e)) 64 = true ∧
        ∀ j ∈ List.range 8, tokenSite s (s.coreOf 64 e) 0 (0x000F800000000800 + BitVec.ofNat 64 (64 * e) + BitVec.ofNat 64 (8 * j))
          8 false true = .ok (.key (coreKey 0 (0x800 + 64 * e + 8 * j)))) ∧
    findBay (parcelsOn [] []) (destCore 0x10000003) (destBay 0x10000003) = none ∧
    (let o := parcelsOn [bay3] []
     findBay o (destCore 0x10000003) (destBay 0x10000003) = some bay3 ∧ (loadWord o (coreKey 0 0x900)).toNat + 1 = bay3.slots ∧
      64 ≤ bay3.slotBytes) ∧
    (let f := parcelsOn [bay3] [(coreKey 0 0x900, 1)]
     findBay f (destCore 0x10000003) (destBay 0x10000003) = some bay3 ∧ bay3.slots ≤ (loadWord f (coreKey 0 0x900)).toNat) := by
  refine ⟨⟨issues_of ?_, ?_, ?_, ?_, ?_, ?_, settled_of ?_, ?_⟩, fun s hs => ?_, ?_, ?_, ?_⟩
  case refine_9 =>
    rcases hs with _ | ⟨_, _ | ⟨_, _ | ⟨_, ⟨⟩⟩⟩⟩ <;>
      refine ⟨issues_of ?_, plainly_of ?_, ?_, ?_, ?_, settled_of ?_, ?_, ?_, ?_, fun e he => ⟨?_, ?_, ?_, ?_, ?_, fun j hj => ok_eq ?_⟩⟩ <;>
      first
      | decide +kernel
      | (unfold State.memoryOk; decide +kernel)
      | (revert j; revert e; decide +kernel)
      | (clear hj j; revert e; decide +kernel)
      | (revert e; decide +kernel)
  all_goals first
    | decide +kernel
    | (unfold State.memoryOk; decide +kernel)

/-- Memory with words of eight bytes at the keys. -/
def words (l : List (Nat × Nat)) : List Host.Cell := l.foldl (fun m p => writeLE m p.1 8 p.2) []

/-- HartEvents: the hart under the cursor in a pause that ends now and one that does not; in WAIT on a word of the window that has
and has not the value, and on a poisoned one; at a barrier whose phase has and has not completed; with its watchdog due in both modes; and with a fault
that has no reply, a reply that lets it go on and one that does not, before and after its context was saved. -/
theorem witness_hart_events :
    let p := on { hart0 with pauseUntil := 32 }
    let w := { on { hart0 with st := .wait, waits := .word 0x000F800000000040 4 0 7 9 } with mem := [(coreKey 0 0x40, 7)] }
    let b := on { hart0 with st := .wait, waits := .barrier 0 }
    let d := on { hart0 with wdcount := 10, csr := { hart0.csr with wdlimit := 10 } }
    let f := fun r : Byte => { on { hart0 with st := .swapped, waits := .fault 0 (some 5) 0x5000 } with
      mem := if r = 0 then [] else [(coreKey 0 (noteOff 5 + 24), r)] }
    (p.standsAt 1 0 p ∧ p.clk < p.hart.pauseUntil ∧ { p with clk := 32 }.hart.pauseUntil ≤ { p with clk := 32 }.clk) ∧
    (w.standsAt 1 0 w ∧ gangIssues w w.hart = true ∧ w.hart.stopped = false ∧ w.settled ∧ w.memoryOk ∧
      w.windowKey 0x000F800000000040 8 (coreKey 0 0x40) ∧ poisoned w (coreKey 0 0x40) 8 = false ∧
      waitHolds 0 (loadWord w (coreKey 0 0x40)) 7 = true ∧ waitHolds 0 (loadWord { w with mem := [] } (coreKey 0 0x40)) 7 = false) ∧
    (let v := { w with memPoison := [coreKey 0 0x40] }
     v.standsAt 1 0 v ∧ gangIssues v v.hart = true ∧ v.hart.stopped = false ∧ v.settled ∧ v.memoryOk ∧
      v.windowKey 0x000F800000000040 8 (coreKey 0 0x40) ∧ poisoned v (coreKey 0 0x40) 8 = true) ∧
    (b.standsAt 1 0 b ∧ b.memoryOk ∧ findGang b b.hart.name.1 = some loadedGang ∧ loadedGang.phase = 0 ∧
      findGang { b with gangs := [{ loadedGang with phase := 1 }] } 1 = some { loadedGang with phase := 1 }) ∧
    (d.standsAt 1 0 d ∧ d.hart.st = .run ∧ d.hart.csr.wdlimit ≠ 0 ∧ d.hart.csr.wdlimit.toNat ≤ d.hart.wdcount ∧ d.hart.psend = none ∧
      bit d.ctl.mode 2 = false ∧ d.hart.tact = false ∧ bit { d.ctl with mode := 4 }.mode 2 = true) ∧
    (on { d.hart with psend := some ⟨[], 1, 0, 5⟩ }).hart.psend ≠ none ∧
    ((f 1).standsAt 1 0 (f 1) ∧ (f 1).memoryOk ∧ (f 1).hart.tact = false ∧ replyByte (f 0) 0 5 = 0 ∧ replyByte (f 1) 0 5 = 1 ∧ 2 ≤ replyByte (f 2) 0 5 ∧
      contextSaved (f 1) = false ∧ contextSaved { f 1 with hart := { (f 1).hart with st := .preempted } } = true) := by
  refine ⟨⟨⟨rfl, ?_⟩, ?_, ?_⟩, ⟨⟨rfl, ?_⟩, ?_, ?_, ?_, ?_, window_of ?_, ?_, ?_, ?_⟩,
    ⟨⟨rfl, ?_⟩, ?_, ?_, ?_, ?_, window_of ?_, ?_⟩, ⟨⟨rfl, ?_⟩, ?_, ?_, ?_, ?_⟩,
    ⟨⟨rfl, ?_⟩, ?_, ?_, ?_, ?_, ?_, ?_, ?_⟩, ?_, ⟨⟨rfl, ?_⟩, ?_, ?_, ?_, ?_, ?_, ?_, ?_⟩⟩ <;>
    first
    | decide +kernel
    | (refine settled_of ?_; decide +kernel)
    | (unfold State.memoryOk; decide +kernel)

theorem no_writes {s : State} (h : s.requests = []) (g m : Nat) : remoteWritesPending s g m = false := by
  cases hf : findHart s g m <;> simp [remoteWritesPending, ownWritesPending, h, hf]

/-- A gang of one that waits in the queue, with the fields `w2` of its record. -/
def queued (gid : BitVec 32) (w2 : Word) : Gang :=
  { loadedGang with gid := gid, record := setRecWord (setRecWord (setRecWord 0 2 w2) 3 0x5040) 4 7, status := .queued, home := none }
/-- The machine of one core that serves, with gangs and no hart placed. -/
def queueOf (l : List Gang) : State :=
  { State.reset with
    gangs := l, resident := [(0, 0)]
    ctl := { State.reset.ctl with stage := 3, plx := (Vector.replicate 8 (BitVec.allOnes 64)).set 0 (~~~1) } }

/-- QueueEvents: no gang of the number; requests of a mailbox for such a gang, not begun and begun; a request that has begun for a gang
under way, and for one that is not; a pending gang whose word can be read, and has and has not its value, and one whose word cannot;
a queued gang whose place is the one that is chosen, with a key of its own and with one that cannot be read; one that becomes
reserving after 1 ms; one that is reported after 1 s. -/
theorem witness_queue :
    let x := { queued 2 0x10010208101 with status := .pending }
    let at_ := fun v : Nat => { queueOf [x] with mem := writeLE tables 0x3040 8 v }
    let s := at_ 7
    let g := queued 2 0x10208101
    let u := queueOf [g]
    let k := { g with record := setRecWord g.record 2 0x100010208101 }
    let e := { queueOf [{ g with firstSince := some 0 }] with clk := 2500000 }
    let o := { queued 2 0x00208101 with reported := false }
    let r := { queueOf [o] with clk := 2500000000 }
    let pr := fun a : Nat => { u with mem := words [(mailboxKey 0 + 16, 5 + a * 2 ^ 32)] }
    let bg := fun (s : State) (a n : Nat) => s.setIsle 0 { s.isle 0 with begun := some ⟨a, n, 0⟩ }
    findGang s 5 = none ∧
    (∀ a ∈ [1, 2, 3], bits (mailboxWord (pr a) 0 16) 32 2 = a ∧ bits (mailboxWord (pr a) 0 16) 0 32 = 5 ∧
      ((pr a).isle 0).begun = none ∧ findGang (pr a) 5 = none ∧ ((bg u a 5).isle 0).begun = some ⟨a, 5, 0⟩ ∧ findGang (bg u a 5) 5 = none) ∧
    (findGang (bg u 1 2) 2 = some g ∧ g.status ≠ .preempting ∧ g.status ≠ .ending ∧
      findGang (bg (queueOf [{ g with status := .ending }]) 1 2) 2 = some { g with status := .ending }) ∧
    (findGang s 2 = some x ∧ x.dcond = 1 ∧ s.memoryOk ∧ (∀ l ∈ s.l1d, 64 * l.line + 64 ≤ mainBytes) ∧ x.status = .pending ∧
      (∃ p, deviceSite (at_ 7) 0 x.asid true .load x.daddr 8 = some p ∧ p.1 = .key 0x3040 ∧ poisoned p.2 0x3040 8 = false ∧
        x.dval.toNat ≤ (loadWord p.2 0x3040).toNat) ∧
      (∃ p, deviceSite (at_ 6) 0 x.asid true .load x.daddr 8 = some p ∧ p.1 = .key 0x3040 ∧ poisoned p.2 0x3040 8 = false ∧
        ¬ x.dval.toNat ≤ (loadWord p.2 0x3040).toNat) ∧
      deviceSite s 0 x.asid true .load 0x1000 8 = none ∧ x.dependNoted = false) ∧
    (∀ y ∈ [g, k], findGang (queueOf [y]) 2 = some y ∧ y.status = .queued ∧ y.keyRetryAt ≤ u.clk ∧ draining (queueOf [y]) = false ∧
      [0] = List.range y.gsize ∧
      placesChosen (queueOf [y]) y (fun _ => gangNeeds (queueOf [y]) y) false [(⟨0, [0], 0⟩ : Place)] = true) ∧
    (g.rngm = false ∧ k.rngm = true ∧
      (match formKey (prepareCore 0 (queueOf [k]) 0) 0 k with | .ok none _ => true | _ => false) = true) ∧
    (findGang e 2 = some { g with firstSince := some 0 } ∧ 0 + 2500000 ≤ e.clk ∧ ∀ y ∈ e.gangs, y.reserving = false) ∧
    (findGang r 2 = some o ∧ o.eligibleEntry = true ∧ o.reported = false ∧ o.waitingSince + 2500000000 ≤ r.clk ∧ placeable r o = false) := by
  refine ⟨?_, ?_, ⟨?_, ?_, ?_, ?_⟩, ⟨?_, ?_, ?_, ?_, ?_, some_of ?_, some_of ?_, ?_, ?_⟩, ?_, ⟨?_, ?_, ?_⟩, ⟨?_, ?_, ?_⟩, ⟨?_, ?_, ?_, ?_, ?_⟩⟩ <;>
    first
    | decide +kernel
    | (unfold State.memoryOk; decide +kernel)

/-- A machine of one core that serves, whose slot 0 a gang of priority 2 holds in 32 vector registers and 8 tiles, with a pool of `n`
frames at 16 MiB, and a gang of priority 7 in the queue. -/
def crowded (n : Nat) : State :=
  let v := { loadedGang with record := setRecWord 0 2 0x12208101, placedAt := 0 }
  { on hart0 with
    gangs := [v, queued 2 0x17208101], mem := words [(mailboxKey 0 + 32, 0x1000000), (mailboxKey 0 + 40, n)]
    retiredCores := [], ctl := { State.reset.ctl with mode := 16, plx := (Vector.replicate 8 (BitVec.allOnes 64)).set 0 (~~~1) }
    slotCaps := [(0, 1, 0), (0, 2, 0)] }

/-- QueueEvents: the gang of priority 7 has one victim, and so has one of priority 6 that has been blocked for 10 us; a victim is saved,
and its save ends; a saved gang has its frame ready and may be placed again, has no frame ready, and finds its core held; the requests
of a mailbox, for a gang in each state they tell apart, with and without a frame, and with a member that is and is not quiet. -/
theorem witness_preemption :
    let s := crowded 1
    let v := { loadedGang with record := setRecWord 0 2 0x12208101, placedAt := 0 }
    let b := { queued 2 0x16208101 with blockedSince := some 0 }
    let c := { s with gangs := [v, b], clk := 25000 }
    let x := { v with status := .preempting, unsaved := [0], frames := [(0, 0, 0)] }
    let t := { s with gangs := [x] }
    let y := { x with unsaved := [] }
    let k := 0x1000000
    let d := { s with gangs := [y], mem := words [(mailboxKey 0 + 32, k), (mailboxKey 0 + 40, 1), (k + 56, 1)] }
    let z := { y with status := .preempted }
    let r := { on { hart0 with cores := [], st := .preempted } with
      gangs := [z], ctl := { State.reset.ctl with mode := 16, plx := (Vector.replicate 8 (BitVec.allOnes 64)).set 0 (~~~1) }
      mem := words [(mailboxKey 0 + 32, k), (mailboxKey 0 + 40, 1), (k, 0x0101808800000000), (k + 56, 1)] }
    let pr := fun (st : GangStatus) (n a : Nat) => { crowded n with
      gangs := [{ v with status := st }], mem := words [(mailboxKey 0 + 16, 1 + a * 2 ^ 32), (mailboxKey 0 + 32, k), (mailboxKey 0 + 40, n)] }
    (findGang s 1 = some v ∧ findGang s 2 = some (queued 2 0x17208101) ∧ (queued 2 0x17208101).eligibleEntry = true ∧ draining s = false ∧
      placeable s (queued 2 0x17208101) = false ∧ (queued 2 0x17208101).prio = 7 ∧ chosenVictims s (queued 2 0x17208101) [v] = true) ∧
    (findGang c 2 = some b ∧ b.eligibleEntry = true ∧ draining c = false ∧ placeable c b = false ∧ 0 + 25000 ≤ c.clk ∧
      chosenVictims c b [v] = true) ∧
    (findGang t 1 = some x ∧ x.unsaved = [0] ∧ memberFrame t x 0 = some k ∧ t.standsAt 1 0 t ∧ t.settled ∧
      t.hart.psend = none ∧ t.hart.engine = false ∧ t.memoryOk) ∧
    (findGang d 1 = some y ∧ y.status = .preempting ∧ y.unsaved = [] ∧ (gangMembers d 1).filter (fun m => decide (m ∉ y.gone)) = [0] ∧
      memberFrame d y 0 = some k ∧ bit (loadWord d (k + 56)) 0 = true ∧ (d.harts.map Hart.name).Nodup) ∧
    (findGang r 1 = some z ∧ z.status = .preempted ∧ draining r = false ∧ entryMembers r z = [0] ∧ r.standsAt 1 0 r ∧
      memberFrame r z 0 = some k ∧ frameReady r k = true ∧ frameReady { r with mem := [] } k = false ∧
      placesChosen r z (frameNeeds r z) true [⟨0, [0], 0⟩] = true ∧ placesChosen r z (frameNeeds r z) true [⟨0, [1], 0⟩] = false ∧
      bits (loadWord (prepareCore 0 r 0) (k + 16)) 0 2 = 0 ∧ bits (loadWord (prepareCore 0 r 0) (k + 0x40 + 8 * 21)) 0 4 = 0) ∧
    (∀ st ∈ [GangStatus.held, .pending, .queued, .preempted, .preempting, .resident, .suspended],
      ∀ a ∈ [1, 2, 3], let p := pr st 1 a
        bits (mailboxWord p 0 16) 0 32 = 1 ∧ bits (mailboxWord p 0 16) 32 2 = a ∧ findGang p 1 = some { v with status := st } ∧
        (p.isle 0).begun = none ∧ (assignFrames p { v with status := st }).2 = 0) ∧
    (assignFrames (pr .resident 0 1) v).2 ≠ 0 ∧
    (let p := pr .resident 1 2
     (p.harts.map Hart.name).Nodup ∧ (∀ h ∈ p.harts, h.name.1 = 1 → h.settled = true) ∧ (∀ m, remoteWritesPending p 1 m = false) ∧
      (let o := { p with hart := { p.hart with psend := some ⟨[0], 0, 0, 5⟩ } }
       ∃ h ∈ o.harts, h.name.1 = 1 ∧ h.st ≠ .exited ∧ h.psend ≠ none)) := by
  refine ⟨⟨?_, ?_, ?_, ?_, ?_, ?_, ?_⟩, ⟨?_, ?_, ?_, ?_, ?_, ?_⟩, ⟨?_, ?_, ?_, ⟨rfl, ?_⟩, settled_of ?_, ?_, ?_, ?_⟩,
    ⟨?_, ?_, ?_, ?_, ?_, ?_, ?_⟩, ⟨?_, ?_, ?_, ?_, ⟨rfl, ?_⟩, ?_, ?_, ?_, ?_, ?_, ?_, ?_⟩, ?_, ?_,
    ⟨?_, ?_, fun m => no_writes ?_ 1 m, ⟨_, List.mem_cons_self .., ?_, ?_, ?_⟩⟩⟩ <;>
    first
    | decide +kernel
    | (unfold State.memoryOk; decide +kernel)

/-- MemoryEvents: requests that are posted and refused; a region whose migration may start, one that is pinned and one that waits for a
spare; a region whose migration has begun, has a chunk under way, and has the last one under way; an Isle with an invalidation to do and
one with one under way; a row-miss limit. -/
theorem witness_migrations :
    let s := { State.reset with hashVersions := [⟨1, [], 0⟩] }
    let q := { s with migrations := [⟨5, .rehash 1⟩] }
    let far := 600000
    let m : Migration := ⟨.hbm 5 32704, 1, [], none, [], false⟩
    let at_ := fun m : Migration => { s with regions := [⟨5, homeSlot 5, 0, some m⟩] }
    let first := { m with moving := some 0 }
    let last := { m with done := List.range 63, moving := some 63 }
    let i := { s with isles := s.isles.set 0 { s.isles[0] with done := false } }
    (5 < exposedRegions ∧ versionConfigured s 1 = true ∧ (regionEntry s 5).version ≠ 1 ∧ (regionEntry s 5).slot.isHbm = true ∧
      (regionEntry s far).slot.isHbm = false ∧ far < exposedRegions ∧ ¬ exposedRegions < exposedRegions) ∧
    ((s.isle 0).rhthr ≠ 0 ∧ (regionEntry s 5).version < 16 ∧ { (s.isle 0) with rhthr := 0 }.rhthr = 0) ∧
    ((q.migrations.find? fun y => decide (y.region = 5)) = some ⟨5, .rehash 1⟩ ∧ (regionEntry q 5).migration = none ∧
      requestRefused q ⟨5, .rehash 1⟩ = false ∧ regionPinned q 5 = false ∧
      requestRefused { q with hashVersions := [] } ⟨5, .rehash 1⟩ = true ∧
      regionPinned { q with hart := { q.hart with q := q.hart.q.set 2 ⟨true, true, 0x5000, 64, [⟨0x5000, 5 * 2 ^ 21, 4096⟩]⟩ } } 5 = true ∧
      migrationTarget q (regionEntry q 5) (.rehash 1) = some (.hbm 5 32704, 1)) ∧
    (∀ x ∈ [m, first, last], (regionEntry (at_ x) 5).migration = some x) ∧
    (m.moving = none ∧ nextChunk m = some 0 ∧ first.moving = some 0 ∧ 1 ∉ first.done ++ [0] ∧ last.moving = some 63 ∧
      (∀ c ∈ List.range 64, c ∈ last.done ++ [63]) ∧ first.moving ≠ some 7 ∧ nextChunk first ≠ none) ∧
    ((s.isle 0).done = true ∧ (i.isle 0).done = false) := by
  refine ⟨?_, ?_, ?_, ?_, ?_, ?_⟩ <;> decide +kernel

/-- A relayout of one unit that the Landing engine has not converted. -/
noncomputable def relayoutState : State :=
  let h := regs hart0 8 [0x000F800000001000, 0x4000]
  after (.trelayout 0 9 8 3) { on { h with h := h.h.set 3 (some handle1) } with mem := [(coreKey 0 0x400, 7)] }

/-- MemoryEvents: the relayout of one unit of 16 elements: every one of them has its two places, away from the table and from
each other; and the same relayout with the unit promoted, under way, read, written with and without an acknowledgement that is due,
and a relayout of two units. -/
theorem witness_relayout_unit :
    let s := relayoutState
    s.memoryOk ∧ ∃ r : Relayout, s.relayouts[0]? = some r ∧ unitCount (Handle.extents r.record) = 1 ∧ r.moving = none ∧ nextUnit r = some 0 ∧
      tableKey s r 0 = some (.key (coreKey 0 0x600)) ∧ Handle.ccnt r.record = 0 ∧
      nextUnit { r with promoted := [0] } = some 0 ∧ nextUnit { r with finished := [0] } = none ∧
      (let two := { r with record := setRecWord r.record 5 (4 + 200 * 2 ^ 32) }
       unitCount (Handle.extents two.record) = 2 ∧ nextUnit { two with finished := [0] } = some 1) ∧
      (unitCoords (Handle.layout r.record) (Handle.extents r.record) 0).length = 64 ∧
      engineWritesPending s r.isle = false ∧
      engineWritesPending { s with requests := [⟨9, 1, 2 ^ 52, 8, r.isle, none, 0, 0, none, false⟩] } r.isle = true ∧
      (let h : Handle := r.record
       let at_ := fun (base : Word) (pins : List Pin) (l : Layout) (x : List Nat) =>
         engineSite s (64 * r.isle) pins (elementAddress base 32 (layoutOffset l h.extents x)).1
       (unitCoords h.layout h.extents 0).all fun x =>
         (match at_ h.base r.newPins h.layout x with
           | some (.key k) => decide (k + 4 ≤ coreKey 0 0x600 ∨ coreKey 0 0x608 ≤ k) && !isMailboxKey k && !isMailboxKey (k + 4 - 1)
           | _ => false) &&
         (!inExtents h.extents x || (match at_ h.oldBase r.oldPins h.oldLayout x with | some (.key _) => true | _ => false))) = true := by
  refine ⟨?_, some_of ?_⟩
  · unfold State.memoryOk; decide +kernel
  · decide +kernel

/-- MemoryEvents: a stream that is fetched and one whose stored elements are performed; an engine transfer of a word; a PSEND whose
parcels are all acknowledged; a line of the L1D with a dirty byte. -/
theorem witness_engines :
    let y : Stream := { base := 0x000F800000000500, stride := 0, avl := 2, ctl := 0xC3, token := 0, position := 2
                        buf := [⟨7, false, some (.key (coreKey 0 0x500)), 0⟩, ⟨8, false, some (.key (coreKey 0 0x504)), 0⟩], moved := 0 }
    let d := on { hart0 with f := hart0.f.set 2 (some y) }
    let z := { y with ctl := 0x43, position := 0, buf := [], moved := 0 }
    let e := on { hart0 with f := hart0.f.set 1 (some z) }
    let z8 := { z with stride := 8 }
    let tr : Transfer := ⟨0, 0, 0, [⟨.key (coreKey 0 0x900), .key (coreKey 0 0xA00)⟩], [], [], []⟩
    let t := on { hart0 with transfers := [tr] }
    let p := on { hart0 with psend := some ⟨[], 1, 0, 5⟩ }
    let w := on { hart0 with psend := some ⟨[9], 1, 0, 5⟩ }
    let l := { on hart0 with l1d := [⟨0, 5, 0xAB00, 2, 0⟩] }
    (e.standsAt 1 0 e ∧ e.settled ∧ e.hart.f[1] = some z ∧ z.writes = false ∧ z.moved.toNat ≤ z.avl.toNat ∧ z.hmode = false ∧
      min (stripSize e.hart z.width - z.buf.length) (z.avl.toNat - z.moved.toNat) = 2 ∧ z.buf = [] ∧
      (∀ j < 2, streamWord (on { hart0 with f := hart0.f.set 1 (some z8) }) z8 j ≠
        streamWord (on { hart0 with f := hart0.f.set 1 (some z8) }) z8 (j + 1)) ∧
      ∀ j ∈ [0, 1], streamElement e z (z.moved.toNat + j) false = .ok (0, 0x000F800000000500 + BitVec.ofNat 64 (4 * j), 0) e ∧
        tokenSite e (streamCore e z (z.moved.toNat + j)) 0 (0x000F800000000500 + BitVec.ofNat 64 (4 * j)) 4 false false =
          .ok (.key (coreKey 0 (0x500 + 4 * j)))) ∧
    (d.standsAt 1 0 d ∧ d.hart.f[2] = some y ∧ y.writes = true ∧ d.memoryOk ∧ d.l1d = [] ∧ min 9 y.buf.length = 2 ∧
      (∀ j ∈ [0, 1], (y.buf.getD j ⟨0, true, none, 0⟩).site = some (.key (coreKey 0 (0x500 + 4 * j))) ∧
        (y.buf.getD j ⟨0, true, none, 0⟩).nib = 0) ∧ plainKey (coreKey 0 0x500) 4 ∧ plainKey (coreKey 0 0x504) 4 ∧
      placesApart y.width (coreKey 0 0x500, 0) (coreKey 0 0x504, 0)) ∧
    (t.standsAt 1 0 t ∧ findGang t 1 ≠ none ∧ t.hart.transfers = tr :: [] ∧ tr.tags = [] ∧ t.hart.order = .prompt ∧
      tr.segs = [(coreKey 0 0x900, coreKey 0 0xA00)].map (fun p => ⟨.key p.1, .key p.2⟩) ∧ t.memoryOk ∧
      wordsApart [coreKey 0 0xA00] ∧ coreKey 0 0xA00 % 8 = 0 ∧ t.l1d = [] ∧ { tr with tags := [3] }.tags ≠ []) ∧
    (p.standsAt 1 0 p ∧ p.hart.psend = some ⟨[], 1, 0, 5⟩ ∧ w.hart.psend = some ⟨[9], 1, 0, 5⟩) ∧
    (l1dFind l 0 5 = some ⟨0, 5, 0xAB00, 2, 0⟩ ∧ l1dFind l 0 6 = none ∧ l.memoryOk) := by
  refine ⟨⟨⟨rfl, ?_⟩, settled_of ?_, ?_, ?_, ?_, ?_, ?_, ?_, ?_, fun j hj => ⟨res_eq ?_, ok_eq ?_⟩⟩, ⟨⟨rfl, ?_⟩, ?_, ?_, ?_, ?_, ?_, ?_, ?_, ?_, ?_⟩,
    ⟨⟨rfl, ?_⟩, ?_, ?_, ?_, ?_, ?_, ?_, ?_, ?_, ?_, ?_⟩, ⟨⟨rfl, ?_⟩, ?_, ?_⟩, ⟨?_, ?_, ?_⟩⟩ <;>
    first
    | decide +kernel
    | (unfold State.memoryOk; decide +kernel)
    | (unfold wordsApart plainKey; decide +kernel)
    | (unfold plainKey; decide +kernel)
    | (unfold placesApart; decide +kernel)
    | (revert j; decide +kernel)

/-- ModuleEvents: a record held back with room in the ring and without, for the host and for a hart that waits; a line and a word read
with no error, with one that is corrected and with one that is not, and with a lasting fault; repairs proposed, approved and
started, and a region to be moved. -/
theorem witness_errors :
    let s := State.reset
    let held := fun n : HeldNote => { s with isles := s.isles.set 0 { s.isles[0] with heldNotes := [n] } }
    let full := { held ⟨5, false, none⟩ with mem := writeLE [] (mailboxKey 0) 8 512 }
    let waits := { held ⟨noteRecord 1 1 0 0 0x5000 0, true, some (1, 0)⟩ with
      hart := { hart0 with st := .swapped, waits := .fault 0 none 0x5000 }, ctl := { s.ctl with node := 1, host := 0xFFE } }
    let word := rsEncode (List.replicate 64 0)
    let lane : Word := locWord 3 (0 * 2 ^ 5 + 7)
    let seen := { s with rasEvents := [⟨lane, 0, true⟩, ⟨lane, 0, true⟩] }
    let loc : Word := 0x0300000000000000 + 4 * 32
    let row : Word := locWord 4 (32640 + 5 * 2 ^ 24)
    let job := fun (l : Word) (st : RepairStage) => { s with repairs := [⟨l, st, 0, some 2⟩] }
    let slot := fun st : RepairStage => job 0x0200000000000010 st
    (ringHasRoom (held ⟨5, false, none⟩) 0 = true ∧ ((held ⟨5, false, none⟩).isle 0).heldNotes = [⟨5, false, none⟩] ∧
      ringHasRoom full 0 = false ∧ s.memoryOk ∧ ringHasRoom waits 0 = true ∧ canSend waits = true ∧ waits.hart.name = (1, 0) ∧
      (noteRecord 1 1 0 0 0x5000 0).extractLsb' 0 8 = 1 ∧ (noteRecord 1 1 0 0 0x5000 0).extractLsb' 64 64 = (0x5000 : Word) ∧
      waits.hart.waits = .fault 0 none 0x5000) ∧
    (poisoned s 0 64 = false ∧ rsDecode (withErrors word []) = some word ∧
      rsDecode (withErrors word [(3, 5), (4, 1), (70, 0xFF), (9, 2)]) = some word ∧
      rsDecode (withErrors word [(3, 5), (4, 1), (70, 0xFF), (9, 2), (11, 1)]) = none) ∧
    (coreOffMapped 0x40 = true ∧ plainKey (coreKey 0 0x40) 8 ∧ poisoned s (coreKey 0 0x40) 8 = false ∧ secDed [] = .clean ∧
      secDed [(3, 0)] = .corrected ∧ secDed [(3, 0), (71, 0)] = .double) ∧
    (rasCount s = 3 ∧ 0 < rasWindow s ∧ repairAction seen lane = some .spareLane ∧
      List.countP (fun e : RasEvent => decide (e.location = lane) && e.correctable) (seen.rasEvents ++ [⟨lane, 0, true⟩]) = 3) ∧
    ((∀ st ∈ [RepairStage.proposed, .approved, .started 3],
        ((job loc st).repairs.find? fun j => j.location == loc) = some ⟨loc, st, 0, some 2⟩ ∧ ((job loc st).repairs.map (·.location)).Nodup) ∧
      repairAction (job loc .approved) loc = some .spareLane ∧ repairOver (job loc (.started 3)) loc 3 = true ∧
      repairAction (slot .approved) 0x0200000000000010 = some .slotCapacity ∧
      slotTaken (slot .approved) (locCore 0x0200000000000010) (locSlot 0x0200000000000010) = false ∧
      replyByte (job loc .proposed) 0 2 = 0 ∧
      replyByte { job loc .proposed with mem := [(coreKey 0 (noteOff 2 + 24), 1)] } 0 2 = 1 ∧
      replyByte { job loc .proposed with mem := [(coreKey 0 (noteOff 2 + 24), 2)] } 0 2 = 2) ∧
    (let r := { job row .approved with sparesUsed := List.replicate 64 row }
     repairAction r row = some .moveRegion ∧ regionAt r (locStorage row) = some 522245 ∧ (regionEntry r 522245).migration = none) := by
  refine ⟨⟨?_, ?_, ?_, ?_, ?_, ?_, ?_, ?_, ?_, ?_⟩, ?_, ⟨?_, ?_, ?_, ?_, ?_, ?_⟩, ?_, ?_, ?_⟩ <;>
    first
    | decide +kernel
    | (unfold State.memoryOk; decide +kernel)
    | (unfold plainKey; decide +kernel)

/-- ModuleEvents: power beyond the limit, at it and below nine tenths of it, a measurement that is early, heat and a trip; the stages,
with and without a supervisor; a drain; and requests of the security protocol that stand, among them a code of no command. -/
theorem witness_module :
    let s := State.reset
    let w := { s with clk := 2500000 }
    let one := { s with ctl := { s.ctl with stage := 1 } }
    let d := { crowded 1 with gangs := [{ loadedGang with record := setRecWord 0 2 0x12208101, placedAt := 0 }] }
    let asks := fun (code arg : Byte) => { s with ctl := { s.ctl with
      spdmctl := 0x2008, spdmReq := BitVec.ofNat 32768 (0x12 + code.toNat * 256 + arg.toNat * 2 ^ 24) } }
    (s.thermalHot = false ∧ bits s.ctl.power 16 16 = 3800 ∧ 3800 * 9 ≤ 3420 * 10 ∧ 3419 * 10 < 3800 * 9 ∧ s.lowPowerMs + 1 < 100 ∧
      100 ≤ { s with lowPowerMs := 99 }.lowPowerMs + 1 ∧ s.clk < s.measuredAt + 2500000 ∧ w.measuredAt + 2500000 ≤ w.clk ∧
      ¬ (10 ≤ s.highPowerMs ∨ 110 ≤ s.hottest) ∧ 10 ≤ { s with highPowerMs := 10 }.highPowerMs) ∧
    (stageNum s = 0 ∧ stageNum one = 1 ∧ supervised one = false ∧ supervised { one with hart := { hart0 with slot := 3 } } = true ∧
      ([] : List HartStart).map (·.isle) ≠ List.range 8) ∧
    (draining s = false ∧ draining { s with ctl := { s.ctl with drain := 1 } } = true ∧
      (d.gangs.map fun x => (x.status, x.prio, (assignFrames d x).2)) = [(.resident, 2, 0)]) ∧
    (∀ code ∈ [(0x82 : Byte), 0xE0, 0x84, 0x55], bit (asks code 1).ctl.spdmctl 13 = true ∧
      ((spdmRequest (asks code 1)).getD 1 0) = code ∧ (spdmRequest (asks code 1)).getD 2 0 = 0 ∧
      (spdmRequest (asks code 1)).getD 3 0 = 1) := by
  refine ⟨?_, ?_, ?_, ?_⟩ <;> decide +kernel

/-- A message of the host, node 0xFFE, to main memory. -/
def request (typ op len : Nat) (addr arg0 arg1 : Word) (data : List (Word × Bool)) : Message :=
  ⟨headerOf [BitVec.ofNat 64 (typ * 2 ^ 60 + 0xFFE * 2 ^ 44 + 9), BitVec.ofNat 64 (op * 2 ^ 40 + len), addr, arg0, arg1, 0, 0, 0], data⟩
/-- The module in stage 3 as node 1, its host node 0xFFE, with a bay and a watched word. -/
def served : State :=
  let s := State.reset
  { s with
    ctl := { s.ctl with stage := 3, node := 1, host := 0xFFE }, bays := [⟨0, 3, 1, 0, 0x900, 1, 0⟩]
    mem := writeLE [] 0x1000 8 7, atomicWaits := [⟨request 3 0 8 0x1000 7 1 [], 0x1000, 0⟩], clk := 2500 }

/-- IncomingRequests: requests of every TYPE that are well formed, one that is not, and places they reach and do not reach. -/
theorem witness_requests :
    let s := served
    (∀ m ∈ [request 0 0 16 0x1000 0 0 [], request 1 0 8 0x1000 0 0 [(5, false)], request 2 0 8 0x1000 1 0 [],
        request 3 0 8 0x1000 7 0 [], request 4 0 64 0 0 0 (List.replicate 8 (0, false)), request 5 0 64 0 3 0 (List.replicate 8 (0, false))],
      m.reserved = false ∧ m.badLen = false ∧ m.crosses = false ∧ m.virt = false) ∧
    (request 0 0 0 0 0 0 []).badLen = true ∧ 4096 < (request 2 0 5000 0x1000 1 0 []).len ∧ (request 2 10 8 0 0 0 []).badOp = true ∧
    (request 2 20 8 0 0 0 []).badOp = true ∧ (request 2 17 8 0 0 0 []).badOp = false ∧ s.memoryOk ∧ 2 ≤ stageNum s ∧ stageNum State.reset < 2 ∧
    (messageOffset s 0x1000 = some 0x1000 ∧ 0x1000 + 16 ≤ mainBytes) ∧
    (target s (request 0 0 16 0x1000 0 0 []) 16 .load true = .ok (.main 0x1000, s) ∧ (Landing.main 0x1000).key? = some 0x1000 ∧
      (match target s (request 0 0 16 0x0070000000000000 0 0 []) 16 .load true with | .error _ => true | .ok _ => false) = true ∧
      poisoned s 0x1000 8 = false ∧ plainKey 0x1000 8) ∧
    (let m := request 2 17 64 0x2000 9 0x3000 []
     prefixWordOk m.arg0 .insert (m.len / 4) = true ∧ ∃ p, prefixIds s m = some p ∧ p.1.length = 16 ∧ p.2 = 0x3000 ∧
      p.2 + 4 * PrefixOp.insert.ids 16 0 ≤ mainBytes) ∧
    (let m := request 2 19 0 0x2000 (9 + 4 * 2 ^ 32) 0x3000 []
     prefixWordOk m.arg0 .evict 0 = true ∧ (∃ p, prefixIds s m = some p ∧ p.1 = [] ∧ p.2 + 4 * PrefixOp.evict.ids 0 4 ≤ mainBytes) ∧
      bit s.ctl.mode 1 = false ∧ bit { s.ctl with mode := 2 }.mode 1 = true) ∧
    (recordCode s loadedGang.record false = 0 ∧ recordCode s 0 false ≠ 0 ∧ bits (recWord loadedGang.record 2) 40 2 = 0) ∧
    (destOk 3 = true ∧ findBay s (destCore 3) (destBay 3) = some ⟨0, 3, 1, 0, 0x900, 1, 0⟩ ∧ findBay s (destCore 4) (destBay 4) = none) ∧
    (s.atomicWaits[0]? = some ⟨request 3 0 8 0x1000 7 1 [], 0x1000, 0⟩ ∧ loadWord s 0x1000 = 7 ∧
      bits (request 3 0 8 0x1000 7 1 []).arg1 0 32 = 1 ∧ 0 + 2500 * 1 ≤ s.clk) := by
  refine ⟨?_, ?_, ?_, ?_, ?_, ?_, ?_, ?_, ?_, ?_, ⟨ok_eq ?_, ?_, ?_, ?_, ?_⟩, ⟨?_, some_of ?_⟩, ⟨?_, some_of ?_, ?_, ?_⟩, ?_, ?_, ?_⟩ <;>
    first
    | decide +kernel
    | (unfold State.memoryOk; decide +kernel)
    | (unfold plainKey; decide +kernel)

/-- AnswersAndPeers: a request whose reply comes and one that times out, with and without a record to post; a connection that opens
a region to its peer and takes requests, and a connection that does not exist. -/
theorem witness_answers :
    let r : Request := ⟨9, 0, 0x80000000000FF8, 8, 0, some (1, 0), 0, 0, none, false⟩
    let s := { served with
      requests := [r], clk := 250000000
      ctl := { served.ctl with ctbase := 0x4000, ctcnt := 1 }, mem := words [(0x4000, 2 ^ 63), (0x4030, 0x8000), (0x4038, 4096)] }
    let c := { s with requests := [{ r with addr := 2 ^ 55 + 0xC00 * 2 ^ 43 }] }
    let n := { s with requests := [{ r with typ := 2, report := some 5 }] }
    let o := { s with requests := [{ r with stale := true }] }
    s.memoryOk ∧ (s.requests.map (·.tag)).Nodup ∧
    (findRequest s 9 = some r ∧ (request 7 0 8 0 0 0 [(5, false)]).tag = 9 ∧ findRequest s 8 = none ∧
      (∀ h ∈ s.harts, awaits h r.tag = false) ∧ isConnection r.addr = false ∧ r.sentAt + 250000000 ≤ s.clk) ∧
    ((∀ x ∈ [s, o], engineAwaits x 9 = false ∧ ∀ h ∈ x.harts, awaits h 9 = false) ∧ r.hart ≠ none ∧ r.stale = false ∧
      findRequest o 9 = some { r with stale := true }) ∧
    (∃ x, findRequest n 9 = some x ∧ x.typ ≠ 0 ∧ x.report = some 5) ∧ (request 7 0 8 0 0 0 [(5, true)]).data = [(5, true)] ∧
    (∃ x, findRequest c 9 = some x ∧ isConnection x.addr = true) ∧
    (let pa := 2 ^ 55 + 0xC00 * 2 ^ 43 + 0x40
     isConnection pa = true ∧ fabricNode pa = 0xC00 ∧ fabricOffset pa = 0x40) ∧
    (∃ x, peer s 0 = some x ∧ openTo x 0x8000 8 = true ∧ openTo x 0x9000 8 = false) ∧
    peer s 1 = none ∧ poisoned s 0x8000 8 = false ∧ connection s 1 = none ∧ connection s 0 ≠ none ∧
    (s.ctl.ctbase &&& 0x00FFFFFFFFFFFFC0).toNat + 64 * 0 + 64 ≤ mainBytes ∧
    (∀ x ∈ s.requests, ¬ (isConnection x.addr = true ∧ fabricNode x.addr = 0xC00 + 0)) := by
  refine ⟨?_, ?_, ?_, ?_, some_of ?_, ?_, some_of ?_, ?_, some_of ?_, ?_, ?_, ?_, ?_, ?_, ?_⟩ <;>
    first
    | decide +kernel
    | (unfold State.memoryOk; decide +kernel)

/-- StepRunsTheDecodedInstruction, StepKeepsMemoryForm, StepKeepsSpans, DecodeInvertsEncode, DecodeAcceptsOnlyEncodings: a state
whose next turn issues; a word that is fetched; the form and the spans; a well-formed instruction. -/
theorem witness_step :
    let s := State.reset.withFetchWord 32 0xFFF04202
    let u := tick 1 (retry s)
    s.agenda = [] ∧ nextCore u = some 0 ∧
    (∃ p, selected u 0 = some p ∧ (match fetchWords p.2 with | .ok w _ => w == (0xFFF04202, 0) | _ => false) = true) ∧
    decode 0xFFF04202 0 = .ok (.addi 0x7ff8 4 4) ∧
    (let w := on hart0
     w.windowKey w.hart.pc 4 (coreKey 0 0) ∧ poisoned w (coreKey 0 0) 4 = false ∧ w.icache = []) ∧
    (∃ h, selectHart u 0 = some h ∧ h.name = (1, 0)) ∧ s.memoryOk ∧ s.spansOk ∧
    (Instr.addi 0x7ff8 4 4).wellFormed = true ∧ (Instr.addi 0x7ff8 4 4).encoded = true := by
  refine ⟨?_, ?_, some_of ?_, rfl, ⟨window_of ?_, ?_, ?_⟩, some_of ?_, ?_, ?_, rfl, rfl⟩ <;>
    first
    | decide +kernel
    | (unfold State.memoryOk; decide +kernel)
    | (unfold State.spansOk Hart.spanOk; decide +kernel)

/-- DoubleTrapStopsTheHart, HartEvents: a hart that is in no instruction midway, whose record is written at once; and the same with a
full ring. -/
theorem witness_written :
    let t := on { hart0 with csr := { hart0.csr with priv := 0x11 }, st := .trapped }
    let full := { t with mem := writeLE [] (mailboxKey 0) 8 512 }
    (∀ h ∈ t.harts, h.progress = none) ∧ isleOf t.hart.home % 8 = 0 ∧ ((t.isle 0).heldNotes = [] ∧ ringHasRoom t 0 = true) ∧
      ¬ ((full.isle 0).heldNotes = [] ∧ ringHasRoom full 0 = true) ∧ full.hart.tact = true := by decide +kernel

/-- ScalarStores: a line of the L1D beside the one a store goes to; the control page of the module for a hart in service mode and for
one of the supervisor, and that of Isle 1 for one of the supervisor and for one of user mode. -/
theorem witness_control_pages :
    let m := { mapped (regs hart0 5 [0x5FF8]) with l1d := [⟨0, 127, 0xAB00, 2, 0⟩] }
    let at_ := fun (p a : Word) (v : Word) => on (regs { hart0 with csr := { hart0.csr with priv := p } } 5 [a, v])
    let addr := fun s : State => s.rs 5 + (0 : BitVec 12).signExtend 64
    let reaches := fun (s : State) (w : WindowPlace) => s.unpoisoned [5, 6] ∧ s.settled ∧ (addr s).toNat % 8 = 0 ∧
      bits (addr s) 52 12 = 0 ∧ inWindow (addr s) = true ∧ windowPlace s s.hart.home (addr s) = w
    (∃ l ∈ m.l1d, ¬ (l.core = m.hart.home ∧ l.line = 0x3FF8 / 64) ∧ l.line % 128 = 0x3FF8 / 64 % 128 ∧
      l1dFind m l.core l.line = some l ∧ l.dirty.getLsbD 1 = true) ∧
    (∀ off ∈ [0x000, 0x008, 0x010, 0x018, 0x020, 0x060, 0x068, 0x100, 0x040 + 8 * 3],
      reaches (at_ 2 (0x000FA00000000000 + BitVec.ofNat 64 off) 5) (.moduleCtl off) ∧ (at_ 2 0 5).hart.cur = 2) ∧
    (∀ off ∈ [0x000, 0x010, 0x018, 0x028, 0x038, 0x030],
      reaches (at_ 1 (0x000F920000000000 + BitVec.ofNat 64 off) (5 + 3 * 2 ^ 23)) (.isleCtl 1 off)) ∧
    ((at_ 1 0 5).hart.user = false ∧ (at_ 1 0 (5 + 3 * 2 ^ 23)).rs 6 = BitVec.ofNat 64 (5 + 3 * 2 ^ 23) ∧
      (at_ 1 0 (5 + 2 ^ 21)).rs 6 = BitVec.ofNat 64 (5 + 2 ^ 21) ∧ (at_ 1 0 (5 + 2 ^ 22)).rs 6 = BitVec.ofNat 64 (5 + 2 ^ 22)) ∧
    (reaches (at_ 0 0x000F920000000010 5) (.isleCtl 1 0x010) ∧ (at_ 0 0 5).hart.user = true ∧ (at_ 0 0 5).hart.tact = false) ∧
    (reaches (at_ 1 0x000FA00000000008 5) (.moduleCtl 8) ∧ (at_ 1 0 5).hart.cur ≠ 2 ∧ (at_ 1 0 5).hart.tact = false) := by
  refine ⟨⟨_, List.mem_cons_self .., ?_⟩, fun o ho => ⟨⟨?_, settled_of ?_, ?_⟩, ?_⟩, fun o ho => ⟨?_, settled_of ?_, ?_⟩, ?_,
    ⟨⟨?_, settled_of ?_, ?_⟩, ?_⟩, ⟨⟨?_, settled_of ?_, ?_⟩, ?_⟩⟩ <;>
    first
    | decide +kernel
    | (unfold State.unpoisoned; decide +kernel)
    | (revert o; decide +kernel)
    | (unfold State.unpoisoned; revert o; decide +kernel)

/-- HartExit: the last member of a gang, with a completion counter in the window and with one in main memory; a member of a gang of two
whose exit completes no phase, and one whose exit completes it. -/
theorem witness_last_exit :
    let gang := fun (c : Word) => { loadedGang with record := setRecWord loadedGang.record 5 c }
    let two := { loadedGang with record := setRecWord 0 2 0x10208102, expected := 2 }
    let of := fun g : Gang => { walked hart0 with gangs := [g] }
    (∀ g ∈ [loadedGang, two, { two with arrived := 1 }, gang 0x5040],
      (of g).quiet g.cscope ∧ findGang (of g) (of g).hart.name.1 = some g) ∧
    (two.gone.length + 1 ≠ two.gsize ∧ two.arrived + two.exits + 1 ≠ two.expected) ∧
    ({ two with arrived := 1 }.arrived + two.exits + 1 = two.expected ∧ two.exits + 1 < two.expected) ∧
    (loadedGang.gone.length + 1 = loadedGang.gsize ∧ loadedGang.caddr = 0) ∧
    (let g := gang 0x5040
     g.gone.length + 1 = g.gsize ∧ (of g).memoryOk ∧ g.caddr ≠ 0 ∧ inWindow g.caddr = false ∧
      ∃ p, deviceSite (releaseL1d (of g) g.cscope) (g.home.getD 0) g.asid true .store g.caddr 8 = some p ∧ p.1 = .key 0x3040 ∧
        poisoned p.2 0x3040 8 = false) := by
  refine ⟨fun g hg => ⟨quiet_of ?_ ?_ ?_, ?_⟩, ?_, ?_, ?_, ?_, ?_, ?_, ?_, some_of ?_⟩ <;>
    first
    | decide +kernel
    | (unfold State.memoryOk; decide +kernel)
    | (rcases hg with _ | ⟨_, _ | ⟨_, _ | ⟨_, _ | ⟨_, ⟨⟩⟩⟩⟩⟩ <;> decide +kernel)

/-- ElementArithmetic, VectorIssueChecks: a scaled first and a scaled second operand, a pair of types that VADD has no row for, an
immediate with FP32; planes with a reserved code at element 1; run operands of a span of 2, with S clear, with directions that
differ, and with payload; a ranked tile, a line of 128, and a tile that an operation owns; a load of which the first active element lies
outside the window; a stream that is not configured, one that writes and one of another width; a handle that is not valid, one whose
origin runs past s31, and one of another TYPE. -/
theorem witness_vector_traps :
    let use := useOf false .ab 3 2 4 (.vec 3)
    let sc := on (vec (typed4 10 10 10) 2 0x2100000B [1])
    let sb := on (vec (typed4 10 10 10) 3 0x2100000B [1])
    let mix := on (typed4 10 3 10)
    (∀ s ∈ [sc, sb, mix], s.issues use (cvOf s use) ∧ s.hart.tact = false ∧ s.legalTypes [2, 3]) ∧
    ([2, 3].find? (fun r => VTag.sc (sc.vtag r)) = some 2 ∧ [2, 3].find? (fun r => VTag.sc (sb.vtag r)) = some 3) ∧
    (mix.noScale [2, 3] ∧ sameNumber (mix.vtype 2) ((VSrc.vec 3).type mix) = false ∧ (VSrc.imm 3).fits (mix.vtype 2) = false ∧
      mix.issues (useOf false .ab 3 2 4 (.imm 3)) (cvOf mix (useOf false .ab 3 2 4 (.imm 3)))) ∧
    (let p := on { vec (vec hart0 2 (planeTag 16 2) [1, 2, 0, 1]) 4 (typeTag 2) [] with k := hart0.k.set 3 ⟨0b1011, 0⟩ }
     let u : VUse := { c := false, cls := some .ab, vr := [2], vw := [4], kr := [3] }
     p.issues u (cvOf p u) ∧ p.spanOk ∧ p.cleanFor [2] [3] ∧ isPlaneType (p.vtype 2) = true ∧ VTag.sc (p.vtag 2) = false ∧
      1 ∈ p.lanes 3 (p.nOf (typeWidth (p.vtype 2))) ∧ isReserved (elTy (p.vtag 2)) (p.elem 2 (elTy (p.vtag 2)) 1) = true ∧
      isReserved (elTy (p.vtag 2)) (p.elem 2 (elTy (p.vtag 2)) 0) = false) ∧
    (let run := fun (t u : VTag) => on (vec (vec (typed4 3 3 3) 2 t [1, 3]) 6 u [3, 4])
     let up := sortedTag 3 false false false 2
     let down := sortedTag 3 true false false 2
     let pay := sortedTag 3 false true false 2
     let wide := { run up up with hart := { (run up up).hart with csr := { (run up up).hart.csr with span := 2 } } }
     let u : VUse := { c := false, cls := some .mp, cross := true, whole := true, vr := [2, 6], vw := [4] }
     let v : VUse := { c := false, cls := some .mp, cross := true, whole := true, vr := [2, 6, 3, 7], vw := [5] }
     let both := on (vec (vec (vec (typed4 3 3 3) 2 pay [1, 3]) 6 pay [3, 4]) 7 3 [])
     (∀ s ∈ [wide, run 3 up, run up 3, run up down], s.issues u (cvOf s u) ∧ s.legalTypes [2, 6] ∧ s.noScale [2, 6] ∧
       ∀ r ∈ [2, 6], isSortable (s.vtype r) = true) ∧
     (1 < wide.span ∧ (run up down).span ≤ 1 ∧ [2, 6].find? (fun r => !VTag.s ((run up 3).vtag r)) = some 6 ∧
       VTag.dir ((run up down).vtag 6) ≠ VTag.dir ((run up down).vtag 2)) ∧
     (both.issues v (cvOf both v) ∧ both.legalTypes [2, 6, 3, 7] ∧ both.noScale [2, 6] ∧
       ([2, 6].filter fun r => VTag.pay (both.vtag r)).map (· + 1) = [3, 7] ∧ 5 % 2 = 1)) ∧
    (let z := fun (t : Tile) (n : Word) (q : List (Nat × Nat)) => on (regs { hart0 with z := hart0.z.set 1 t, mq := q } 5 [n])
     let u : VUse := { c := false, cls := some .mp, vw := [4, 5], kr := [3], sr := [5], zs := [1] }
     (∀ s ∈ [z { Tile.zero with ranked := true } 0 [], z Tile.zero 128 [], z Tile.zero 127 [(1, 9)]], s.issues u (cvOf s u)) ∧
     ((z { Tile.zero with ranked := true } 0 []).tile 1).ranked = true ∧ 127 < ((z Tile.zero 128 []).rs 5).toNat ∧
     ((z Tile.zero 127 [(1, 9)]).rs 5).toNat ≤ 127 ∧ (z Tile.zero 127 [(1, 9)]).hart.mq.find? (·.1 == 1) = some (1, 9)) ∧
    (let s := on (regs (typed4 10 10 10) 5 [0x1000])
     let u : VUse := { c := false, cls := some .ls, vw := [4], kr := [3], sr := [5] }
     s.issues u (cvOf s u) ∧ s.spanOk ∧ s.cleanFor [] [3] ∧ s.legalTypes [4] ∧ isPlaneType (s.vtype 4) = false ∧
      (s.lanes 3 (s.nOf 32)).head? = some 0 ∧ (s.rs 5).toNat % elemBytes 32 = 0 ∧
      tokenCovers (s.hart.token 0) 0 (s.rs 5) (elemBytes 32) = false) ∧
    (let s := { streams with hart := vec streams.hart 5 (typeTag 8) [] }
     let u : VUse := { c := false, cls := some .ls, vw := [4] }
     let v : VUse := { c := false, cls := some .ls, vw := [5] }
     s.issues u (cvOf s u) ∧ s.issues v (cvOf s v) ∧ s.legalTypes [4, 5] ∧ s.hart.f[3] = none ∧
      (∃ x, s.hart.f[2] = some x ∧ x.writes = true) ∧ ∃ x, s.hart.f[1] = some x ∧ x.writes = false ∧ typeWidth (s.vtype 5) ≠ x.width) ∧
    (let s := on { typed4 3 10 10 with h := hart0.h.set 3 (some handle1) }
     let u := fun (h : BitVec 4) (b : BitVec 5) (d : Nat) =>
       ({ c := false, cls := some .ls, vw := [d], kw := [3], sr := originRegs s h b } : VUse)
     (∀ x ∈ [((2 : BitVec 4), (4 : BitVec 5), 4), (3, 31, 4), (3, 4, 2)],
       s.issues (u x.1 x.2.1 x.2.2) (cvOf s (u x.1 x.2.1 x.2.2)) ∧ s.legalTypes [x.2.2]) ∧
     s.hart.h[2] = none ∧ s.hart.h[3] = some handle1 ∧ 32 < 31 + Handle.rank handle1 ∧ 4 + Handle.rank handle1 ≤ 32 ∧
      s.vtype 2 ≠ Handle.etype handle1) := by
  refine ⟨fun s hs => ⟨issues_of ?_, ?_, ?_⟩, ?_, ⟨?_, ?_, ?_, issues_of ?_⟩, ⟨issues_of ?_, ?_, ?_, ?_, ?_, ?_, ?_, ?_⟩,
    ⟨fun s hs => ⟨issues_of ?_, ?_, ?_, ?_⟩, ?_, ⟨issues_of ?_, ?_, ?_, ?_, ?_⟩⟩, ⟨fun s hs => issues_of ?_, ?_, ?_, ?_, ?_⟩,
    ⟨issues_of ?_, ?_, ?_, ?_, ?_, ?_, ?_, ?_⟩, ⟨issues_of ?_, issues_of ?_, ?_, ?_, some_of ?_, some_of ?_⟩,
    ⟨fun x hx => ⟨issues_of ?_, ?_⟩, ?_, ?_, ?_, ?_, ?_⟩⟩ <;>
    first
    | decide +kernel
    | (unfold State.legalTypes; decide +kernel)
    | (unfold State.noScale; decide +kernel)
    | (unfold State.spanOk Hart.spanOk; decide +kernel)
    | (unfold State.cleanFor; decide +kernel)
    | (unfold State.legalTypes; revert x; decide +kernel)
    | (revert x; decide +kernel)
    | (rcases hs with _ | ⟨_, _ | ⟨_, _ | ⟨_, ⟨⟩⟩⟩⟩ <;>
        first | decide +kernel | (unfold State.legalTypes; decide +kernel) | (unfold State.noScale; decide +kernel))
    | (rcases hs with _ | ⟨_, _ | ⟨_, _ | ⟨_, _ | ⟨_, ⟨⟩⟩⟩⟩⟩ <;>
        first | decide +kernel | (unfold State.legalTypes; decide +kernel) | (unfold State.noScale; decide +kernel))

/-- UnaryAndConversions: VCVT of planes over their own register, to INT16. -/
theorem witness_planes_in_place :
    let s := on { vec hart0 2 (planeTag 16 2) [1, 1, 0, 1] with k := hart0.k.set 3 ⟨0b1011, 0⟩ }
    let u : VUse := { c := false, cls := some .ab, vr := [2], vw := [2], kr := [3] }
    let old := elTy (s.vtag 2)
    let l := s.lanes 3 (s.nOf (typeWidth (s.vtype 2)))
    let upTo := fun m : Nat => (l.take m).foldl (fun u e =>
      u.setElem 2 (plain 2) e (converted 2 s.rm true (u.exactElem 2 e)).code) s
    s.issues u (cvOf s u) ∧ s.spanOk ∧ s.cleanFor [2] [3] ∧ isPlaneType (s.vtype 2) = true ∧ VTag.sc (s.vtag 2) = false ∧
      ∀ e ∈ l, isReserved old ((upTo (l.idxOf e)).elem 2 old e) = false := by
  refine ⟨issues_of ?_, ?_, ?_, ?_, ?_, ?_⟩ <;>
    first
    | decide +kernel
    | (unfold State.spanOk Hart.spanOk; decide +kernel)
    | (unfold State.cleanFor; decide +kernel)

/-- A tile whose lists share a threshold word at the window address 0x40, list 0 with two pairs in it. -/
noncomputable def sharedState : State :=
  let h := vec (vec hart0 8 (typeTag 10) [0x40000000, 0x40A00000]) 9 (typeTag 7) [7, 3]
  let h := regs { h with z := h.z.set 1 { Tile.zero with ranked := true }, csr := { h.csr with vl := 2 } } 5
    [3, 0x8003, 0x000F800000000040, 0x000F800000000400]
  after (.zwait 0 1) (after (.zrpush false 0 8 1) (after (.zrcfg 0 7 6 1) (on h)))

/-- RankedLists: the tile whose threshold is shared: its word can be read and published. -/
theorem witness_shared :
    let s := sharedState
    ∃ cfg : RankedConfig, (s.tile 1).rankedAs cfg ∧ cfg.sh = true ∧ s.sharedAt cfg (coreKey 0 0x40) ∧
      (s.listOf 1 cfg 0).entries.length = 2 ∧
      (let u : VUse := { c := false, cls := some .mp, vr := [8, 9], kr := [0], zs := [1] }
       s.issues u (cvOf s u)) := by
  refine ⟨⟨0x8003, 0x000F800000000040, 0, .key (coreKey 0 0x40)⟩, ⟨?_, ?_, ?_, ?_, ?_⟩, ?_, ⟨?_, ?_, ?_, settled_of ?_, ?_⟩, ?_, issues_of ?_⟩ <;>
    first
    | decide +kernel
    | (unfold State.memoryOk; decide +kernel)
    | (unfold plainKey; decide +kernel)

/-- A handle in a relayout to the window address 0x1000. -/
def r0 : Handle := relaid handle1 0x000F800000001000 0 0

/-- TensorHandles: a row, and a block, of a handle in a relayout whose unit is NEW. -/
theorem witness_relayout_access :
    let s := blockState
    let r := r0
    (∀ e ∈ [0, 1], ∃ p, s.tensorAt r (s.coreOf 32 e) (tensorCoords s r 4 e) true = some p ∧ poisoned s p.1 4 = false ∧
      plainKey p.1 4) ∧
    (let at_ := fun e => s.tensorAt r (s.coreOf 32 e) (tensorCoords s r 4 e) true
     s.tableStays r (tensorCoords s r 4) [0, 1] at_) ∧
    ∃ blk, tileBlock s 4 3 false = .ok blk ∧ blk.handle = r ∧ (s.blockAt blk true 0 0).isSome = true ∧
      (s.blockAt blk false 1 1).isSome = true := by
  refine ⟨?_, ?_, ok_of ?_⟩
  · unfold plainKey; exact all_some (by decide +kernel)
  · intro _ _ e he
    have hk : ∀ e ∈ [0, 1], inWindow (tableWordAddr r0 (unitOf (Handle.extents r0) (tensorCoords blockState r0 4 e))) = true ∧
        (deviceSite blockState blockState.hart.home blockState.hart.asid blockState.hart.user .load
          (tableWordAddr r0 (unitOf (Handle.extents r0) (tensorCoords blockState r0 4 e))) 8).all
            (fun x => decide (x.1 = .key (coreKey 0 0x600))) = true := by decide +kernel
    have hp : ∀ e ∈ [0, 1], (blockState.tensorAt r0 (blockState.coreOf 32 e) (tensorCoords blockState r0 4 e) true).all
        (fun p => decide (coreKey 0 0x600 + 8 ≤ p.1)) = true := by decide +kernel
    refine ⟨(hk e he).1, fun k t h e' he' p h' => .inr ?_⟩
    have h1 := (hk e he).2
    have h2 := hp e' he'
    rw [h] at h1
    rw [show State.tensorAt _ _ _ _ _ = some p from h'] at h2
    simp only [Option.all_some, decide_eq_true_eq, Site.key.injEq] at h1 h2
    omega
  · decide +kernel

/-- StreamsAndCopies: a write stream with a buffered element where the next one goes; a CPY after a vector store that lags over its
source. -/
theorem witness_late_stores :
    let h := streams.hart
    let f := fun n : Nat => (h.f[2]).map fun y => { y with
      position := 1, buf := [(⟨9, false, some (.key (coreKey 0 n)), 0⟩ : StreamItem)] }
    let one := fun n : Nat => { streams with hart := { h with f := h.f.set 2 (f n), csr := { h.csr with vl := 1 } } }
    let late := { streams with hart := { h with order := ⟨false, true, [], [.store (coreKey 0 0x900) 8 77 3], []⟩ } }
    (∀ n ∈ [0x500, 0x504], let s := one n
      let u : VUse := { c := false, cls := some .ls, vr := [6] }
      s.issues u (cvOf s u) ∧ s.cleanFor [6] [] ∧ s.movables [6] ∧ s.hart.order = .prompt ∧ s.hart.transfers = [] ∧ s.memoryOk ∧
      ∃ y, s.stream 2 = some y ∧ y.writes = true ∧ y.hmode = false ∧ y.moved.toNat + y.buf.length = y.position.toNat + s.vstart ∧
        min s.hart.csr.vl.toNat (min (streamCounter s.hart y) (y.avl.toNat - y.position.toNat)) = 1 ∧
        streamSite s y (s.coreOf 32 0) 0 true = .ok (.key (coreKey 0 0x504), 0x000F800000000504, 0) s ∧
        plainKey (coreKey 0 n) 4 ∧ (Site.key (coreKey 0 0x504)).meets 4 (.key (coreKey 0 n)) 4 = decide (n = 0x504) ∧ s.l1d = []) ∧
    (let u : VUse := { needsVl := false, sr := [13, 11, 12] }
     late.issues u (cvOf late u) ∧ late.hart.order = ⟨false, true, [], [.store (coreKey 0 0x900) 8 77 3], []⟩ ∧
      plainKey (coreKey 0 0x900) 8 ∧ late.memoryOk ∧ late.hart.transfers = [] ∧
      (∀ g ∈ [(⟨.key (coreKey 0 0x900), .key (coreKey 0 0x900)⟩ : Segment)], ∀ i : Fin 8,
        (late.hart.f[i].any fun y => streamMeets y g.src 8 || streamMeets y g.dst 8) = false) ∧
      tokenSite late late.hart.home 0 (late.rs 11 + BitVec.ofNat 64 (8 * 0)) 8 false true = .ok (.key (coreKey 0 0x900))) := by
  refine ⟨fun n hn => ⟨issues_of ?_, ?_, ?_, ?_, ?_, ?_, ⟨_, rfl, ?_, ?_, ?_, ?_, res_eq ?_, ?_, ?_, ?_⟩⟩,
    ⟨issues_of ?_, ?_, ?_, ?_, ?_, ?_, ok_eq ?_⟩⟩ <;>
    first
    | decide +kernel
    | (unfold State.memoryOk; decide +kernel)
    | (unfold plainKey; decide +kernel)
    | (revert n; decide +kernel)
    | (unfold State.cleanFor; revert n; decide +kernel)
    | (unfold State.movables State.scaled; revert n; decide +kernel)
    | (unfold State.memoryOk; revert n; decide +kernel)
    | (unfold plainKey; revert n; decide +kernel)

/-- HartEvents, QueueEvents: a hart whose watchdog is due and that stands in no instruction midway and sends no parcel; a hart that is
saved between two instructions with no line of the L1D, with a register changed and one not; a frame that is restored where no
word is poisoned. -/
theorem witness_saved :
    let d := on { hart0 with wdcount := 10, csr := { hart0.csr with wdlimit := 10, vdirty := 6 } }
    let r := { d with mem := words [(0x1000000, 0x0101808800000002), (0x1000000 + 56, 1)] }
    d.hart.progress = none ∧ d.hart.psend = none ∧ d.l1d = [] ∧ (∀ y, ¬ d.dirtyAt d.hart.home y) ∧
      d.hart.csr.vdirty.getLsbD 1 = true ∧ d.hart.csr.vdirty.getLsbD 3 = false ∧
      frameReady r 0x1000000 = true ∧ (prepareCore 0 r 0).memPoison = [] ∧ bit (loadWord r 0x1000000) 1 = true ∧
      bit (loadWord r 0x1000000) 2 = false := by
  refine ⟨rfl, rfl, rfl, fun y => ?_, ?_, ?_, ?_, ?_, ?_, ?_⟩ <;>
    first
    | decide +kernel
    | (rintro ⟨l, hl, _⟩; cases hl)

/-- ModuleEvents: the record of a double trap of a held gang that waits for it, and of a gang that does not wait; a line of main memory
whose location is and is not under repair; a strip of the hart under the cursor. -/
theorem witness_module_events :
    let rec_ := noteRecord 0x02 1 0 0 0 0
    let n : HeldNote := { hart := some (1, 0), record := rec_, toHost := false }
    let g := { loadedGang with status := .held, record := setRecWord loadedGang.record 5 0 }
    let s := (on { hart0 with st := .trapped }).setIsle 0 { State.reset.isle 0 with heldNotes := [n] }
    let w := { s with gangs := [g] }
    let loc := lineLocation s 0x1000 none
    (∀ x ∈ [s, w], (x.isle 0).heldNotes = [n] ∧ ringHasRoom x 0 = true ∧ x.memoryOk) ∧
    (findGang w 1 = some g ∧ g.fpol = 0 ∧ g.caddr = 0 ∧ n.record.extractLsb' 0 8 = 2 ∧ (n.record.extractLsb' 32 32).toNat = 1 ∧
      (w.harts.map Hart.name).Nodup ∧
      (∀ h ∈ w.harts, h.name.1 = 1 → h.settled = true ∧ h.order = .prompt ∧ remoteWritesPending w h.name.1 h.name.2 = false) ∧
      w.l1d = []) ∧
    findGang s 1 = some loadedGang ∧ loadedGang.status ≠ .held ∧
    (underRepair s loc = false ∧ underRepair { s with repairs := [⟨loc, .approved, 0, none⟩] } loc = true) ∧
    (let c := streams
     c.hart.slot = 0 ∧ c.hart.cores.findIdx? (· == 0) = some 0 ∧ ∃ f, c.hart.f[1] = some f ∧ f.buf.length = 2) := by
  refine ⟨?_, ⟨?_, ?_, ?_, ?_, ?_, ?_, ?_, ?_⟩, ?_, ?_, ?_, ⟨?_, ?_, ⟨_, rfl, ?_⟩⟩⟩ <;>
    first
    | decide +kernel
    | (intro x hx; refine ⟨?_, ?_, ?_⟩ <;>
        first
        | (revert x; decide +kernel)
        | (unfold State.memoryOk; revert x; decide +kernel))

/-- StepRunsTheDecodedInstruction: the core's hart in the turn of its core, its word, and a turn that stops at an element. -/
theorem witness_turns :
    let s := on hart0
    let t := { s with agenda := [.part 0 3] }
    (∃ p, cursorOn s s.hart = some p ∧ (fetchInstr p.2).1.isSome = true) ∧
    (∃ p, selected (tick 1 { retry t with agenda := [] }) 0 = some p ∧
      (fetchInstr { p.2 with stopAt := some 3 }).1.isSome = true) ∧
    (selected { tick 1 { retry t with agenda := [] } with hart := { s.hart with st := .exited } } 0).isNone = true := by
  refine ⟨some_of ?_, some_of ?_, ?_⟩ <;> decide +kernel

end Sys2Proof.Tests
end

/-!
The laws of memory and of a write-back (R10, R248). The canonical list is determined by what it reads, and the dirty bytes of a
line are the only ones that a write-back changes.
-/
namespace Sys2Proof.Machine

/-! ### The canonical form is determined by its bytes -/

@[simp] theorem memRead_cons_self (x : Nat) (b : Byte) (r : List Host.Cell) : memRead ((x, b) :: r) x = b := by
  simp [memRead]

theorem memRead_cons_of_lt {x a : Nat} (b : Byte) (r : List Host.Cell) (h : a < x) :
    memRead ((x, b) :: r) a = unlisted := by
  simp [memRead, h, Nat.ne_of_gt h]

theorem memRead_cons_of_gt {x a : Nat} (b : Byte) (r : List Host.Cell) (h : x < a) :
    memRead ((x, b) :: r) a = memRead r a := by
  simp [memRead, Nat.ne_of_lt h, Nat.not_lt.2 (Nat.le_of_lt h)]

theorem memRead_below {x a : Nat} {m : List Host.Cell} (h : aboveAll x m) (ha : a ≤ x) : memRead m a = unlisted :=
  memRead_above m a fun c hc => Nat.lt_of_le_of_lt ha (h c hc)

/-- A list that reads a listed byte at `x` has no first address above `x`. -/
theorem head_le_of_listed {x y : Nat} {c : Byte} {r : List Host.Cell} (h : memRead ((y, c) :: r) x ≠ unlisted) : y ≤ x :=
  Nat.le_of_not_lt fun hxy => h (memRead_cons_of_lt c r hxy)

/-- Lists in the form that read alike and begin at one address read alike behind it. -/
theorem memRead_tail_congr {x : Nat} {b c : Byte} {r r' : List Host.Cell} (hr : aboveAll x r) (hr' : aboveAll x r')
    (h : ∀ a, memRead ((x, b) :: r) a = memRead ((x, c) :: r') a) (a : Nat) : memRead r a = memRead r' a := by
  rcases Nat.lt_or_ge x a with ha | ha
  · rw [← memRead_cons_of_gt b r ha, h a, memRead_cons_of_gt c r' ha]
  · rw [memRead_below hr ha, memRead_below hr' ha]

theorem mem_eq_of_memRead_eq {m m' : List Host.Cell} (hm : memWf m = true) (hm' : memWf m' = true)
    (h : ∀ a, memRead m a = memRead m' a) : m = m' := by
  induction m generalizing m' with
  | nil =>
    cases m' with
    | nil => rfl
    | cons q r' =>
      obtain ⟨y, c⟩ := q
      obtain ⟨hc, -, -⟩ := (memWf_cons y c r').1 hm'
      exact absurd (by simpa [memRead] using (h y).symm) hc
  | cons p r ih =>
    obtain ⟨x, b⟩ := p
    obtain ⟨hb, hxr, hr⟩ := (memWf_cons x b r).1 hm
    cases m' with
    | nil => exact absurd (by simpa [memRead] using h x) hb
    | cons q r' =>
      obtain ⟨y, c⟩ := q
      obtain ⟨hc, hyr', hr'⟩ := (memWf_cons y c r').1 hm'
      have hyx : y ≤ x := head_le_of_listed (by rwa [← h x, memRead_cons_self])
      have hxy : x ≤ y := head_le_of_listed (by rwa [h y, memRead_cons_self])
      obtain rfl : x = y := Nat.le_antisymm hxy hyx
      have hbc : b = c := by simpa using h x
      rw [hbc, ih hr hr' (memRead_tail_congr hxr hyr' h)]

/-! ### The masked write (R248) -/

theorem memWrite_ite_wf (p : Prop) [Decidable p] (m : List Host.Cell) (a : Nat) (v : Byte) (h : memWf m = true) :
    memWf (if p then memWrite m a v else m) = true := by
  split
  · exact memWrite_wf m a v h
  · exact h

theorem memRead_memWrite_ite (p : Prop) [Decidable p] (m : List Host.Cell) (a x : Nat) (v : Byte) (h : memWf m = true) :
    memRead (if p then memWrite m a v else m) x = if p ∧ x = a then v else memRead m x := by
  by_cases hp : p
  · simp [hp, memRead_memWrite m a x v h]
  · simp [hp]

theorem memRead_writeMasked_outside (n : Nat) (m : List Host.Cell) (a v k x : Nat) (h : memWf m = true)
    (hx : x < a ∨ a + n ≤ x) : memRead (writeMasked m a n v k) x = memRead m x := by
  induction n generalizing m a v k with
  | zero => rfl
  | succ n ih =>
    have hxa : x ≠ a := by omega
    rw [writeMasked, ih _ _ _ _ (memWrite_ite_wf _ _ _ _ h) (by omega), memRead_memWrite_ite _ _ _ _ _ h]
    simp [hxa]

theorem memRead_writeMasked (n : Nat) (m : List Host.Cell) (a v k i : Nat) (h : memWf m = true) (hi : i < n) :
    memRead (writeMasked m a n v k) (a + i) =
      if k.testBit i then BitVec.ofNat 8 (v / 256 ^ i) else memRead m (a + i) := by
  induction n generalizing m a v k i with
  | zero => omega
  | succ n ih =>
    have hw := memWrite_ite_wf (k % 2 = 1) m a (BitVec.ofNat 8 v) h
    rw [writeMasked]
    cases i with
    | zero =>
      rw [memRead_writeMasked_outside _ _ _ _ _ _ hw (by omega), memRead_memWrite_ite _ _ _ _ _ h]
      simp [Nat.testBit_zero]
    | succ i =>
      rw [show a + (i + 1) = a + 1 + i by omega, ih _ _ _ _ _ hw (by omega), memRead_memWrite_ite _ _ _ _ _ h,
        Nat.div_div_eq_div_mul, Nat.pow_succ', Nat.testBit_succ]
      simp [show a + 1 + i ≠ a by omega]

/-! ### A line of the L1D taken to memory (R248) -/

theorem writeBackLine_mem (s : State) (l : L1dLine) :
    (writeBackLine s l).mem = writeMasked s.mem (64 * l.line) 64 l.data.toNat l.dirty.toNat := by
  unfold writeBackLine
  dsimp only
  split <;> split <;> rfl

/-- Byte `j` of a line, as a number and as a slice of its bits. -/
theorem ofNat_byte_eq_extractLsb' {w : Nat} (d : BitVec w) (j : Nat) :
    BitVec.ofNat 8 (d.toNat / 256 ^ j) = d.extractLsb' (8 * j) 8 := by
  apply BitVec.eq_of_toNat_eq
  rw [BitVec.toNat_ofNat, BitVec.extractLsb'_toNat, Nat.shiftRight_eq_div_pow, Nat.pow_mul]

theorem memRead_writeBackLine (s : State) (l : L1dLine) (j : Nat) (h : s.memoryOk) (hj : j < 64) :
    memRead (writeBackLine s l).mem (64 * l.line + j) =
      if l.dirty.getLsbD j then l.data.extractLsb' (8 * j) 8 else memRead s.mem (64 * l.line + j) := by
  rw [writeBackLine_mem, memRead_writeMasked _ _ _ _ _ _ h hj, ofNat_byte_eq_extractLsb', BitVec.getLsbD]

theorem memRead_writeBackLine_outside (s : State) (l : L1dLine) (x : Nat) (h : s.memoryOk)
    (hx : x < 64 * l.line ∨ 64 * l.line + 64 ≤ x) : memRead (writeBackLine s l).mem x = memRead s.mem x := by
  rw [writeBackLine_mem, memRead_writeMasked_outside _ _ _ _ _ _ h hx]

/-- Settles O20: by the laws of `writeLE`, the extensionality of the canonical form, and the masked write that a write-back is. -/
theorem memoryLaws : Obligations.MemoryLaws := by
  unfold Obligations.MemoryLaws
  refine ⟨fun m hm => ⟨fun a n v => ⟨?_, ?_, fun j hj => ?_, fun x hx => ?_⟩, fun m' hm' h => ?_⟩,
    fun s l j hs hj => ⟨?_, fun x hx => ?_, ?_⟩⟩
  · exact writeLE_wf n m a v hm
  · exact readLE_writeLE n m a v hm
  · exact memRead_writeLE n m a v j hm hj
  · exact memRead_writeLE_outside n m a v x hm hx
  · exact mem_eq_of_memRead_eq hm hm' h
  · exact memRead_writeBackLine s l j hs hj
  · exact memRead_writeBackLine_outside s l x hs hx
  · exact writeBackLine_ok s l hs

end Sys2Proof.Machine
